-- ==== Sys2Proof/Word.lean ====
section
/-! DEFINITION. Words and the plain data the commands and the state are made of: ports and hubs, decoded container
tables (descriptors, entries, presence descriptors), the decoded program body, claim records and packets.
The binary layouts these come from are read in Sys2Proof/Machine. -/

namespace Sys2Proof

abbrev Byte := BitVec 8
abbrev W16 := BitVec 16
abbrev W32 := BitVec 32
abbrev W64 := BitVec 64
abbrev Digest := BitVec 256

/-- A table keyed by number, kept with strictly rising keys. -/
abbrev Tab (α : Type) := List (Nat × α)

/-- The two host ports: port A on H0, port B on H1 (R313). -/
inductive Port where
  | a | b
deriving DecidableEq, Repr, Inhabited

/-- The two hub dies (R13). -/
inductive Hub where
  | h0 | h1
deriving DecidableEq, Repr, Inhabited

/-- The hub that carries a port (R313). -/
def Port.hub : Port → Hub
  | .a => .h0
  | .b => .h1

/-- The port a hub carries (R313). -/
def Hub.port : Hub → Port
  | .h0 => .a
  | .h1 => .b

def Hub.other : Hub → Hub
  | .h0 => .h1
  | .h1 => .h0

def Port.other : Port → Port
  | .a => .b
  | .b => .a

/-- The number of a hub, as LEAD_CHANGE carries it (R344). -/
def Hub.num : Hub → Nat
  | .h0 => 0
  | .h1 => 1

/-- The number of a port, as PORT_DOWN carries it (R344). -/
def Port.num : Port → Nat
  | .a => 0
  | .b => 1

/-- A mailbox request as the host writes it into a request page and rings it (R320): every field of the page header
but CMD, which the command itself names, and the body. `resv` says that a reserved field of the page header is
non-zero. -/
structure MbxReq where
  port : Port
  box : Nat
  notify : Bool
  token : W32
  resv : Bool
  bodyLen : Nat
  body : List Byte
deriving DecidableEq, Repr, Inhabited

/-- One dimension of a tensor descriptor (R176): EXTENT, EXT_SRC, EXT_ARG, LVL_STRIDE, STRIDE, ALLOC. -/
structure Dim where
  extent : Nat
  src : Nat
  arg : Nat
  lvlStride : Bool
  stride : Int
  alloc : Nat
deriving DecidableEq, Repr, Inhabited

/-- A tensor descriptor, field by field (R176). `resv` says that a reserved field is non-zero. -/
structure Desc where
  handle : Nat
  etype : Nat
  form : Bool
  twoWord : Bool
  hdr : Bool
  limbDim : Nat
  tUntied : Bool
  tagBind : Nat
  tDomain : Nat
  tKind : Nat
  tLog2n : Nat
  tLevel : Nat
  tLayout : Nat
  tChain : Nat
  tSlotsLog2 : Nat
  tScale : Nat
  hdrOffset : Nat
  dataOffset : Nat
  ltw : Nat
  bstride0 : Int
  bstride1 : Int
  dims : List Dim
  resv : Bool
deriving DecidableEq, Repr, Inhabited

/-- A presence descriptor (R189). -/
structure Pres where
  pkind : Nat
  countA : Nat
  countB : Nat
  blkRows : Nat
  blkCols : Nat
  addr : Nat
  resv : Bool
deriving DecidableEq, Repr, Inhabited

/-- A key name: BIND, KKIND, GALOIS_ELT (R206). -/
structure KeyName where
  bind : Nat
  kkind : Nat
  galois : Nat
  resv : Bool
deriving DecidableEq, Repr, Inhabited

/-- A range pair declared for base conversion (R206). -/
structure RangePair where
  srcFirst : Nat
  srcCount : Nat
  dstFirst : Nat
  dstCount : Nat
deriving DecidableEq, Repr, Inhabited

/-- A program entry (R205, table Entry). -/
structure Entry where
  opcode : Nat
  numDst : Nat
  numSrc : Nat
  descFirst : Nat
  pres : Nat
  numKeys : Nat
  hoist : Bool
  accum : Bool
  exact : Bool
  keysOff : Nat
  bodyEntry : Nat
  wScale : Nat
  arg : Nat
  firstSlot : Nat
  resv : Bool
  keys : List KeyName
deriving DecidableEq, Repr, Inhabited

/-- A count read at issue: the sources of the table EXT_SRC encoding (R176, R180). -/
inductive CountSrc where
  | fixed (n : Nat)
  | sreg (r : Nat)
  | bound (w : Nat)
  | level
deriving DecidableEq, Repr, Inhabited

/-- How far BASE of a binding moves with the coordinates of the task's tile, in bytes per position (R65, R224). -/
structure TileStep where
  key : Nat := 0
  limb : Nat := 0
  blk : Nat := 0
  item : Nat := 0
deriving DecidableEq, Repr, Inhabited

/-- One handle of a binding list of the body (R65, R68, R69): the fields the die controller writes into the entry.
BASE is `base` plus, when `word` names one, the 64-bit value in bound-block words `word` and `word + 1`, plus what the
tile's coordinates add. -/
structure HandleBind where
  handle : Nat
  place : Nat
  owner : Nat
  mirror : Bool
  accum : Bool
  accOp : Nat
  peer : Nat
  buddyBase : Nat
  base : Nat
  word : Option Nat
  length : Nat
  step : TileStep := {}
deriving DecidableEq, Repr, Inhabited

/-- The operation of one VXE stage (R132). -/
inductive VOp where
  | add | sub | neg | mul | fma
  | cmpEq | cmpNe | cmpLt | cmpLe | cmpGt | cmpGe
  | sel | min | max
  | redAdd | redMin | redMax
deriving DecidableEq, Repr, Inhabited

/-- A stage operand: an input stream, a scalar, or the result of an earlier stage (R137 rule 3). -/
inductive VArg where
  | input (i : Nat)
  | scalar (i : Nat)
  | stage (i : Nat)
deriving DecidableEq, Repr, Inhabited

structure VStage where
  op : VOp
  args : List VArg
deriving DecidableEq, Repr, Inhabited

/-- A fused chain of VXE stages (R137). `scalars` are scalar registers; `reduce` is the number k of innermost
dimensions a closing REDUCE combines (R140). -/
structure VxeOp where
  srcs : List Desc
  dst : Desc
  scalars : List Nat
  stages : List VStage
  slot0 : Nat
  reduce : Nat
  batch0 : CountSrc
  batch1 : CountSrc
deriving DecidableEq, Repr, Inhabited

/-- How an MXA drains its accumulators (R121). -/
inductive Drain where
  | res | low32 | low64 | raw96
deriving DecidableEq, Repr, Inhabited

/-- The B operand of a key-switch instruction: one half of pieces in the die key cache (R20, R63, R164). The key is the one
at a position of the command's list, or at the tile's KEY position; summed index t reads digit `digit + t`, column c limb
`limb + c` of the key, or the limb at the tile's LIMB position. -/
structure KeyUse where
  key : Option Nat
  aHalf : Bool
  digit : Nat
  limb : Option Nat
deriving DecidableEq, Repr, Inhabited

/-- A MATMUL or INNER instruction (R117, R118). For MATMUL A has dimensions d0 = i,
d1 = r and B has d0 = c, d1 = i, so that the tensors of R129 are stored I × R and K × I when read with TRANSPOSE; for
INNER A and B have d0 = c, d1 = r, d2 = t. C has d0 = c, d1 = r. `key` makes it a key-switch instruction, whose B comes from
the key stream. `sparse` makes B a part of the command's block-sparse weights, and gives the row and column of the weights at
which B starts (R192). -/
structure MxaOp where
  a : Desc
  b : Desc
  dst : Desc
  rows : CountSrc
  inner : CountSrc
  cols : CountSrc
  accum : Bool
  slot0 : Nat
  seq : Bool
  drain : Drain
  key : Option KeyUse
  sparse : Option (Nat × Nat)
  batch0 : CountSrc
  batch1 : CountSrc
deriving DecidableEq, Repr, Inhabited

/-- A base conversion instruction (R122): source and target slot ranges; rows of coefficients. -/
structure BconvOp where
  src : Desc
  dst : Desc
  pair : RangePair
  rows : CountSrc
  batch0 : CountSrc
  batch1 : CountSrc
deriving DecidableEq, Repr, Inhabited

/-- An NTT instruction (R94). `ltw` is the load word of its operand stream (R99, R100), whose ring dimension is N. -/
structure NttOp where
  src : Nat
  dst : Nat
  ltw : Nat
  log2n : Nat
  chain : Nat
  slot0 : Nat
  limbs : CountSrc
deriving DecidableEq, Repr, Inhabited

/-- A DMA instruction (R241, R242): a move between the places of two handles, through the inbound path when it loads
into a LOCAL handle and through the store path otherwise. `slot0` is the chain slot of limb index 0. -/
structure DmaOp where
  pq : Nat
  src : Desc
  dst : Desc
  slot0 : Nat
  batch0 : CountSrc
  batch1 : CountSrc
deriving DecidableEq, Repr, Inhabited

/-- A FOLD (R79): local source handle, accumulator handle, chain slot of a res32 fold. -/
structure FoldOp where
  src : Nat
  acc : Nat
  slot : Nat
  chain : Nat
deriving DecidableEq, Repr, Inhabited

/-- A scalar, loop or queue-limit instruction of the issuer itself (R57, R61, R241). The private encoding fixes what
a scalar instruction computes; what it writes is carried here. -/
inductive ScalarOp where
  | write (rd : Nat) (value : W64)
  | addImm (rd rs : Nat) (value : W64)
  | loopBegin (count : CountSrc)
  | loopEnd
  | branch (target : Nat)
  | queueLimit (pq n : Nat)
deriving DecidableEq, Repr, Inhabited

/-- An instruction of a task, decoded from the private body (R207). -/
inductive CoreInstr where
  | nttFwd (o : NttOp)
  | nttInv (o : NttOp)
  | matmul (o : MxaOp)
  | inner (o : MxaOp)
  | bconvFast (o : BconvOp)
  | bconvExact (o : BconvOp)
  | vxe (o : VxeOp)
  | dma (o : DmaOp)
  | fold (o : FoldOp)
  | signal (e : Nat)
  | wait (e : Nat) (v : Nat)
  | fenceSlot
  | fenceKey
  | scalar (o : ScalarOp)
deriving DecidableEq, Repr, Inhabited

/-- The positions of one axis of the phase before on which a tile depends (R224): every one, those the tile itself covers, or
`len` positions from `x · mul / div + add` for each position x the tile covers. -/
inductive AxisDep where
  | all
  | same
  | span (mul div add len : CountSrc)
deriving DecidableEq, Repr, Inhabited

/-- The tiles of the phase before on which a tile depends: those that hold the positions named on every axis. -/
structure DepRule where
  key : AxisDep
  limb : AxisDep
  blk : AxisDep
  item : AxisDep
deriving DecidableEq, Repr, Inhabited

/-- What a scalar register holds before a task's first issue (R211): a bound-block word, or a fact of the tile plan. -/
inductive SregSrc where
  | const (v : W64)
  | bound (w : Nat)
  | key | limb | blk | blks | item | items | claimIndex
deriving DecidableEq, Repr, Inhabited

/-- One phase of a tile plan (R224, R225): its axes, the split order of its sized axes, its footprint in bytes as
`fp0 + fpBlock·t(BLOCK) + fpItem·t(ITEM) + fpBoth·t(BLOCK)·t(ITEM)`, the level of its basis where it is not that of the
operands' templates, the slots per core and reserved bytes, its code
and binding list, the scalar registers its tasks start with, and how its tiles depend on the phase before (none: on no
tile). BLOCK has a count and the coefficients or rows that make one block, ITEM the counts of its two batch loops; `galois` is
log2 of the ring of its GALOIS load, 0 for none. The binding list of a task in slot k gives the handles it owns the numbers
`slotStep` · k further on than those written here, and its stream names them so (R207, log 135). -/
structure Phase where
  keyAxis : Bool
  limbAxis : Bool
  special : Bool
  level : Option Nat
  block : Option (CountSrc × Nat)
  item : Option (CountSrc × CountSrc)
  blockFirst : Bool
  galois : Nat
  folds : Bool
  fp0 : Nat
  fpBlock : Nat
  fpItem : Nat
  fpBoth : Nat
  slots : Nat
  prefetchRegion : Nat
  reserved : Nat
  weightPrefetch : Bool
  deps : Option DepRule
  inPlace : Bool
  sregs : List (Nat × SregSrc)
  binds : List HandleBind
  slotStep : Nat
  code : List CoreInstr
deriving DecidableEq, Repr, Inhabited

/-- The decoded code at one entry point of the private body (R207, R252, R257): its byte offset, batch counts of the entry's
descriptors in order, the binding list its descriptors are read under, phases, preset, carried constants, and the
fused chain of a MAP. -/
structure BodyEntry where
  offset : Nat
  batch : List (CountSrc × CountSrc)
  binds : List HandleBind
  phases : List Phase
  preset : Nat
  consts : List Nat
  chain : Option VxeOp
  rowDims : List Nat
  reuse : Bool
deriving DecidableEq, Repr, Inhabited

/-- What decoding a program's private body gives (R207): whether it decodes, and its entry points. -/
structure Body where
  decodes : Bool
  entries : List BodyEntry
deriving DecidableEq, Repr, Inhabited

/-- A claim record (R235). -/
structure Claim where
  claimIndex : Nat
  opSerial : Nat
  claimer : Nat
  die : Nat
  phase : Nat
  pre : Bool
  attempt : Nat
deriving DecidableEq, Repr, Inhabited

/-- A remote accumulate packet: the header of R283 and its payload. -/
structure AccPacket where
  rjob : Nat
  srcDev : Nat
  srcDie : Nat
  aop : Nat
  q : Nat
  dstAddr : Nat
  seq : Nat
  pcheck : Nat
  claim : Claim
  phcrc : Nat
  payload : List Byte
deriving DecidableEq, Repr, Inhabited

/-- The outcome an answer to a packet carries (R284, R285). -/
inductive AccOutcome where
  | applied | duplicate | rejected | resend
deriving DecidableEq, Repr, Inhabited

/-- An answer to a packet (R285); `stack` is the controller that answers. -/
structure AccAnswer where
  rjob : Nat
  srcDie : Nat
  seq : Nat
  stack : Nat
  outcome : AccOutcome
deriving DecidableEq, Repr, Inhabited

/-- A key piece's identity (R165 PIECE_ID): caddy, key, digit, limb. -/
structure PieceId where
  caddy : Nat
  key : Nat
  digit : Nat
  limb : Nat
deriving DecidableEq, Repr, Inhabited

/-- One worker as the tree presents it to an enumeration (R352, R494): its parent (0 for the manager, n for the n-th worker
presented), the parent's port, its own UP port, whether it has two UP ports (`second` is the parent's port of the second), and whether they lead to one parent and every
link ends as R351 says. -/
structure WorkerFound where
  parent : Nat
  parentPort : Nat
  upPort : Nat
  twoUp : Bool
  consistent : Bool
  second : Option Nat := none
deriving DecidableEq, Repr, Inhabited

/-- What a packet tells the device that receives it (R355), decoded: a worker its device number, with the devices below it as number,
parent, the parent's port and the one that stands by; a doorbell; a launched doorbell; the link of one of its jobs; events drained; a
fetch of the running image; that a job of the PEER link is paired there, or destroyed; a packet for another device, of so many flits. A
forwarded mailbox command comes as that command. -/
inductive FabMsg where
  | number (dev : Nat) (below : List (Nat × Nat × Nat × Option Nat))
  | doorbell (queue : Nat) (value : W64)
  | launch (queue : Nat) (when_ : W64) (value : W64)
  | link (job : Nat) (sink : Nat)
  | drain (events : Nat)
  | fetchImage
  | paired (job : Nat)
  | unpaired (job : Nat)
  | relay (dev : Nat) (flits : Nat)
deriving DecidableEq, Repr, Inhabited

/-- A Worgon flit (R354), after error correction where it is received: header fields, payload, CRC, and the decoded packet that it
ends, if any. -/
structure Flit where
  fseq : Nat
  ackseq : Nat
  nak : Bool
  cls : Nat
  crClass : Nat
  credits : Nat
  payload : List Byte
  crc : W32
  msg : Option FabMsg := none
deriving DecidableEq, Repr, Inhabited

/-- The engines that carry spare lanes (R88). -/
inductive Engine where
  | ntt | mxa | vxe
deriving DecidableEq, Repr, Inhabited

/-- The operand widths and the operations of a hub's bignum engine (R457). -/
inductive BigSize where
  | b256 | b384 | b576 | b4096
deriving DecidableEq, Repr, Inhabited

inductive BigOp where
  | mul | mac | mont | madd | msub
deriving DecidableEq, Repr, Inhabited

/-- Where a register is reached: BAR0 of a port, or a hub's management sideband (R498, R500). -/
inductive RegPath where
  | bar0 (port : Port)
  | sideband (hub : Hub)
deriving DecidableEq, Repr, Inhabited

/-- The paths on which a beat can be in error (R386), and the memories of a core, whose words the same code guards (R304). -/
inductive BeatPath where
  | network (die : Nat)
  | bridge (dieLo dieHi : Nat)
  | hubToDie (hub : Nat) (die : Nat)
  | farStack (stack : Nat)
  | nearStack (stack : Nat)
  | worgonLane (port : Nat)
  | sram (physical : Nat)
deriving DecidableEq, Repr, Inhabited

/-- A beat received on a path, with the bits of its 72-bit word that are in error (R304, R386). -/
structure BeatHit where
  path : BeatPath
  bits : BitVec 72
deriving DecidableEq, Repr, Inhabited

/-- A memory-side request as the network carries it: the value of the operation and the far word it is for (R300). -/
structure MemOp where
  code : BitVec 4
  word : Nat
deriving DecidableEq, Repr, Inhabited

/-- A host port's link as it trained: PCIe generation and lanes (R313). -/
structure PortLink where
  port : Port
  gen : Nat
  lanes : Nat
deriving DecidableEq, Repr, Inhabited

/-- Who offers a firmware image to a boot ROM (R440 step 3). -/
inductive OfferSource where
  | ownPort | otherHub | parent
deriving DecidableEq, Repr, Inhabited

end Sys2Proof
end

