-- ==== Sys2Proof/Syntax.lean ====
section
/-! DEFINITION. The commands: one constructor per row of spec/opcode_table.json, with the row's operands. A mailbox
command carries its request as the host rings it; an internal event names the unit it happens to, and carries what
the environment decides (a reading, a pin, another device's answer). -/

namespace Sys2Proof

/-- The straps that the release of both hubs samples: the role and SBADDR (R348, R481, R498). -/
structure Straps where
  role : Fin 4
  sbAddr : Fin 4
  deriving DecidableEq, Repr

inductive Instr where
  | getInfo (rq : MbxReq)  -- GET_INFO (R324)
  | configLoad (rq : MbxReq)  -- CONFIG_LOAD (R496)
  | fwLoad (rq : MbxReq)  -- FW_LOAD (R426)
  | spdm (rq : MbxReq)  -- SPDM (R314)
  | doeMessage (port : Port) (msg : List Byte)  -- DOE_MESSAGE (R314)
  | memGrant (rq : MbxReq)  -- MEM_GRANT (R326)
  | memRelease (rq : MbxReq)  -- MEM_RELEASE (R326)
  | copyIn (rq : MbxReq)  -- COPY_IN (R326)
  | copyOut (rq : MbxReq)  -- COPY_OUT (R326)
  | chainLoad (rq : MbxReq)  -- CHAIN_LOAD (R28)
  | chainUnload (rq : MbxReq)  -- CHAIN_UNLOAD (R26)
  | caddyLoad (rq : MbxReq)  -- CADDY_LOAD (R154)
  | caddyLoadDone (caddy : Nat)  -- CADDY_LOAD_DONE (R157)
  | caddyUnload (rq : MbxReq)  -- CADDY_UNLOAD (R160)
  | caddyQuery (rq : MbxReq)  -- CADDY_QUERY (R324)
  | caddyResident (caddy : Nat)  -- CADDY_RESIDENT (R159)
  | programLoad (rq : MbxReq) (body : Body)  -- PROGRAM_LOAD (R202)
  | programUnload (rq : MbxReq)  -- PROGRAM_UNLOAD (R204)
  | jobCreate (rq : MbxReq)  -- JOB_CREATE (R328)
  | jobDestroy (rq : MbxReq)  -- JOB_DESTROY (R329)
  | jobStatus (rq : MbxReq)  -- JOB_STATUS (R324)
  | queueCreate (rq : MbxReq)  -- QUEUE_CREATE (R330)
  | queueSet (rq : MbxReq)  -- QUEUE_SET (R340)
  | queueCancel (rq : MbxReq)  -- QUEUE_CANCEL (R341)
  | queueResume (rq : MbxReq)  -- QUEUE_RESUME (R339)
  | queueReset (rq : MbxReq)  -- QUEUE_RESET (R341)
  | queueDestroy (rq : MbxReq)  -- QUEUE_DESTROY (R342)
  | queueRehome (rq : MbxReq)  -- QUEUE_REHOME (R347)
  | eventRingSet (rq : MbxReq)  -- EVENT_RING_SET (R514)
  | rebuildShare (rq : MbxReq)  -- REBUILD_SHARE (R311)
  | fabEnum (rq : MbxReq) (tree : List WorkerFound)  -- FAB_ENUM (R352)
  | fabStatus (rq : MbxReq) (answer : List Byte)  -- FAB_STATUS (R359)
  | fabForward (rq : MbxReq) (answer : List Byte)  -- FAB_FORWARD (R360)
  | fabEvents (rq : MbxReq) (drained : List (List Byte))  -- FAB_EVENTS (R362)
  | fabDoorbell (rq : MbxReq)  -- FAB_DOORBELL (R362)
  | fabLaunch (rq : MbxReq) (late : List Nat)  -- FAB_LAUNCH (R370)
  | launchDoorbellApply (queue : Nat)  -- LAUNCH_DOORBELL_APPLY (R370)
  | fabLink (rq : MbxReq) (answers : List (Nat × Nat × List Nat × List Nat))  -- FAB_LINK (R363)
  | fabPair (rq : MbxReq)  -- FAB_PAIR (R371)
  | fabSeal (rq : MbxReq)  -- FAB_SEAL (R366)
  | svcStatus (rq : MbxReq)  -- SVC_STATUS (R428)
  | coreRetire (rq : MbxReq)  -- CORE_RETIRE (R416)
  | coreTest (rq : MbxReq)  -- CORE_TEST (R414)
  | coreInfo (rq : MbxReq)  -- CORE_INFO (R428)
  | dieDown (rq : MbxReq)  -- DIE_DOWN (R417)
  | dieUp (rq : MbxReq)  -- DIE_UP (R417)
  | hubSwap (rq : MbxReq)  -- HUB_SWAP (R421)
  | hubRejoin (rq : MbxReq)  -- HUB_REJOIN (R422)
  | hubRejoinDone (hub : Hub)  -- HUB_REJOIN_DONE (R422)
  | firmwareActivation  -- FIRMWARE_ACTIVATION (R426)
  | bboxInfo (rq : MbxReq)  -- BBOX_INFO (R434)
  | bboxRead (rq : MbxReq)  -- BBOX_READ (R434)
  | bootImage (rq : MbxReq)  -- BOOT_IMAGE (R440)
  | attest (rq : MbxReq)  -- ATTEST (R452)
  | identityGet (rq : MbxReq)  -- IDENTITY_GET (R454)
  | protSet (rq : MbxReq)  -- PROT_SET (R445)
  | regionSet (rq : MbxReq)  -- REGION_SET (R446)
  | svnCommit (rq : MbxReq)  -- SVN_COMMIT (R455)
  | integratorEnroll (rq : MbxReq)  -- INTEGRATOR_ENROLL (R456)
  | mbxAck (port : Port) (value : W64)  -- MBX_ACK (R321)
  | sqTail (port : Port) (queue : Nat) (value : W64)  -- SQ_TAIL (R331)
  | cqHead (port : Port) (queue : Nat) (value : W64)  -- CQ_HEAD (R331)
  | evtHead (port : Port) (value : W64)  -- EVT_HEAD (R513)
  | pwrCap (port : Port) (value : W32)  -- PWR_CAP (R471)
  | farWindow (port : Port) (value : W64)  -- FAR_WINDOW (R510)
  | bar2Read (port : Port) (offset : Nat) (length : Nat)  -- BAR2_READ (R318)
  | bar2Write (port : Port) (offset : Nat) (data : List Byte)  -- BAR2_WRITE (R318)
  | gcountLowRead (port : Port)  -- GCOUNT_LOW_READ (R507)
  | gcountHighRead (port : Port)  -- GCOUNT_HIGH_READ (R507)
  | registerWrite (path : RegPath) (offset : Nat) (data : List Byte)  -- REGISTER_WRITE (R10)
  | cfgData (hub : Hub) (value : W32)  -- CFG_DATA (R498)
  | cfgPtr (hub : Hub) (value : W32)  -- CFG_PTR (R498)
  | go (hub : Hub) (value : W32)  -- GO (R498)
  | add (queue : Nat)  -- ADD (R208)
  | sub (queue : Nat)  -- SUB (R208)
  | neg (queue : Nat)  -- NEG (R208)
  | mulPt (queue : Nat)  -- MUL_PT (R208)
  | mulCt (queue : Nat)  -- MUL_CT (R208)
  | relin (queue : Nat)  -- RELIN (R148)
  | rotate (queue : Nat)  -- ROTATE (R519)
  | conjugate (queue : Nat)  -- CONJUGATE (R519)
  | linear (queue : Nat)  -- LINEAR (R519)
  | rescale (queue : Nat)  -- RESCALE (R516)
  | levelDrop (queue : Nat)  -- LEVEL_DROP (R36)
  | nttFwd (queue : Nat)  -- NTT_FWD (R98)
  | nttInv (queue : Nat)  -- NTT_INV (R98)
  | matmul (queue : Nat)  -- MATMUL (R208)
  | map (queue : Nat)  -- MAP (R137)
  | gather (queue : Nat)  -- GATHER (R194)
  | scatter (queue : Nat)  -- SCATTER (R194)
  | scatterAdd (queue : Nat)  -- SCATTER_ADD (R196)
  | copy (queue : Nat)  -- COPY (R185)
  | remoteAdd (queue : Nat)  -- REMOTE_ADD (R283)
  | bootstrap (queue : Nat)  -- BOOTSTRAP (R257)
  | switchOut (queue : Nat)  -- SWITCH_OUT (R263)
  | lut (queue : Nat)  -- LUT (R265)
  | repack (queue : Nat)  -- REPACK (R270)
  | exportOp (queue : Nat)  -- EXPORT (R271)
  | flagSet (queue : Nat)  -- FLAG_SET (R214)
  | flagWait (queue : Nat)  -- FLAG_WAIT (R214)
  | nop (queue : Nat)  -- NOP (R334)
  | boundaryCommand (queue : Nat)  -- BOUNDARY_COMMAND (R245)
  | taskPlace (core : Nat)  -- TASK_PLACE (R62)
  | claim (core : Nat) (queue : Nat) (serial : Nat) (phase : Nat)  -- CLAIM (R234)
  | taskComplete (core : Nat) (slot : Nat)  -- TASK_COMPLETE (R62)
  | passNotice (core : Nat) (handle : Nat) (claim : Claim)  -- PASS_NOTICE (R81)
  | nttFwdInstruction (core : Nat)  -- NTT_FWD_INSTRUCTION (R94)
  | nttInvInstruction (core : Nat)  -- NTT_INV_INSTRUCTION (R94)
  | mxaMatmul (core : Nat)  -- MXA_MATMUL (R117)
  | inner (core : Nat)  -- INNER (R117)
  | bconvFast (core : Nat)  -- BCONV_FAST (R122)
  | bconvExact (core : Nat)  -- BCONV_EXACT (R122)
  | vxeChain (core : Nat)  -- VXE_CHAIN (R137)
  | dma (core : Nat)  -- DMA (R242)
  | dmaTransferStart (core : Nat) (pq : Nat)  -- DMA_TRANSFER_START (R242)
  | fold (core : Nat)  -- FOLD (R79)
  | foldApply (core : Nat) (handle : Nat)  -- FOLD_APPLY (R81)
  | signal (core : Nat)  -- SIGNAL (R66)
  | wait (core : Nat)  -- WAIT (R66)
  | fenceSlot (core : Nat)  -- FENCE_SLOT (R86)
  | fenceKey (core : Nat)  -- FENCE_KEY (R86)
  | scalarInstruction (core : Nat)  -- SCALAR_INSTRUCTION (R57)
  | instructionComplete (core : Nat) (id : Nat)  -- INSTRUCTION_COMPLETE (R59)
  | eventTimeout (core : Nat) (slot : Nat)  -- EVENT_TIMEOUT (R67)
  | accumulatorCommit (queue : Nat) (serial : Nat)  -- ACCUMULATOR_COMMIT (R82)
  | commandComplete (queue : Nat) (serial : Nat)  -- COMMAND_COMPLETE (R251)
  | completionRecordPost (queue : Nat)  -- COMPLETION_RECORD_POST (R336)
  | commandAbort (queue : Nat) (serial : Nat) (cls : Nat)  -- COMMAND_ABORT (R400)
  | pieceSend (hub : Hub)  -- PIECE_SEND (R248)
  | pieceArrive (die : Fin 8) (piece : PieceId)  -- PIECE_ARRIVE (R166)
  | pieceReady (die : Fin 8) (piece : PieceId)  -- PIECE_READY (R167)
  | fadd64 (op : MemOp) (value : W64)  -- FADD64 (R300)
  | set64 (address : Nat) (value : W64)  -- SET64 (R300)
  | watch64 (address : Nat) (threshold : W64) (queue : Nat)  -- WATCH64 (R301)
  | unwatch (stack : Fin 16) (number : Nat)  -- UNWATCH (R300)
  | watchAnswer (stack : Fin 16) (number : Nat)  -- WATCH_ANSWER (R214)
  | watchPoll (queue : Nat)  -- WATCH_POLL (R301)
  | flagWaitTimeout (queue : Nat)  -- FLAG_WAIT_TIMEOUT (R215)
  | farBlockRead (block : Nat) (errors : List (Nat × BitVec 72)) (misread : Option (List Byte))  -- FAR_BLOCK_READ (R297)
  | farBlockWrite (block : Nat) (offset : Nat) (data : List Byte)  -- FAR_BLOCK_WRITE (R298)
  | parityDelta (index : Nat)  -- PARITY_DELTA (R302)
  | scrub (block : Nat) (errors : List (Nat × BitVec 72))  -- SCRUB (R305)
  | accumulatePacket (packet : AccPacket)  -- ACCUMULATE_PACKET (R284)
  | mergeHdr (packet : AccPacket)  -- MERGE_HDR (R286)
  | accumulateAnswer (answer : AccAnswer)  -- ACCUMULATE_ANSWER (R285)
  | packetResendTimeout (die : Fin 8) (rjob : Nat) (stack : Nat) (seq : Nat)  -- PACKET_RESEND_TIMEOUT (R393)
  | beatError (beat : BeatHit)  -- BEAT_ERROR (R386)
  | laneFault (physical : Nat) (engine : Engine)  -- LANE_FAULT (R88)
  | coreFault (physical : Nat)  -- CORE_FAULT (R389)
  | coreFenceDone (physical : Nat)  -- CORE_FENCE_DONE (R390)
  | coreSelfTestStart (die : Fin 8)  -- CORE_SELF_TEST_START (R414)
  | coreSelfTestDone (die : Fin 8) (pass : Bool)  -- CORE_SELF_TEST_DONE (R414)
  | dieCtrlRestart (die : Fin 8)  -- DIE_CTRL_RESTART (R405)
  | dieLost (die : Fin 8)  -- DIE_LOST (R384)
  | islandLost (die : Fin 8)  -- ISLAND_LOST (R384)
  | farStackLost (stack : Fin 16)  -- FAR_STACK_LOST (R307)
  | rebuildRowMove (group : Fin 2)  -- REBUILD_ROW_MOVE (R310)
  | nearStackLost (stack : Fin 4)  -- NEAR_STACK_LOST (R161)
  | nearReplacementDone  -- NEAR_REPLACEMENT_DONE (R161)
  | selfRefreshEntry (stack : Nat)  -- SELF_REFRESH_ENTRY (R468)
  | hubFault (hub : Hub)  -- HUB_FAULT (R384)
  | heartbeatTimeout (hub : Hub)  -- HEARTBEAT_TIMEOUT (R420)
  | sliceAbandon  -- SLICE_ABANDON (R410)
  | recordFault  -- RECORD_FAULT (R433)
  | recordRecovered  -- RECORD_RECOVERED (R433)
  | pmbAlert (phases : Nat) (reading : W32)  -- PMB_ALERT (R499)
  | portDown (port : Port)  -- PORT_DOWN (R346)
  | portUp (link : PortLink)  -- PORT_UP (R346)
  | perst (port : Port)  -- PERST (R488)
  | flitReceive (worgon : Fin 12) (flit : Flit)  -- FLIT_RECEIVE (R357)
  | linkLaneFail (worgon : Fin 12) (lane : Nat)  -- LINK_LANE_FAIL (R358)
  | laneRetrainDone (worgon : Fin 12) (pass : Bool)  -- LANE_RETRAIN_DONE (R358)
  | gcountSync (t1 : W64) (t2 : W64) (t3 : W64) (t4 : W64)  -- GCOUNT_SYNC (R368)
  | workerLossTimeout (device : Nat)  -- WORKER_LOSS_TIMEOUT (R365)
  | workerRefusal (enumerating : Bool)  -- WORKER_REFUSAL (R494)
  | comparisonRecord (job : Nat) (serial : Nat) (block : Nat) (bcheck : W32)  -- COMPARISON_RECORD (R372)
  | peerLinkTimeout (job : Nat)  -- PEER_LINK_TIMEOUT (R374)
  | porAssert (hub : Hub)  -- POR_ASSERT (R488)
  | porRelease (hub : Hub) (strap : Straps) (railsOk : Bool) (sris : Bool)  -- POR_RELEASE (R485)
  | railSettle (hub : Hub)  -- RAIL_SETTLE (R486)
  | hrst (hub : Hub)  -- HRST (R488)
  | pwrfail  -- PWRFAIL (R487)
  | leadAbsentTimeout  -- LEAD_ABSENT_TIMEOUT (R489)
  | imageOffer (hub : Hub) (source : OfferSource) (image : List Byte)  -- IMAGE_OFFER (R440)
  | imageVerified (hub : Hub)  -- IMAGE_VERIFIED (R439)
  | hubJoin  -- HUB_JOIN (R442)
  | joinTimeout  -- JOIN_TIMEOUT (R442)
  | computePowerUpStep (railsOk : Bool) (failed : List Nat)  -- COMPUTE_POWER_UP_STEP (R490)
  | sensorSample (sensor : Nat) (reading : W16)  -- SENSOR_SAMPLE (R474)
  | thermalStep (die : Fin 8)  -- THERMAL_STEP (R474)
  | powerStep (watts : Nat) (amps : Nat)  -- POWER_STEP (R472)
  | sleepTimeout (physical : Nat)  -- SLEEP_TIMEOUT (R464)
  | pllLock (physical : Nat)  -- PLL_LOCK (R465)
  | runEntry (die : Fin 8)  -- RUN_ENTRY (R466)
  | runExit (die : Fin 8)  -- RUN_EXIT (R467)
  | networkClockGate (die : Fin 8)  -- NETWORK_CLOCK_GATE (R463)
  | interruptingSliceStart  -- INTERRUPTING_SLICE_START (R386)
  | worgonPortTrained (worgon : Fin 12)  -- WORGON_PORT_TRAINED (R355)
  | debugPortHalt (hub : Hub) (step : Bool)  -- DEBUG_PORT_HALT (R443)
deriving DecidableEq, Repr

end Sys2Proof
end

