-- ==== Sys2Proof/Decode.lean ====
section
/-! DEFINITION. The commands as the table's words spell them. No row of spec/opcode_table.json gives bits (every row's
fields are empty): no word spells a command. -/

namespace Sys2Proof

/-- The command a word spells by the table's bits: none, since no row gives bits. -/
def decodeTableWord (_nbits _w : Nat) : Option Instr := none

end Sys2Proof
end

