-- ==== Sys2Proof/Config.lean ====
section
/-! DEFINITION. What the manual leaves open: free constants with no body, so that no proof can see a value of them.
Each is named in the assumption log. -/

namespace Sys2Proof.Config

/-- A free 32-bit word, applied to the counter of the state: what an undefined case of R219 writes (R220), log 2. -/
opaque freeWord : Nat → BitVec 32

/-- The digest of the boot ROM itself, MEAS0 at boot step 1 (R440), log 4. -/
opaque romDigest : BitVec 256

/-- Silicon stepping of the hub die (R506 HUB.ID), log 4. -/
opaque stepping : BitVec 8

/-- DEVICE_ID, unique per part (R448), log 9. -/
opaque deviceId : BitVec 64

/-- The SPDM certificate chain of slot 0 and the certificate of the attestation key, without the 4-byte lengths stored
before them (R448), log 9. -/
opaque spdmChain : List (BitVec 8)
opaque attestCert : List (BitVec 8)

/-- Whether an XMSS signature over a message verifies under the firmware key of the boot ROM (R437, R439), log 11. -/
opaque firmwareSignatureOk : List (BitVec 8) → List (BitVec 8) → Bool

/-- The XMSS^MT signature of an attestation message under an index (R437, R452): 9,893 bytes, log 11. -/
opaque attestSignature : List (BitVec 8) → Nat → List (BitVec 8)

/-- The SPDM responder's answer to a message: by the number of messages before it, whether signing is refused (R444), the
measurements of the responding hub and the message (R314, R450, R460), log 24. -/
opaque spdmRespond : Nat → Bool → List (BitVec 256) → List (BitVec 8) → List (BitVec 8)

/-- Whether a message completes the programming of a port's IDE keys in a secure session (R314), log 24. -/
opaque spdmSetsIde : Nat → List (BitVec 8) → Bool

/-- The room of the program store in bytes (R202, R294), log 12. -/
opaque programStoreBytes : Nat

/-- What the StC phase of a BT-16 bootstrap writes at level 1: for the constants the private body carries, the residues of the
input limbs read, the key words and the position (component, limb, index) (R257, R273), log 13. -/
opaque stcWord : List Nat → List (List Nat) → List Nat → Nat → Nat → Nat → Nat

/-- What the CtS and EvalMod phases write at level 13 from the limbs ModRaise gives, as `stcWord` (R257, R273), log 13. -/
opaque bootstrapWord : List Nat → List (List Nat) → List Nat → Nat → Nat → Nat → Nat

/-- Step 1 of a REPACK: the diagonal product of its key with the a words of an item, at level 23, as `stcWord` (R270),
log 13. -/
opaque repackProduct : List Nat → List (List Nat) → List Nat → Nat → Nat → Nat → Nat

/-- Step 2 of a REPACK: the plaintext that carries an item's b words, by limb and index, at level 23 (R270), log 13. -/
opaque repackPlain : List Nat → List (List Nat) → Nat → Nat → Nat

/-- Step 3 of a REPACK: the reduction from level 23 to level 14, as `stcWord` (R270, R273), log 13. -/
opaque repackWord : List Nat → List (List Nat) → List Nat → Nat → Nat → Nat → Nat

/-- Where hub firmware places a resident piece on its near stack, as a block number: by caddy and piece number (R158,
R294), log 31. -/
opaque nearPlace : Nat → Nat → Nat

/-- What stands for ψ under a prime whose 2N does not divide q - 1, by N and q (R89), log 32. -/
opaque rootless : Nat → Nat → Nat

/-- Free value: byte i of the forward error correction that goes with the 216 bytes of a flit before it (R354: no code is given). -/
opaque correctionByte : List (BitVec 8) → Nat → BitVec 8

/-- The credits, in flits, a receiver grants per class at training; ANS is granted at least 64 (R356), log 14. -/
opaque initialCredits : Nat → Nat

/-- Spare lanes of a die bridge (R384): the manual gives no number (log 33). -/
opaque bridgeSpareLanes : Nat

/-- Which of the values congruent to it, and below 2^k, the bignum engine returns for an operand above its modulus (R458, log
120): free, by operation (0 MONT, 1 MADD, 2 MSUB) and operands. -/
opaque bignumMultiple : Nat → Nat → Nat → Nat → Nat

/-- What the bignum engine returns for an even or zero modulus (R458, log 120): free, by operation and operands. -/
opaque bignumEven : Nat → Nat → Nat → Nat → Nat

/-- The operations that the answer to a protocol message has hub firmware issue to its bignum engine (R457, R459, log 119): by the
number of messages before it and the message; operation, size, operands and (m - 1) / 2, firmware issuing only odd moduli. -/
opaque protocolOperations : Nat → List (BitVec 8) → List (Nat × Nat × Nat × Nat × Nat)

end Sys2Proof.Config
end

