-- ==== Sys2Proof/Machine/State.lean ====
section
/-! DEFINITION. The state of the block as plain data: every register, table, memory and queue the manual gives the
device, and the queue of waiting commands. INVENTORY.md lists each with its rule and its reset value. -/

namespace Sys2Proof.Machine

open Sys2Proof

/-- Memory as (address, byte) cells, addresses strictly rising, no cell holding 0 (an unlisted byte reads 0). -/
abbrev Memory := List Host.Cell

/-- An event as the hub composes it (R343): code, job, queue, two arguments. -/
structure Ev where
  code : Nat
  job : Nat := 0xFFFF
  queue : Nat := 0xFFFF
  arg0 : Nat := 0
  arg1 : Nat := 0
deriving DecidableEq, Repr, Inhabited

/-- An event waiting for a port, with the sequence number and count it carries (R343, R344). -/
structure HeldEv where
  ev : Ev
  eseq : Nat
  gcount : W64
deriving DecidableEq, Repr, Inhabited

/-- A mailbox's condition (R320): BUSY is split into rung (copied, not yet taken by the lead) and busy. -/
inductive MbxSt where
  | free | rung | busy | done
deriving DecidableEq, Repr, Inhabited

/-- A response page (R320, R321). -/
structure Resp where
  cmd : Nat
  token : W32
  status : Nat
  detail : Nat
  body : List Byte
deriving DecidableEq, Repr, Inhabited

structure Mailbox where
  st : MbxSt := .free
  req : Option (Nat × MbxReq) := none
  resp : Option Resp := none
deriving DecidableEq, Repr, Inhabited

/-- One entry of a port's MSI-X table (R515). -/
structure MsixEntry where
  addr : W64 := 0
  data : W32 := 0
  masked : Bool := true
deriving DecidableEq, Repr, Inhabited

/-- What belongs to one host port (R313, R320, R343, R506, R515), and the memory of the host behind it. -/
structure PortState where
  linkUp : Bool := false
  linkGen : Nat := 0
  linkLanes : Nat := 0
  wasUp : Bool := false
  ide : Bool := false
  mailboxes : Tab Mailbox := []
  reqPages : Memory := []
  farWindow : BitVec 8 := 0
  windowMiss : W32 := 0
  errSummary : BitVec 20 := 0
  gcShadow : Option W32 := none
  evtBase : W64 := 0
  evtLog2 : Nat := 0
  evtSet : Bool := false
  evtHead : Nat := 0
  evtTail : Nat := 0
  evtPhase : Bool := true
  evtIntr : Bool := false
  evtDiscarded : W32 := 0
  evtLostDue : Nat := 0
  evtSeq : Nat := 0
  held : List HeldEv := []
  msix : Tab MsixEntry := []
  msixPending : BitVec 16 := 0
  msixOut : List (W64 × W32) := []
  lastRead : List Byte := []
  doeOut : List Byte := []
  hostMem : Memory := []
  hostReadable : Bool := true
deriving DecidableEq, Repr, Inhabited

/-- Where a hub stands in reset and the boot chain (R440, R442, R485, R486, R488, R495). -/
inductive BootPhase where
  | porHeld | railHold | hrstHeld | obtain | verify | configWait | locked | joined | out
deriving DecidableEq, Repr, Inhabited

/-- Hub service states (R421). -/
inductive HubSvc where
  | inService | rejoining | out | mismatch
deriving DecidableEq, Repr, Inhabited

/-- A running firmware image: as the registers show it, and its bytes, which a parent serves its workers (R350, R438, R506). -/
structure ImageInfo where
  iface : Nat
  stateFmt : Nat
  svn : Nat
  digest : Digest
  code : List Byte := []
deriving DecidableEq, Repr, Inhabited

/-- A rejoin in progress (R422): its image, whether it is a step of FW_LOAD and which (1 or 4), the mailbox to answer. -/
structure Rejoin where
  image : List Byte
  fwStep : Nat
  port : Port
  box : Nat
  failed : Option (Nat × Nat) := none
  mismatch : Bool := false
deriving DecidableEq, Repr, Inhabited

/-- An operation issued to a bignum engine (R457). -/
structure BigTask where
  op : BigOp
  size : BigSize
  a : Nat
  b : Nat
  m : Nat
deriving DecidableEq, Repr, Inhabited

/-- A hub's bignum engine (R457 to R459): the accumulator of MAC, the operations that wait, in order of issue, the one that runs and
a 4,096-bit one that has yielded, each with the cycles it still needs, the results in order. -/
structure BigEngine where
  acc : Nat := 0
  waiting : List BigTask := []
  running : Option (BigTask × Nat) := none
  yielded : Option (BigTask × Nat) := none
  results : List Nat := []
deriving DecidableEq, Repr, Inhabited

/-- What belongs to one hub (R440, R443, R498, R506). `recordOk` is RECORD_OK of its AON domain. -/
structure HubState where
  phase : BootPhase := .obtain
  svc : HubSvc := .rejoining
  gcount : W64 := 0
  image : Option ImageInfo := none
  offered : Option (List Byte × OfferSource) := none
  offerBox : Option Nat := none
  protCtrl : W32 := 0
  protLock : W32 := 0
  protRegionBase : W64 := 0
  meas0 : Digest := 0
  meas1 : Digest := 0
  meas2 : Digest := 0
  meas3 : Digest := 0
  meas4 : Digest := 0
  cfgDigest : Digest := 0
  measGen : W32 := 0
  pwrfail : Bool := false
  recordOk : Bool := false
  thermLevel : Nat := 0
  sris : Bool := false
  hrstCount : W16 := 0
  lockedAt : Option Nat := none
  railsOk : Bool := true
  cfgBuf : List Byte := []
  cfgPtr : Nat := 0
  cfgDone : Bool := false
  thermAlert : Bool := false
  cfgStatus : Nat := 0
  cfgDetail : Nat := 0
  isolated : Bool := false
  halted : Bool := false
  steps : Nat := 0
  rejoin : Option Rejoin := none
  powerUp : Bool := true
  big : BigEngine := {}
deriving DecidableEq, Repr, Inhabited

/-- The kinds of held step the lead schedules as interrupting slices (R411). -/
inductive SliceKind where
  | swap
  | protChange (port : Port) (box : Nat) (ctrl lock : W32) (base : W64) (svn : Option Nat)
  | farSwitch (stack : Nat)
  | island (die : Nat)
  | die (die : Nat)
  | rootSwitch (hub : Hub)
  | nearSwitch (stack : Nat)
  | takeBack (hub : Hub)
  | takeover (hub : Hub)
deriving DecidableEq, Repr, Inhabited

/-- An interrupting slice to run: its kind, whether a command started its action, the mailbox to answer, abandonments so far (R409,
R410). -/
structure Slice where
  kind : SliceKind
  byCommand : Bool := false
  port : Port := .a
  box : Option Nat := none
  abandons : Nat := 0
deriving DecidableEq, Repr, Inhabited

/-- Power-up of the compute dies (R490). -/
inductive PowerUp where
  | idle | railCheck | islands | training | regions | selfTest | mapping | up | railFail
deriving DecidableEq, Repr, Inhabited

/-- A firmware update in progress (R426): where its image lies in the host memory behind the port, mailbox, step, whether the other port was up before, how often its activation has
been abandoned (R410). -/
structure FwUpdate where
  host : Nat
  len : Nat
  port : Port
  box : Nat
  step : Nat
  first : Hub
  portWasUp : Bool
  abandons : Nat := 0
deriving DecidableEq, Repr, Inhabited

/-- Device-scope registers and firmware state of the lead (R503). `pathRetries` are the beats being re-sent on a path: how
often, and when first (R386); `beatLane` the lanes spared, one entry each. `late` counts the held steps still to begin that will be
abandoned (R410, log 22); `counted`: GCOUNT has started at 0 (R368). -/
structure DevState where
  role : Fin 4 := 0
  sbAddr : Fin 4 := 0
  lead : Option Hub := none
  dstate : Nat := 1
  loadSerial : Nat := 1
  corrStack : W64 := 0
  corrSram : W64 := 0
  corrPath : W64 := 0
  resent : W64 := 0
  dataLoss : W64 := 0
  cpu : PowerUp := .idle
  slices : List Slice := []
  lastSliceEnd : Option W64 := none
  latched : List (Port × Nat × W64) := []
  noLeadSince : Option W64 := some 0
  thermTrip : Bool := false
  fw : Option FwUpdate := none
  rebuildShare : Nat := 1
  ready : Bool := false
  spdmCount : Nat := 0
  pathRetries : List (BeatPath × Nat × W64) := []
  mbxOrder : List (Port × Nat) := []
  beatLane : List BeatPath := []
  retiring : List (Nat × Port × Nat) := []
  late : Nat := 0
  counted : Bool := false
deriving DecidableEq, Repr, Inhabited

/-- States of a block tag (R297). -/
inductive BState where
  | never | checked | opened | stale
deriving DecidableEq, Repr, Inhabited

structure BlockTag where
  st : BState := .never
  check : W32 := 0
deriving DecidableEq, Repr, Inhabited

/-- Far group states (R307). -/
inductive GroupSt where
  | normal | degraded | rebuilt | exposed
deriving DecidableEq, Repr, Inhabited

/-- A far group (R307 to R311, R517): its lost stacks in order of loss, the rebuild watermark in blocks of the group,
and whether the rebuild was stopped by a second loss. -/
structure FarGroup where
  st : GroupSt := .normal
  lost : List Nat := []
  watermark : Nat := 0
  stopped : Bool := false
  rebuildShare : Nat := 1
deriving DecidableEq, Repr, Inhabited

/-- A watch (R300, R301) with the queue it answers to; `due` is set when its word has reached the threshold. -/
structure Watch where
  stack : Nat
  number : Nat
  addr : Nat
  threshold : W64
  queue : Nat
  due : Bool := false
deriving DecidableEq, Repr, Inhabited

/-- A dedup window (R284, R287) at one controller. -/
structure Window where
  stack : Nat
  rjob : Nat
  srcDev : Nat
  srcDie : Nat
  floor : W32 := 0
  map : BitVec 4096 := 0
  isSealed : Bool := false
deriving DecidableEq, Repr, Inhabited

/-- A parity delta on its way (R302): of which data block, where in the parity memory, and the bytes to add. -/
structure Delta where
  block : Nat
  addr : Nat
  data : List Byte
deriving DecidableEq, Repr, Inhabited

/-- A stack as its controller sees it: self-refresh, time of the last request, its share of the rate in percent by
thermal level (R312, R468, R474), uncorrectable words seen and retrains failed (R307). -/
structure StackState where
  selfRefresh : Bool := false
  lastRequest : W64 := 0
  share : Nat := 100
  retrains : Nat := 0
  uncorr : List W64 := []
deriving DecidableEq, Repr, Inhabited

/-- The far tier (R292 to R312): `tags` by data block, `parityTags` by parity block, `unreadable` the data blocks that hold a word
their controller has found uncorrectable and that their row could not give back (R306). `delivered` is the last block a controller
delivered and whether its check passed, `prior` the last value a FADD64 returned. -/
structure FarTier where
  mem : Memory := []
  tags : Tab BlockTag := []
  parity : Memory := []
  parityTags : Tab BlockTag := []
  unreadable : List Nat := []
  deltas : List Delta := []
  g0 : FarGroup := {}
  g1 : FarGroup := {}
  watches : List Watch := []
  windows : List Window := []
  ctrls : Tab StackState := []
  owners : Tab Nat := []
  delivered : Option (List Byte × Bool) := none
  prior : W64 := 0
deriving DecidableEq, Repr, Inhabited

/-- A resident piece (R158): caddy, piece number, near stack, bytes, and the tags of its blocks (R171, R292). -/
structure NearPiece where
  caddy : Nat
  number : Nat
  stack : Nat
  data : List Byte
  tags : List BlockTag := []
deriving DecidableEq, Repr, Inhabited

/-- The near tier (R158, R161): stacks lost for good, where the pieces lie, refresh. -/
structure NearTier where
  lost : List Nat := []
  trained : Bool := false
  pieces : List NearPiece := []
  rootOut : List Hub := []
  rootBack : List Hub := []
  toPlace : Bool := false
deriving DecidableEq, Repr, Inhabited

/-- A piece still to be sent (R231, R248): class 1 waited for, 2 dispatched, 3 prefetch; queue priority, dispatch
order and first need order it. -/
structure SendItem where
  piece : PieceId
  cls : Nat
  prio : Nat
  order : Nat
  need : Nat
  queue : Nat
  serial : Nat
deriving DecidableEq, Repr, Inhabited

/-- The key roots and the broadcast network (R164 to R172): pieces to send, pieces sent and not yet arrived. -/
structure KeyNet where
  sendList : List SendItem := []
  flight : List (Nat × PieceId) := []
  order : Nat := 0
deriving DecidableEq, Repr, Inhabited

/-- A die key cache entry (R167, R168); `ok`: every block check of its b half passed (R171). `readers` are the tiles that will still read it, by queue, serial and claim index:
their number is the consumer count. `pins` are the commands that hold a pin, by queue and serial. -/
structure CacheEntry where
  piece : PieceId
  tag : W64
  ready : Bool := false
  readers : List (Nat × Nat × Nat) := []
  pins : List (Nat × Nat) := []
  arrival : Nat := 0
  bytes : Nat := 0
  bHalf : List Nat := []
  aHalf : List Nat := []
  ok : Bool := true
deriving DecidableEq, Repr, Inhabited

/-- Physical core service states (R413). -/
inductive PhysSt where
  | serving | spare | retired | testing | failed
deriving DecidableEq, Repr, Inhabited

/-- Core power states (R464). -/
inductive CorePower where
  | run | park | sleep | off
deriving DecidableEq, Repr, Inhabited

/-- How far a wake has come (R465, R466). -/
inductive Waking where
  | no | pll | ready
deriving DecidableEq, Repr, Inhabited

/-- One physical core (R88, R413, R464); `taking`: a spare that has taken a logical core and has not entered Run since (R466). -/
structure PhysCore where
  st : PhysSt := .spare
  retirements : Nat := 0
  retireOrder : Nat := 0
  power : CorePower := .off
  waking : Waking := .no
  leaving : Option CorePower := none
  since : W64 := 0
  logical : Option Nat := none
  nttUsed : Nat := 0
  mxaUsed : Nat := 0
  vxeUsed : Nat := 0
  fencing : Bool := false
  taking : Bool := false
deriving DecidableEq, Repr, Inhabited

/-- A tile of a command under the plan of R224 to R230. `begun`: it has begun to write its destination (R395); `sent`: its
packets are sent (R282). -/
structure Tile where
  claim : Claim
  key : Nat
  limb : Nat
  cell : Nat
  item : Nat
  items : Nat
  blk : Nat
  blks : Nat
  status : Nat := 0   -- 0 unclaimed, 1 held, 2 placed, 3 done
  core : Nat := 0
  reissue : Bool := false
  begun : Bool := false
  sent : Bool := false
deriving DecidableEq, Repr, Inhabited

/-- A packet numbered or waiting for its number, and not yet acknowledged (R282, R285, R393); `home`: it goes to a controller of
this device. -/
structure OutPacket where
  stack : Nat
  packet : AccPacket
  queue : Nat
  serial : Nat
  home : Bool := false
  sends : Nat := 1
  lastSent : W64 := 0
deriving DecidableEq, Repr, Inhabited

/-- One range of the sequence log (R282): the numbers of one stream that a claimed tile holds, for its payload, or for the MERGE.HDR of
the header at an address. -/
structure SeqRange where
  queue : Nat
  serial : Nat
  claimIndex : Nat
  merge : Option Nat
  stack : Nat
  seqs : List Nat
deriving DecidableEq, Repr, Inhabited

/-- A stream's next sequence number (R282). -/
structure Stream where
  rjob : Nat
  stack : Nat
  next : Nat
deriving DecidableEq, Repr, Inhabited

/-- A compute die (R13, R384, R414, R463, R474). `testWait` holds the CORE_TESTs not yet answered, `upLeft` the cores a
DIE_UP has still to test. -/
structure DieState where
  powered : Bool := false
  lost : Bool := false
  islandLost : Bool := false
  netGated : Bool := true
  netIdleSince : W64 := 0
  kTherm : Nat := 16
  level : Nat := 0
  hot : Bool := false
  cool : Bool := false
  thermSince : W64 := 0
  testing : Option Nat := none
  testWait : List (Nat × Port × Nat) := []
  upLeft : List Nat := []
  upBox : Option (Port × Nat) := none
  cache : List CacheEntry := []
  keep : List PieceId := []
  streams : List Stream := []
  seqLog : List SeqRange := []
  sent : List OutPacket := []
  wakes : List W64 := []
  sleeps : List W64 := []
deriving DecidableEq, Repr, Inhabited

/-- A handle entry of a core (R68). -/
structure Handle where
  valid : Bool := false
  place : Nat := 0
  owner : Nat := 0
  mirror : Bool := false
  accum : Bool := false
  accOp : Nat := 0
  peer : Nat := 0
  buddyBase : Nat := 0
  base : Nat := 0
  length : Nat := 0
deriving DecidableEq, Repr, Inhabited

/-- One loop level: where the body starts and how many passes are left (R61). -/
structure LoopLevel where
  start : Nat
  left : Nat
deriving DecidableEq, Repr, Inhabited

/-- A task in a slot (R61): its command, tile record and coordinates, stream and context. `keysPending` are the pieces of its
key reads not yet in the die key cache; `owned` the handles of its binding list that it owns, `shift` how far their entries lie
from the numbers there. -/
structure Task where
  job : Nat
  queue : Nat
  claim : Claim
  code : List CoreInstr
  bound : List W32
  key : Nat := 0
  limb : Nat := 0
  blk : Nat := 0
  owned : List Nat := []
  shift : Nat := 0
  ip : Nat := 0
  sregs : Tab W64 := []
  loops : List LoopLevel := []
  waitSince : W64 := 0
  keysPending : List PieceId := []
  pqLimit : Tab Nat := []
deriving DecidableEq, Repr, Inhabited

/-- An issued instruction that has not completed (R58, R59): target 0 NTT, 1 MXA, 2 VXE, 3 DMA, 4 fold; the scalar registers
and the operation's level (as 2ℓ) read at its issue (R179, R211); `racy`: an instruction it was not ordered with has touched what
it touches (R219 case 1). -/
structure InFlight where
  id : Nat
  slot : Nat
  target : Nat
  started : Bool
  reads : List Nat
  writes : List Nat
  instr : CoreInstr
  scalars : Tab W64
  lvl2 : Nat
  claim : Claim
  racy : Bool := false
deriving DecidableEq, Repr, Inhabited

/-- A fold waiting at a buffer's controller (R79 to R81): the sender's claim, its data, and the core and handle whose
source buffer stays held. -/
structure WaitingFold where
  claim : Claim
  data : List Byte
  dataOk : Bool
  prime : Nat
  fromCore : Nat
  fromHandle : Nat
deriving DecidableEq, Repr, Inhabited

/-- An accumulator buffer of a core (R78 to R82): where it lies is in `bind`, `lowest` is the lowest claim index of the phase
that folds into it, `prime` the prime of its folds. -/
structure Accum where
  handle : Nat
  queue : Nat
  serial : Nat
  lowest : Nat
  log : BitVec 4096 := 0
  waiting : List WaitingFold := []
  failing : Bool := false
  bind : HandleBind
  prime : Nat := 0
deriving DecidableEq, Repr, Inhabited

/-- A mirrored buffer of a core (R83): its range, and the copy's place on the buddy; of the command that made it. -/
structure MirrorBuf where
  base : Nat
  length : Nat
  buddy : Nat
  buddyBase : Nat
  queue : Nat
  serial : Nat
  lost : Bool := false
deriving DecidableEq, Repr, Inhabited

/-- A logical core (R61 to R85, R237, R241). `held` are its claimed tiles not yet placed, at most one per command, each with
its queue. `sideBad` are the blocks whose check is invalid, each with the ranges written since (R74). `robin` is the DMA queue
whose turn is next (R242). -/
structure CoreCtx where
  slots : Tab Task := []
  running : Nat := 0
  events : Tab W32 := []
  handles : Tab Handle := []
  scratch : Memory := []
  side : Tab W32 := []
  sideBad : Tab (List (Nat × Nat)) := []
  flight : List InFlight := []
  nextId : Nat := 0
  accums : List Accum := []
  mirrors : List MirrorBuf := []
  robin : Nat := 0
  held : List (Nat × Claim) := []
deriving DecidableEq, Repr, Inhabited

/-- A chain (R26 to R29). -/
structure Chain where
  id : Nat
  pairs : List (Nat × Nat × Nat)
  special : List Nat
  log2nMax : Nat
  serial : Nat
deriving DecidableEq, Repr, Inhabited

/-- A key of a caddy's directory with its seed (R153). -/
structure KeyEntry where
  kkind : Nat
  log2n : Nat
  digits : Nat
  limbs : Nat
  galois : Nat
  offset : Nat
  seed : List Byte
deriving DecidableEq, Repr, Inhabited

/-- Caddy states (R157); ABSENT is having no entry. -/
inductive CaddySt where
  | loading | library | resident
deriving DecidableEq, Repr, Inhabited

/-- A caddy (R153 to R160). -/
structure Caddy where
  index : Nat
  st : CaddySt
  tag : W64
  chainId : Nat
  dnum : Nat
  log2n : Nat
  serial : Nat
  marked : Bool
  keys : List KeyEntry
  imageLen : Nat
  digest : Digest
  extents : List Nat
  streamed : Nat
  copying : Bool
  loadPort : Port
  loadBox : Nat
deriving DecidableEq, Repr, Inhabited

/-- A loaded program (R202 to R207). -/
structure Program where
  index : Nat
  chainId : Nat
  serial : Nat
  marked : Bool
  numBind : Nat
  minCores : Nat
  length : Nat
  digest : Digest
  entries : List Entry
  descs : List Desc
  press : List Pres
  rpairs : List RangePair
  body : Body
  image : List Byte
deriving DecidableEq, Repr, Inhabited

/-- A link of jobs under a manager (R363): the SINK, the members. -/
structure JobLink where
  sink : Nat
  members : List (Nat × Nat)
deriving DecidableEq, Repr, Inhabited

/-- A comparison record (R372). -/
structure CmpRec where
  serial : Nat
  block : Nat
  check : W32
deriving DecidableEq, Repr, Inhabited

/-- Lock-step pairing of a job (R371 to R374): peer job, PEER port, the serial comparison begins with (none until both devices have
answered their FAB_PAIR), own and received records not yet matched. `last` is the serial the last record received names, `ended` are
those after whose records one of another serial has come. -/
structure Pairing where
  peerJob : Nat
  port : Nat
  fromSerial : Option Nat := none
  own : List CmpRec := []
  theirs : List CmpRec := []
  last : Option Nat := none
  ended : List Nat := []
deriving DecidableEq, Repr, Inhabited

/-- A job (R327 to R329); `destroying`: the mailbox whose JOB_DESTROY waits for its queues to reach CANCELLED; `peerPaired`: the peer device
has paired it (R371). -/
structure Job where
  id : Nat
  group : Nat
  octets : List Nat
  rjob : Option Nat
  progs : List Nat
  binds : List Nat
  peers : List Nat
  nextSerial : W32 := 0
  counters : List W32 := [0, 0, 0, 0, 0, 0]
  bounds : W32 := 0
  dataLoss : W32 := 0
  diverged : Bool := false
  fpLapsed : Bool := false
  link : Option JobLink := none
  pair : Option Pairing := none
  destroying : Option (Port × Nat) := none
  peerPaired : Bool := false
deriving DecidableEq, Repr, Inhabited

/-- Where a queue is rung from (R330, R362). -/
inductive Home where
  | port (p : Port)
  | fabric
deriving DecidableEq, Repr, Inhabited

/-- Queue states (R338). -/
inductive QState where
  | idle | running | stalled | cancelled
deriving DecidableEq, Repr, Inhabited

/-- A queue entry as fetched (R332): its fields, and the offset of the field that makes it bad (R335), if any. -/
structure QEntry where
  cmd : Nat
  fence : Bool
  early : Bool
  notify : Bool
  bound : Bool
  entry : Nat
  progSlot : Nat
  userTag : W32
  boundAddr : Nat
  counterAddr : Nat
  flagAddr : Nat
  flagValue : W64
  bad : Option Nat
deriving DecidableEq, Repr, Inhabited

/-- How far a command has come: fetched, dispatched and running, a flag wait in force, an accepted flag set waiting
to become visible, aborting, completed. -/
inductive CmdPhase where
  | fetched | running | waiting | completed
deriving DecidableEq, Repr, Inhabited

/-- The header of a result whose payload is written, until its command completes (R42, R251): its item, fields, the states
of its operands, the causes it has originated; `free` is the free state and cause of a header left undefined (R220). -/
structure HeldHdr where
  b0 : Nat
  b1 : Nat
  item : Nat
  hdr : List Byte
  states : List Nat
  causes : List Nat
  free : Option (Nat × Nat) := none
deriving DecidableEq, Repr, Inhabited

/-- A command of a queue between its fetch and its record (R333 to R336). `units` are the public units already counted, by
descriptor, item and rule (R518); `dests` the addresses of the headers of the results it has begun to write, with those headers, `blocks` the far blocks it has written,
each with the ranges written; `cores` the cores that have had a task of it (R66). `reads` and `writes` are the ranges its operation
accesses, a written one with the kind of exact accumulate it is, 0 for none; `raced`: an access it is not ordered with has met
one (R219, R280). -/
structure Cmd where
  sqIndex : Nat
  entry : QEntry
  serial : W32 := 0
  phase : CmdPhase := .fetched
  status : Nat := 0
  detail : Nat := 0
  prio : Nat := 0
  dispatchOrder : Nat := 0
  boundWords : List W32 := []
  bitmap : List Bool := []
  keyList : List KeyName := []
  early : Bool := false
  zeroed : Bool := false
  tiles : List Tile := []
  dests : List (Nat × List Byte) := []
  hdrs : List HeldHdr := []
  begun : Bool := false
  inPlace : Bool := false
  rejected : Bool := false
  compared : Bool := true
  blocks : Tab (List (Nat × Nat)) := []
  units : List (Nat × Nat × Nat) := []
  boundsEvents : Nat := 0
  waitSince : W64 := 0
  waitLimit : Nat := 0
  polling : Bool := false
  committed : Bool := false
  pieces : List PieceId := []
  cores : List Nat := []
  reads : List (Nat × Nat) := []
  writes : List (Nat × Nat × Nat) := []
  raced : Bool := false
deriving DecidableEq, Repr, Inhabited

/-- A queue (R330 to R342). `copies` are the records posted at positions CQ_HEAD has not passed, which the standby holds (R396, R397). -/
structure Queue where
  num : Nat
  job : Nat
  log2depth : Nat
  farRings : Bool
  priority : Nat
  outLimit : Nat
  vector : Nat
  intr : Bool
  sqBase : Nat
  cqBase : Nat
  flagTimeout : Nat
  home : Home
  st : QState := .idle
  sqTail : Nat := 0
  sqFetch : Nat := 0
  rehomed : Bool := false
  cqHead : Nat := 0
  cqIndex : Nat := 0
  phase : Bool := true
  cmds : List Cmd := []
  cancelling : Bool := false
  copies : List (Nat × List Byte) := []
deriving DecidableEq, Repr, Inhabited

/-- The tables of the lead, which the standby holds in copy (R323, R396). `decoded` are the private bodies met so far, each with
what decoding it gives: the model's own field (R203, log 97). -/
structure Tables where
  chains : List Chain := []
  caddies : List Caddy := []
  programs : List Program := []
  jobs : List Job := []
  generations : Tab Nat := []
  queues : List Queue := []
  dispatchOrder : Nat := 0
  streamClock : Nat := 0
  retireClock : Nat := 0
  robin : Nat := 0
  decoded : List (List Byte × Body) := []
deriving DecidableEq, Repr, Inhabited

/-- One log entry of the black box (R430), its body as the bytes 0x20 to 0x7B. -/
structure LogEntry where
  kind : Nat
  boots : Nat
  seq : Nat
  gcount : W64
  aonTime : Nat
  body : List Byte
  ecrc : W32
deriving DecidableEq, Repr, Inhabited

/-- Lifetime counters (R430). -/
structure Lifetime where
  boots : Nat := 0
  hubResets : Nat := 0
  takeovers : Nat := 0
  fwUpdates : Nat := 0
  coresRetired : Nat := 0
  coresReturned : Nat := 0
  lanesSpared : Nat := 0
  linkLanes : Nat := 0
  stacksLost : Nat := 0
  blocksLost : Nat := 0
  throttled : Nat := 0
  corrected : Nat := 0
  sigIndex : Nat := 0
deriving DecidableEq, Repr, Inhabited

/-- The record die (R429 to R434, R448, R452, R492). -/
structure RecordDie where
  writable : Bool := true
  copy0 : List Byte := []
  copy1 : List Byte := []
  protRecord : List Byte := []
  minSvn : Nat := 0
  integratorKey : List Byte := []
  nextIndex : Nat := 0
  marker : Option (Nat × Nat) := none
  log : List LogEntry := []
  nextSeq : Nat := 0
  life : Lifetime := {}
  held : List LogEntry := []
  dropped : Nat := 0
  droppedNow : Nat := 0
  firstDropped : Nat := 0
  stopped : Bool := false
  lastSensorLog : Tab W64 := []
  lastRailLog : Tab W64 := []
  aonTicks : Nat := 0
deriving DecidableEq, Repr, Inhabited

/-- A worker of the tree as the manager knows it (R352, R365): `second` is the parent's port that stands by (R358). -/
structure Worker where
  dev : Nat
  parent : Nat
  parentPort : Nat
  upPort : Nat
  depth : Nat
  twoUp : Bool
  second : Option Nat := none
  lost : Bool := false
deriving DecidableEq, Repr, Inhabited

/-- A launched doorbell waiting for its count (R370). -/
structure Launch where
  when_ : W64
  queue : Nat
  value : W64
  port : Port
deriving DecidableEq, Repr, Inhabited

/-- One Worgon port (R351 to R358): `spare` is the lane that stands by, `bad` the lanes given up, `delivered` the flits
taken in order, `replay` the flits sent and not acknowledged, `waiting` the packets held back, by class, `owed` the flits of each
class taken whose credits are not returned, `unacked` the flits taken and not acknowledged, `sinceLink` the flits sent since the
last link flit; `stamp` the count the other end's last link flit carried and this device's count when it came (R368); `line` the flits
put out, 224 bytes each. -/
structure Worgon where
  role : Nat := 0
  trained : Bool := false
  lost : Bool := false
  bad : List Nat := []
  spare : Option Nat := some 8
  width : Nat := 8
  retraining : Option Nat := none
  nextRx : Nat := 0
  nextTx : Nat := 0
  naks : Nat := 0
  nakDue : Bool := false
  credits : Tab Nat := []
  delivered : List (Nat × List Byte) := []
  replay : List Flit := []
  waiting : List (Nat × List Byte) := []
  owed : Tab Nat := []
  unacked : Nat := 0
  sinceLink : Nat := 0
  lastValid : W64 := 0
  retrain : Bool := false
  stamp : W64 × W64 := (0, 0)
  line : List (List Byte) := []
deriving DecidableEq, Repr, Inhabited

/-- The fabric as this device sees it (R348 to R374): the tree, of a worker the devices below it, the tag table (device, caddy index,
tag, DIGEST), launched doorbells, what is handed to other devices and the answers to packets, the positions refused at the last
enumeration, the jobs of other devices that are linked (R352, R363). -/
structure Fabric where
  workers : List Worker := []
  refused : List Nat := []
  devNumber : Nat := 0
  tags : List (Nat × Nat × W64 × Digest) := []
  launches : List Launch := []
  forwarded : List (Nat × List Byte) := []
  answers : List (Nat × AccAnswer) := []
  enumerated : Bool := false
  correction : Int := 0
  offset : Int := 0
  worgon : Tab Worgon := []
  activeUp : Option Nat := none
  linked : List (Nat × Nat) := []
deriving DecidableEq, Repr, Inhabited

/-- The power controller (R470 to R477). -/
structure PowerState where
  capW : Nat := 0
  cfgCap : Nat := 0
  corePhases : Nat := 0
  phaseAmps : Nat := 0
  tThrottle : Nat := 100
  wakeRate : Nat := 8
  sleepAfter : Nat := 0
  powerW : Nat := 0
  phases : Nat := 0
  kCap : Nat := 16
  byCap : Bool := false
  byCurrent : Bool := false
  belowSince : Option W64 := none
  samples : List (W64 × Nat) := []
  levels : Tab Nat := []
  throttleSince : Option W64 := none
deriving DecidableEq, Repr, Inhabited

/-- The machine's state. -/
structure State where
  pending : List Instr := []
  freeCtr : Nat := 0
  dev : DevState := {}
  h0 : HubState := {}
  h1 : HubState := {}
  pa : PortState := {}
  pb : PortState := {}
  far : FarTier := {}
  near : NearTier := {}
  key : KeyNet := {}
  dies : Tab DieState := []
  phys : Tab PhysCore := []
  cores : Tab CoreCtx := []
  tab : Tables := {}
  record : RecordDie := {}
  fab : Fabric := {}
  pwr : PowerState := {}
deriving DecidableEq, Repr, Inhabited

/-- Why a step stops. -/
inductive Fault where
  /-- Raised by a command that names a core, sensor, handle or queue number the device does not have (R13, R221,
  R330, R477): no such command can arise. Safe: the machine stops where the hardware has no behaviour. -/
  | noSuchUnit
  /-- Raised by a memory-side operation or a block access at an address outside the far tier (R294), which R300's
  check keeps from arising. Safe: the machine stops where the hardware has no memory. -/
  | noMemory
deriving DecidableEq, Repr

/-- Why a command has no meaning. -/
inductive Refusal where
  /-- Raised by an arm of exec whose meaning is not written. Safe: the machine stops. -/
  | notModelled (mnemonic : String)
deriving DecidableEq, Repr

/-- Right after reset: both POR inputs released together, boot step 1 done on both hubs (R440, R481), nothing joined,
no link trained, the record die as delivered. -/
def State.reset : State :=
  { h0 := { meas0 := Config.romDigest }
    h1 := { meas0 := Config.romDigest } }

end Sys2Proof.Machine
end

