-- ==== Sys2Proof/Machine/Util.lean ====
section
/-! DEFINITION. Bit fields, little-endian fields (R7, R8), saturating counters, tables, and the sparse memory in its one
canonical form. -/

namespace Sys2Proof.Machine

open Sys2Proof

/-- Bits [lo + len - 1 : lo] of a number (R7). -/
def field (w lo len : Nat) : Nat := w / 2 ^ lo % 2 ^ len

def bit (w i : Nat) : Bool := w / 2 ^ i % 2 == 1

/-- The value of bytes in address order, little-endian (R8). -/
def leNat : List Byte → Nat
  | [] => 0
  | b :: r => b.toNat + 256 * leNat r

/-- The n low bytes of a value in address order (R8). -/
def leBytes : Nat → Nat → List Byte
  | 0, _ => []
  | n + 1, v => BitVec.ofNat 8 v :: leBytes n (v / 256)

/-- The little-endian field of `len` bytes at `off`; bytes past the end read zero. -/
def leAt (bs : List Byte) (off len : Nat) : Nat := leNat ((bs.drop off).take len)

/-- A two's complement field of `bits` bits. -/
def signed (bits v : Nat) : Int := if v < 2 ^ (bits - 1) then (v : Int) else (v : Int) - 2 ^ bits

def zeros (n : Nat) : List Byte := List.replicate n 0

/-- Exactly n bytes: cut, or padded with zeros. -/
def padTo (n : Nat) (bs : List Byte) : List Byte := bs.take n ++ zeros (n - bs.length)

/-- Bytes `off ..` of a page replaced by `new`. -/
def splice (page : List Byte) (off : Nat) (new : List Byte) : List Byte :=
  padTo off page ++ new ++ page.drop (off + new.length)

def allZero (bs : List Byte) : Bool := bs.all (· == 0)

/-- Add 1 to a counter of w bits that saturates (R54, R511). -/
def satInc {w : Nat} (x : BitVec w) : BitVec w := if x = BitVec.allOnes w then x else x + 1

def satAdd {w : Nat} (x : BitVec w) (n : Nat) : BitVec w :=
  if x.toNat + n < 2 ^ w then x + BitVec.ofNat w n else BitVec.allOnes w

/-! Tables with rising keys. -/

def tabGet? {α : Type} : Tab α → Nat → Option α
  | [], _ => none
  | (k, v) :: r, i => if k = i then some v else tabGet? r i

def tabGet {α : Type} (d : α) (t : Tab α) (i : Nat) : α := (tabGet? t i).getD d

def tabSet {α : Type} : Tab α → Nat → α → Tab α
  | [], i, v => [(i, v)]
  | (k, w) :: r, i, v =>
    if i < k then (i, v) :: (k, w) :: r
    else if i = k then (i, v) :: r
    else (k, w) :: tabSet r i v

def tabErase {α : Type} (t : Tab α) (i : Nat) : Tab α := t.filter (fun kv => kv.1 != i)

/-- Write, where writing the default removes the entry, so that equal tables are equal data. -/
def tabPut {α : Type} [DecidableEq α] (d : α) (t : Tab α) (i : Nat) (v : α) : Tab α :=
  if v = d then tabErase t i else tabSet t i v

/-! The sparse memory. -/

/-- The canonical form: addresses strictly rising, no cell holding the value an unlisted byte reads as. -/
def Memory.wf (m : Memory) : Bool :=
  decide (m.Pairwise (fun x y => x.1 < y.1)) && m.all (fun c => c.2 != 0)

def memRead : Memory → Nat → Byte
  | [], _ => 0
  | (k, v) :: r, a => if k = a then v else memRead r a

/-- The cells of addresses from lo up to, and without, hi. -/
def memRange (m : Memory) (lo hi : Nat) : Memory := m.filter (fun c => decide (lo ≤ c.1) && decide (c.1 < hi))

/-- The n bytes from address a. -/
def memReadN (m : Memory) (a n : Nat) : List Byte :=
  (List.range n).map (fun i => memRead (memRange m a (a + n)) (a + i))

/-- The cells that hold bytes from address a on, bytes of 0 left out. -/
def memCells : Nat → List Byte → Memory
  | _, [] => []
  | a, b :: r => if b = 0 then memCells (a + 1) r else (a, b) :: memCells (a + 1) r

/-- The bytes from address a on replaced. -/
def memWriteN (m : Memory) (a : Nat) (bs : List Byte) : Memory :=
  m.filter (fun c => decide (c.1 < a)) ++ memCells a bs ++ m.filter (fun c => decide (a + bs.length ≤ c.1))

def memWrite (m : Memory) (a : Nat) (b : Byte) : Memory := memWriteN m a [b]

/-- The bytes from address lo up to, and without, hi set to zero. -/
def memZero (m : Memory) (lo hi : Nat) : Memory := m.filter (fun c => decide (c.1 < lo) || decide (hi ≤ c.1))

/-- The little-endian value of n bytes at a. -/
def memLe (m : Memory) (a n : Nat) : Nat := leNat (memReadN m a n)

def xorBytes (a b : List Byte) : List Byte := List.zipWith (· ^^^ ·) a b

/-- Split a list into pieces of n (n positive), by a bound on the number of pieces. -/
def chunks {α : Type} (n : Nat) : Nat → List α → List (List α)
  | 0, _ => []
  | k + 1, l => l.take n :: chunks n k (l.drop n)

/-- The position of the first element that fails, and so on: the first `some` of a list of checks. -/
def firstSome {α : Type} : List (Option α) → Option α
  | [] => none
  | some x :: _ => some x
  | none :: r => firstSome r

/-- `some v` when the condition holds. -/
def failIf {α : Type} (c : Bool) (v : α) : Option α := if c then some v else none

def ceilDiv (a b : Nat) : Nat := (a + b - 1) / b

/-- The lowest number below `n` that is not in the list. -/
def lowestFree (n : Nat) (used : List Nat) : Option Nat := (List.range n).find? (fun i => !used.contains i)

/-- Replace the elements that match. -/
def updWhere {α : Type} (p : α → Bool) (f : α → α) (l : List α) : List α := l.map (fun x => if p x then f x else x)

def minList : List Nat → Option Nat
  | [] => none
  | x :: r => some (r.foldl min x)

/-- Insertion of an element into a list kept in order of a key. -/
def insertBy {α : Type} (key : α → Nat) (x : α) : List α → List α
  | [] => [x]
  | y :: r => if key x < key y then x :: y :: r else y :: insertBy key x r

def sortBy {α : Type} (key : α → Nat) (l : List α) : List α := l.foldl (fun acc x => insertBy key x acc) []

end Sys2Proof.Machine
end

