-- ==== Sys2Proof/Machine/NumTheory.lean ====
section
/-! DEFINITION. Arithmetic modulo a prime: powers, inverses, the primality test of R28. -/

namespace Sys2Proof.Machine

/-- b^e mod m, reading at most `fuel` bits of e. -/
def powModAux : Nat → Nat → Nat → Nat → Nat → Nat
  | 0, acc, _, _, m => acc % m
  | n + 1, acc, b, e, m =>
    if e = 0 then acc % m
    else powModAux n (if e % 2 = 1 then acc * b % m else acc) (b * b % m) (e / 2) m

def powMod (b e m : Nat) : Nat := powModAux 64 1 (b % m) e m

/-- The inverse modulo a prime, by Fermat. -/
def invMod (a q : Nat) : Nat := powMod a (q - 2) q

def addMod (a b q : Nat) : Nat := (a + b) % q
def subMod (a b q : Nat) : Nat := (a % q + (q - b % q)) % q
def mulMod (a b q : Nat) : Nat := a * b % q
def negMod (a q : Nat) : Nat := (q - a % q) % q

/-- n - 1 = d × 2^r with d odd: (d, r). -/
def oddPart : Nat → Nat → Nat × Nat
  | 0, d => (d, 0)
  | n + 1, d => if d % 2 = 0 then ((oddPart n (d / 2)).1, (oddPart n (d / 2)).2 + 1) else (d, 0)

/-- One of x, x^2, x^4, … (r terms) is n - 1. -/
def reachesMinusOne (n : Nat) : Nat → Nat → Bool
  | 0, _ => false
  | r + 1, x => x == n - 1 || reachesMinusOne n r (x * x % n)

/-- n passes the Miller–Rabin test to a base. -/
def passesBase (n a : Nat) : Bool :=
  let dr := oddPart 32 (n - 1)
  let x := powMod a dr.1 n
  x == 1 || reachesMinusOne n dr.2 x

/-- The deterministic test with bases 2, 7 and 61 (R28). -/
def isPrime (n : Nat) : Bool :=
  if n < 2 then false
  else if n == 2 || n == 7 || n == 61 then true
  else n % 2 == 1 && passesBase n 2 && passesBase n 7 && passesBase n 61

end Sys2Proof.Machine
end

