-- ==== Sys2Proof/Machine/Bignum.lean ====
section
/-! DEFINITION. The bignum engine of a hub (R457 to R459): the results of its operations, their cycles, the order in which it
starts them. -/

namespace Sys2Proof.Machine

open Sys2Proof

def bigBits : BigSize → Nat
  | .b256 => 256
  | .b384 => 384
  | .b576 => 576
  | .b4096 => 4096

/-! Results (R457, R458). -/

/-- 2^-k modulo an odd number. -/
def halfPower (k m : Nat) : Nat := powModAux 13 1 ((m + 1) / 2 % m) k m

/-- An operand as it is reduced: one equal to the modulus is congruent to zero. -/
def bigReduce (m x : Nat) : Nat := if x = m then 0 else x

def bigIndex : BigOp → Nat
  | .mont => 0
  | .madd => 1
  | _ => 2

/-- The least result of MONT, MADD or MSUB modulo an odd number. -/
def bigModular (op : BigOp) (k a b m : Nat) : Nat :=
  match op with
  | .mont => a * b % m * halfPower k m % m
  | .madd => (a + b) % m
  | _ => (a % m + (m - b % m)) % m

/-- MONT, MADD and MSUB: in [0, m) for operands up to m; for others a congruent value below 2^k, left open; for an even or zero m
a value left open (R458). -/
def bigReduced (op : BigOp) (k a b m : Nat) : Nat :=
  if m % 2 = 0 then Config.bignumEven (bigIndex op) a b m % 2 ^ k
  else if a ≤ m ∧ b ≤ m then bigModular op k (bigReduce m a) (bigReduce m b) m
  else if op = .mont ∧ (a = 0 ∨ b = 0) then 0
  else
    let r := bigModular op k a b m
    r + m * (Config.bignumMultiple (bigIndex op) a b m % ((2 ^ k - 1 - r) / m + 1))

/-- The result of an operation; `acc` is the accumulator a MAC adds to, of 2k + 64 bits, wrapping. -/
def bigResult (acc : Nat) (t : BigTask) : Nat :=
  match t.op with
  | .mul => t.a * t.b
  | .mac => (acc + t.a * t.b) % 2 ^ (2 * (bigBits t.size) + 64)
  | op => bigReduced op (bigBits t.size) t.a t.b t.m

/-! Cycles and order (R457, R459). -/

/-- Cycles of an operation, fixed by its size. -/
def bigCycles (t : BigTask) : Nat :=
  match t.op, t.size with
  | .mul, .b256 | .mac, .b256 => 12
  | .mul, .b384 | .mac, .b384 => 17
  | .mul, .b576 | .mac, .b576 => 29
  | .mul, .b4096 | .mac, .b4096 => 1032
  | .mont, .b256 => 20
  | .mont, .b384 => 30
  | .mont, .b576 => 53
  | .mont, .b4096 => 2060
  | .madd, .b256 | .msub, .b256 => 8
  | .madd, .b384 | .msub, .b384 => 10
  | .madd, .b576 | .msub, .b576 => 13
  | .madd, .b4096 | .msub, .b4096 => 68

def BigTask.long (t : BigTask) : Bool := t.size == .b4096

/-- Hub firmware issues an operation. -/
def BigEngine.issue (e : BigEngine) (t : BigTask) : BigEngine := { e with waiting := e.waiting ++ [t] }

def bigOpAt : Nat → BigOp
  | 0 => .mul
  | 1 => .mac
  | 2 => .mont
  | 3 => .madd
  | _ => .msub

def bigSizeAt : Nat → BigSize
  | 0 => .b256
  | 1 => .b384
  | 2 => .b576
  | _ => .b4096

/-- An operation of hub firmware: operands of exactly the size, an odd modulus (R457, R458). -/
def bigTaskOf (x : Nat × Nat × Nat × Nat × Nat) : BigTask :=
  let size := bigSizeAt x.2.1
  let k := bigBits size
  { op := bigOpAt x.1, size := size, a := x.2.2.1 % 2 ^ k, b := x.2.2.2.1 % 2 ^ k, m := 2 * (x.2.2.2.2 % 2 ^ (k - 1)) + 1 }

/-- The step of a protocol message: its operations, issued in order (R459, log 119). -/
def BigEngine.issueStep (e : BigEngine) (n : Nat) (msg : List Byte) : BigEngine :=
  (Config.protocolOperations n msg).foldl (fun e x => e.issue (bigTaskOf x)) e

/-- An idle engine starts the first waiting operation of at most 576 bits, else resumes the one that yielded, else starts the first
4,096-bit one. -/
def BigEngine.start (e : BigEngine) : BigEngine :=
  match e.waiting.find? (fun t => !t.long), e.yielded, e.waiting with
  | some t, _, _ => { e with waiting := e.waiting.erase t, running := some (t, bigCycles t) }
  | none, some y, _ => { e with yielded := none, running := some y }
  | none, none, t :: r => { e with waiting := r, running := some (t, bigCycles t) }
  | none, none, [] => e

/-- The running operation ends with its result. -/
def BigEngine.finish (e : BigEngine) (t : BigTask) : BigEngine :=
  let v := bigResult e.acc t
  { e with running := none, results := e.results ++ [v], acc := if t.op = .mac then v else e.acc }

/-- The running operation has one cycle less to go; a 4,096-bit one yields every 256 cycles to shorter ones that wait. -/
def BigEngine.advance (e : BigEngine) (t : BigTask) (left : Nat) : BigEngine :=
  if left ≤ 1 then e.finish t
  else
    let rest := left - 1
    if t.long && (bigCycles t - rest) % 256 == 0 && e.waiting.any (fun x => !x.long) then
      { e with running := none, yielded := some (t, rest) }
    else { e with running := some (t, rest) }

/-- One cycle of the engine's 1 GHz clock. -/
def BigEngine.cycle (e : BigEngine) : BigEngine :=
  let e := if e.running.isNone then e.start else e
  match e.running with
  | none => e
  | some (t, left) => e.advance t left

/-- A number of cycles. -/
def BigEngine.run (e : BigEngine) (n : Nat) : BigEngine := (List.range n).foldl (fun e _ => e.cycle) e

/-- Cycles of 1 GHz in a tick of GCOUNT. -/
def bigCyclesPerTick : Nat := 10

/-! Arithmetic that hub firmware builds from them (R457). -/

/-- A product modulo an odd number of at most 384 bits: two MONTs. -/
def bigMulMod (a b m : Nat) : Nat :=
  let mont (x y : Nat) : Nat := bigResult 0 { op := .mont, size := .b384, a := x, b := y, m := m }
  mont (mont a b) (2 ^ 768 % m)

def bigAddMod (a b m : Nat) : Nat := bigResult 0 { op := .madd, size := .b384, a := a, b := b, m := m }
def bigSubMod (a b m : Nat) : Nat := bigResult 0 { op := .msub, size := .b384, a := a, b := b, m := m }

/-- b^e, reading at most `fuel` bits of e. -/
def bigPow : Nat → Nat → Nat → Nat → Nat → Nat
  | 0, acc, _, _, _ => acc
  | n + 1, acc, b, e, m =>
    if e = 0 then acc else bigPow n (if e % 2 = 1 then bigMulMod acc b m else acc) (bigMulMod b b m) (e / 2) m

end Sys2Proof.Machine
end

