-- ==== Sys2Proof/Machine/Hash.lean ====
section
/-! DEFINITION. The checks and digests the manual names: CRC-32C (R199), the (72,64) word code (R304), and SHA3-256,
SHA3-384 and SHAKE256 (R150, R437; PRESUMED as FIPS 202 defines them, log 15). -/

namespace Sys2Proof.Machine

open Sys2Proof

/-- One bit of the reflected CRC with polynomial 0x82F6_3B78 (R199). -/
def crcBit (c : W32) : W32 := if c &&& 1 = 1 then (c >>> 1) ^^^ 0x82F63B78 else c >>> 1

def crcByte (c : W32) (b : Byte) : W32 :=
  let x := c ^^^ b.zeroExtend 32
  crcBit (crcBit (crcBit (crcBit (crcBit (crcBit (crcBit (crcBit x)))))))

/-- CRC-32C: initial value and final XOR all ones, input and output reflected (R199). -/
def crc32c (bs : List Byte) : W32 := bs.foldl crcByte 0xFFFFFFFF ^^^ 0xFFFFFFFF

/-! The word code. -/

/-- The 8-bit values of weight 3 in ascending order (R304). -/
def weight3 : List Nat := (List.range 256).filter (fun v => ((List.range 8).filter (fun i => bit v i)).length == 3)

/-- The columns of the 72 bits: data bits 0 to 63, then check bits 0 to 7 (R304). -/
def codeColumns : List Nat :=
  weight3 ++ [0x1F, 0x2F, 0x37, 0x3B, 0x3D, 0x3E, 0x4F, 0x57] ++ (List.range 8).map (fun j => 2 ^ j)

def xorNat (a b : Nat) : Nat := a ^^^ b

/-- The XOR of the columns of the set bits of a 72-bit word (R304). -/
def syndrome (w : BitVec 72) : Nat :=
  (codeColumns.zipIdx.filter (fun ci => bit w.toNat ci.2)).foldl (fun acc ci => xorNat acc ci.1) 0

/-- What a syndrome says (R304, table Word code syndromes). -/
inductive Correction where
  | clean | corrected (bitIndex : Nat) | uncorrectable
deriving DecidableEq, Repr

def decodeSyndrome (syn : Nat) : Correction :=
  if syn = 0 then .clean
  else match codeColumns.findIdx? (· == syn) with
    | some i => .corrected i
    | none => .uncorrectable

/-! Keccak. -/

def keccakRc : List W64 :=
  [0x0000000000000001, 0x0000000000008082, 0x800000000000808A, 0x8000000080008000,
   0x000000000000808B, 0x0000000080000001, 0x8000000080008081, 0x8000000000008009,
   0x000000000000008A, 0x0000000000000088, 0x0000000080008009, 0x000000008000000A] ++
  [0x000000008000808B, 0x800000000000008B, 0x8000000000008089, 0x8000000000008003,
   0x8000000000008002, 0x8000000000000080, 0x000000000000800A, 0x800000008000000A,
   0x8000000080008081, 0x8000000000008080, 0x0000000080000001, 0x8000000080008008]

def keccakRot : List Nat :=
  [0, 1, 62, 28, 27, 36, 44, 6, 55, 20, 3, 10, 43, 25, 39, 41, 45, 15, 21, 8, 18, 2, 61, 56, 14]

def lane (a : List W64) (x y : Nat) : W64 := a.getD (x % 5 + 5 * (y % 5)) 0

def keccakRound (a : List W64) (rc : W64) : List W64 :=
  let c := (List.range 5).map (fun x => lane a x 0 ^^^ lane a x 1 ^^^ lane a x 2 ^^^ lane a x 3 ^^^ lane a x 4)
  let d := (List.range 5).map (fun x => c.getD ((x + 4) % 5) 0 ^^^ (c.getD ((x + 1) % 5) 0).rotateLeft 1)
  let t := (List.range 25).map (fun i => (a.getD i 0 ^^^ d.getD (i % 5) 0).rotateLeft (keccakRot.getD i 0))
  let b := (List.range 25).map (fun i => lane t ((i % 5) + 3 * (i / 5)) (i % 5))
  let e := (List.range 25).map (fun i =>
    let x := i % 5
    let y := i / 5
    lane b x y ^^^ (~~~ (lane b (x + 1) y) &&& lane b (x + 2) y))
  match e with
  | h :: r => (h ^^^ rc) :: r
  | [] => []

def keccakF (a : List W64) : List W64 := keccakRc.foldl keccakRound a

def absorbBlock (a : List W64) (block : List Byte) : List W64 :=
  let ws := (chunks 8 (block.length / 8) block).map (fun c => BitVec.ofNat 64 (leNat c))
  keccakF (a.zipIdx.map (fun wi => wi.1 ^^^ ws.getD wi.2 0))

/-- The padded input of a sponge of byte rate `rate` with domain bits `dom`. -/
def spongePad (rate : Nat) (dom : Byte) (msg : List Byte) : List Byte :=
  let k := rate - msg.length % rate
  if k = 1 then msg ++ [dom ||| 0x80] else msg ++ [dom] ++ zeros (k - 2) ++ [0x80]

def laneBytes (a : List W64) : List Byte := a.flatMap (fun w => leBytes 8 w.toNat)

def squeeze (rate : Nat) : Nat → List W64 → List Byte
  | 0, _ => []
  | k + 1, a => (laneBytes a).take rate ++ squeeze rate k (keccakF a)

def sponge (rate : Nat) (dom : Byte) (msg : List Byte) (n : Nat) : List Byte :=
  let p := spongePad rate dom msg
  let a := (chunks rate (p.length / rate) p).foldl absorbBlock (List.replicate 25 0)
  (squeeze rate (ceilDiv n rate) a).take n

def sha3_256 (msg : List Byte) : List Byte := sponge 136 0x06 msg 32
def sha3_384 (msg : List Byte) : List Byte := sponge 104 0x06 msg 48
/-- The first n bytes of SHAKE256 (R150). -/
def shake256 (msg : List Byte) (n : Nat) : List Byte := sponge 136 0x1F msg n

/-- The 32 bytes of a digest as one number, byte 0 lowest (R8). -/
def digestOf (bs : List Byte) : Digest := BitVec.ofNat 256 (leNat bs)
def digestBytes (d : Digest) : List Byte := leBytes 32 d.toNat

def sha3Digest (msg : List Byte) : Digest := digestOf (sha3_256 msg)

end Sys2Proof.Machine
end

