-- ==== Sys2Proof/Machine/P384.lean ====
section
/-! DEFINITION. P-384 as FIPS 186-5 defines it (R437, R460; PRESUMED, log 25): point validation and ECDSA verification
with SHA3-384, built from operations of the bignum engine (R457). -/

namespace Sys2Proof.Machine

def p384P : Nat := 2 ^ 384 - 2 ^ 128 - 2 ^ 96 + 2 ^ 32 - 1
def p384B : Nat :=
  0xb3312fa7e23ee7e4988e056be3f82d19181d9c6efe8141120314088f5013875ac656398d8a2ed19d2a85c8edd3ec2aef
def p384N : Nat :=
  0xffffffffffffffffffffffffffffffffffffffffffffffffc7634d81f4372ddf581a0db248b0a77aecec196accc52973
def p384G : Nat × Nat :=
  (0xaa87ca22be8b05378eb1c71ef320ad746e1d3b628ba79b9859f741e082542a385502f25dbf55296c3a545e3872760ab7,
   0x3617de4a96262c6f5d9e98bf9292dc29f8f41dbd289a147ce9da3113b5f0b8c00a60b1ce1d7e819d7a431d7c90ea0e5f)

/-- A point, none for the point at infinity. -/
abbrev Pt := Option (Nat × Nat)

def inv384 (a m : Nat) : Nat := bigPow 400 1 (a % m) (m - 2) m

/-- The tangent or chord through two points with slope l. -/
def pointOn (l x1 y1 x2 : Nat) : Nat × Nat :=
  let p := p384P
  let x3 := bigSubMod (bigMulMod l l p) (bigAddMod x1 x2 p) p
  (x3, bigSubMod (bigMulMod l (bigSubMod x1 x3 p) p) y1 p)

/-- The slope of the tangent at a point. -/
def tangent (x y : Nat) : Nat :=
  let p := p384P
  let xx := bigMulMod x x p
  bigMulMod (bigSubMod (bigAddMod (bigAddMod xx xx p) xx p) 3 p) (inv384 (bigAddMod y y p) p) p

def ptAdd (a b : Pt) : Pt :=
  let p := p384P
  match a, b with
  | none, q => q
  | q, none => q
  | some (x1, y1), some (x2, y2) =>
    if x1 = x2 then
      if bigAddMod y1 y2 p = 0 then none else some (pointOn (tangent x1 y1) x1 y1 x2)
    else some (pointOn (bigMulMod (bigSubMod y2 y1 p) (inv384 (bigSubMod x2 x1 p) p) p) x1 y1 x2)

/-- k × q, reading at most `fuel` bits of k. -/
def ptMul : Nat → Nat → Pt → Pt
  | 0, _, _ => none
  | n + 1, k, q =>
    if k = 0 then none
    else
      let r := ptMul n (k / 2) (ptAdd q q)
      if k % 2 = 1 then ptAdd r q else r

/-- Coordinates below p, on the curve, not the point at infinity (R460). -/
def validPoint (x y : Nat) : Bool :=
  let p := p384P
  decide (x < p) && decide (y < p) && (bigMulMod y y p ==
    bigAddMod (bigSubMod (bigMulMod (bigMulMod x x p) x p) (bigMulMod 3 x p) p) p384B p)

/-- A P-384 point as 97 bytes: 0x04, X, Y, each little-endian (R8, R448). -/
def pointOf (b : List Byte) : Option (Nat × Nat) :=
  if leAt b 0 1 = 4 && validPoint (leAt b 1 48) (leAt b 49 48) then some (leAt b 1 48, leAt b 49 48) else none

/-- The digest as the integer ECDSA signs: SHA3-384, first byte most significant. -/
def hash384 (msg : List Byte) : Nat := leNat (sha3_384 msg).reverse

/-- ECDSA verification of (r, s) over a message. -/
def ecdsaVerify (key : Nat × Nat) (msg : List Byte) (r s : Nat) : Bool :=
  let n := p384N
  if r = 0 || n ≤ r || s = 0 || n ≤ s then false
  else
    let w := inv384 s n
    match ptAdd (ptMul 400 (bigMulMod (hash384 msg % n) w n) (some p384G)) (ptMul 400 (bigMulMod r w n) (some key)) with
    | none => false
    | some (x, _) => x % n == r

end Sys2Proof.Machine
end

