-- ==== Sys2Proof/Machine/Ops.lean ====
section
/-! DEFINITION. The shared operations over the block's registers and lists: which hub leads, host memory, the event rings
(R343, R344, R513), MSI-X (R337, R515), the error registers (R511), the black box (R430 to R433), the device state
(R385), the clock. -/

namespace Sys2Proof.Machine

open Sys2Proof

/-- The outcome of a command. -/
abbrev Result := Host.Outcome State Fault Refusal

/-! Parts of the state by name. -/

def State.hub (s : State) : Hub → HubState
  | .h0 => s.h0
  | .h1 => s.h1

def State.setHub (s : State) (h : Hub) (v : HubState) : State :=
  match h with
  | .h0 => { s with h0 := v }
  | .h1 => { s with h1 := v }

def State.updHub (s : State) (h : Hub) (f : HubState → HubState) : State := s.setHub h (f (s.hub h))

def State.port (s : State) : Port → PortState
  | .a => s.pa
  | .b => s.pb

def State.setPort (s : State) (p : Port) (v : PortState) : State :=
  match p with
  | .a => { s with pa := v }
  | .b => { s with pb := v }

def State.updPort (s : State) (p : Port) (f : PortState → PortState) : State := s.setPort p (f (s.port p))

def State.die (s : State) (d : Nat) : DieState := tabGet {} s.dies d
def State.updDie (s : State) (d : Nat) (f : DieState → DieState) : State :=
  { s with dies := tabPut {} s.dies d (f (s.die d)) }

def State.physCore (s : State) (p : Nat) : PhysCore := tabGet {} s.phys p
def State.updPhys (s : State) (p : Nat) (f : PhysCore → PhysCore) : State :=
  { s with phys := tabPut {} s.phys p (f (s.physCore p)) }

def State.core (s : State) (c : Nat) : CoreCtx := tabGet {} s.cores c
def State.updCore (s : State) (c : Nat) (f : CoreCtx → CoreCtx) : State :=
  { s with cores := tabPut {} s.cores c (f (s.core c)) }

def State.updDev (s : State) (f : DevState → DevState) : State := { s with dev := f s.dev }
def State.updTab (s : State) (f : Tables → Tables) : State := { s with tab := f s.tab }
def State.updRecord (s : State) (f : RecordDie → RecordDie) : State := { s with record := f s.record }
def State.updFab (s : State) (f : Fabric → Fabric) : State := { s with fab := f s.fab }
def State.updPwr (s : State) (f : PowerState → PowerState) : State := { s with pwr := f s.pwr }
def State.updFar (s : State) (f : FarTier → FarTier) : State := { s with far := f s.far }
def State.updNear (s : State) (f : NearTier → NearTier) : State := { s with near := f s.near }
def State.updKey (s : State) (f : KeyNet → KeyNet) : State := { s with key := f s.key }

/-- The hub whose count events and log entries carry: the lead, or H0 while no hub leads. -/
def State.leadOr0 (s : State) : Hub := s.dev.lead.getD .h0

/-- GCOUNT of the lead (R368, R506). -/
def State.now (s : State) : W64 := (s.hub s.leadOr0).gcount

/-- Ticks passed since an earlier count. -/
def State.since (s : State) (t : W64) : Nat := (s.now - t).toNat

/-- Ticks of GCOUNT in a microsecond, a millisecond and a second: one tick is 10 ns (R12). -/
def usTicks : Nat := 100
def msTicks : Nat := 100000
def secTicks : Nat := 100000000

/-- A hub counts while it is not held in reset (R485, R488). -/
def HubState.counting (h : HubState) : Bool := h.phase != .porHeld && h.phase != .railHold && h.phase != .hrstHeld

/-- One tick of a hub: GCOUNT, and ten cycles of its bignum engine (R457). -/
def HubState.tick (h : HubState) : HubState :=
  if h.counting then { h with gcount := h.gcount + 1, big := h.big.run bigCyclesPerTick } else h

/-- On a worker, one tick in every 1,000 is added or withheld while a correction is left (R368). -/
def slewNow (s : State) : Bool := s.dev.role.val == 2 && s.fab.correction != 0 && s.record.aonTicks % 1000 == 0

/-- The tick in which a correction takes effect: two ticks, or none. -/
def HubState.slew (h : HubState) (correction : Int) : HubState := if correction < 0 then h else h.tick.tick

def slewTick (s : State) : State :=
  let c := s.fab.correction
  { s with h0 := s.h0.slew c, h1 := s.h1.slew c, fab := { s.fab with correction := if c < 0 then c + 1 else c - 1 } }

/-- One tick of GCOUNT, 10 ns, on each hub that counts, and of AON time (R368, R430, log 10). -/
def gcountTick (s : State) : State :=
  let t := if slewNow s then slewTick s else { s with h0 := s.h0.tick, h1 := s.h1.tick }
  { t with record := { t.record with aonTicks := t.record.aonTicks + 1 } }

/-! Host memory behind a port (R325, R346). -/

/-- An enumerated worker takes its commands from the fabric, never from a host of its own (R350, R360). Its port stands for
the manager port that issued a forwarded command, its port's host memory for the memory behind that port. -/
def onFabric (s : State) : Bool := s.dev.role.val == 2 && s.fab.enumerated

/-- Commands and host memory reach the device through a port: its link is up, or the fabric stands for it. -/
def reaches (s : State) (p : Port) : Bool := (s.port p).linkUp || onFabric s

/-- A read of host memory through a port: none where the access fails (HOST_ACCESS). -/
def hostRead (s : State) (p : Port) (addr n : Nat) : Option (List Byte) :=
  let ps := s.port p
  if reaches s p && ps.hostReadable && decide (addr + n ≤ 2 ^ 64) then some (memReadN ps.hostMem addr n) else none

/-- A write to host memory through a port. -/
def hostWrite (s : State) (p : Port) (addr : Nat) (bs : List Byte) : State :=
  s.updPort p (fun ps => { ps with hostMem := memWriteN ps.hostMem addr bs })

/-! MSI-X (R337, R515). -/

def PortState.vector (ps : PortState) (v : Nat) : MsixEntry := tabGet {} ps.msix v

/-- Signal a vector: its message is sent, or its pending bit is set while its entry is masked; a signal for a vector
whose pending bit is set merges (R337, R515). -/
def PortState.signal (ps : PortState) (v : Nat) : PortState :=
  if (ps.vector v).masked then { ps with msixPending := ps.msixPending ||| (1#16 <<< v) }
  else { ps with msixOut := ps.msixOut ++ [((ps.vector v).addr, (ps.vector v).data)] }

/-- A vector that has just been unmasked sends its pending message (R515). -/
def PortState.release (ps : PortState) (v : Nat) : PortState :=
  if !(ps.vector v).masked && bit ps.msixPending.toNat v then
    { ps with msixPending := ps.msixPending &&& ~~~(1#16 <<< v),
              msixOut := ps.msixOut ++ [((ps.vector v).addr, (ps.vector v).data)] }
  else ps

/-! The event rings (R343, R344, R513). -/

/-- The droppable events of the table Event codes (R344). -/
def droppable (code : Nat) : Bool :=
  [0x0007, 0x0008, 0x0009, 0x000A, 0x0010, 0x0011, 0x0012, 0x0015].contains code

/-- The 32 bytes of an event entry (R343). -/
def eventBytes (e : HeldEv) (phase : Bool) : List Byte :=
  leBytes 2 e.ev.code ++ leBytes 2 (if phase then 1 else 0) ++ leBytes 4 e.eseq ++ leBytes 8 e.gcount.toNat ++
    leBytes 2 e.ev.job ++ leBytes 2 e.ev.queue ++ leBytes 4 e.ev.arg0 ++ leBytes 8 e.ev.arg1

/-- The ring is full when TAIL + 1, modulo its size, equals HEAD (R513). -/
def PortState.ringFull (ps : PortState) : Bool := (ps.evtTail + 1) % 2 ^ ps.evtLog2 == ps.evtHead

/-- An event can be written now: a ring is set, the port is up, the ring has room (R344). -/
def PortState.canPost (ps : PortState) : Bool := ps.evtSet && ps.linkUp && !ps.ringFull

/-- Write one entry at TAIL and move TAIL; PHASE inverts on each wrap; with INTR 1, vector 0 is signalled (R336, R343,
R513). -/
def PortState.writeEvent (ps : PortState) (e : HeldEv) : PortState :=
  let written := { ps with
    hostMem := memWriteN ps.hostMem (ps.evtBase.toNat + 32 * ps.evtTail) (eventBytes e ps.evtPhase)
    evtTail := (ps.evtTail + 1) % 2 ^ ps.evtLog2
    evtPhase := if ps.evtTail + 1 = 2 ^ ps.evtLog2 then !ps.evtPhase else ps.evtPhase }
  if ps.evtIntr then written.signal 0 else written

/-- An event takes the next ESEQ of the port whether or not it is discarded (R344). -/
def PortState.takeSeq (ps : PortState) : PortState := { ps with evtSeq := (ps.evtSeq + 1) % 2 ^ 32 }

/-- A discarded event is counted (R344, HUB.EVT_COUNTS). -/
def PortState.discard (ps : PortState) : PortState :=
  { ps with evtDiscarded := satInc ps.evtDiscarded, evtLostDue := ps.evtLostDue + 1 }

/-- The most droppable events held before a ring is set (R343), and the events a port can hold before MBX_DONE and
QUEUE_STALLED are treated as droppable (R344). -/
def heldDroppableMax : Nat := 256
def heldMax : Nat := 1048576

/-- Whether an event that cannot be written now waits (R343, R344, log 16). -/
def PortState.holds (ps : PortState) (ev : Ev) : Bool :=
  if droppable ev.code then
    !ps.evtSet && decide ((ps.held.filter (fun h => droppable h.ev.code)).length < heldDroppableMax)
  else !((ev.code == 0x0001 || ev.code == 0x0006) && decide (heldMax ≤ ps.held.length))

/-- Post an event to a port: written, held or discarded (R343, R344). -/
def PortState.post (ps : PortState) (ev : Ev) (gc : W64) : PortState :=
  let e : HeldEv := { ev := ev, eseq := ps.evtSeq, gcount := gc }
  if ps.held.isEmpty && ps.canPost then (ps.writeEvent e).takeSeq
  else if ps.holds ev then { ps with held := ps.held ++ [e] }.takeSeq
  else ps.discard.takeSeq

/-- Write held events while there is room, in ESEQ order. -/
def PortState.drain : List HeldEv → PortState → PortState
  | [], ps => { ps with held := [] }
  | e :: r, ps => if ps.canPost then PortState.drain r (ps.writeEvent e) else { ps with held := e :: r }

/-- When room or the port returns: held events are written, then EVENTS_LOST with the count of those discarded
(R344). -/
def PortState.flush (ps : PortState) (gc : W64) : PortState :=
  let d := PortState.drain ps.held ps
  if d.evtLostDue != 0 && d.held.isEmpty && d.canPost then
    { d with evtLostDue := 0 }.post { code := 0x0016, arg0 := min d.evtLostDue (2 ^ 32 - 1) } gc
  else d

/-- An event for one port. The events of an enumerated worker are one list, which its lead hub keeps for FAB_EVENTS: either port's stands for
it (R362). -/
def postTo (s : State) (p : Port) (ev : Ev) : State :=
  let post (s : State) (p : Port) : State := s.updPort p (fun ps => ps.post ev s.now)
  if onFabric s then post (post s .a) .b else post s p

/-- An event for both ports (R344). -/
def postBoth (s : State) (ev : Ev) : State := if onFabric s then postTo s .a ev else postTo (postTo s .a ev) .b ev

/-- FAB_EVENTS has taken the oldest events; EVENTS_LOST follows with the count of those discarded, now that there is room (R344, R362). -/
def PortState.giveUp (ps : PortState) (n : Nat) (gc : W64) : PortState :=
  let d := { ps with held := ps.held.drop n }
  if d.evtLostDue != 0 && decide (0 < n) then
    { d with evtLostDue := 0 }.post { code := 0x0016, arg0 := min d.evtLostDue (2 ^ 32 - 1) } gc
  else d

def flushPort (s : State) (p : Port) : State := s.updPort p (fun ps => ps.flush s.now)

/-! Error registers (R511). -/

/-- The lead sets the class bit in both ports' HUB.ERR_SUMMARY (R511). -/
def setErr (s : State) (cls : Nat) : State :=
  let m : BitVec 20 := 1#20 <<< cls
  { s with pa := { s.pa with errSummary := s.pa.errSummary ||| m }
           pb := { s.pb with errSummary := s.pb.errSummary ||| m } }

def countCorrStack (s : State) (n : Nat) : State :=
  { s.updDev (fun d => { d with corrStack := satAdd d.corrStack n }) with
    record := { s.record with life := { s.record.life with corrected := min (s.record.life.corrected + n) (2 ^ 64 - 1) } } }

def countResent (s : State) (n : Nat) : State := s.updDev (fun d => { d with resent := satAdd d.resent n })

/-! The black box (R430 to R433). -/

/-- The entry kinds of R430. -/
def kindThermal : Nat := 3
def kindPower : Nat := 4
def kindSummary : Nat := 9
def kindLost : Nat := 0x0B

/-- Bytes 0x00 to 0x7B of an entry (R430). -/
def LogEntry.head (e : LogEntry) : List Byte :=
  leBytes 2 0x4242 ++ leBytes 1 e.kind ++ leBytes 1 0 ++ leBytes 4 e.boots ++ leBytes 8 e.seq ++
    leBytes 8 e.gcount.toNat ++ leBytes 8 e.aonTime ++ padTo 92 e.body

/-- The 128 bytes of an entry (R430). -/
def LogEntry.bytes (e : LogEntry) : List Byte := e.head ++ leBytes 4 e.ecrc.toNat

/-- The body of a SUMMARY entry (R430, Lifetime counters). -/
def Lifetime.bytes (l : Lifetime) : List Byte :=
  leBytes 4 l.boots ++ leBytes 4 l.hubResets ++ leBytes 4 l.takeovers ++ leBytes 4 l.fwUpdates ++
    leBytes 4 l.coresRetired ++ leBytes 4 l.coresReturned ++ leBytes 4 l.lanesSpared ++ leBytes 4 l.linkLanes ++
    leBytes 4 l.stacksLost ++ leBytes 4 l.blocksLost ++ leBytes 4 l.throttled ++ leBytes 4 0 ++
    leBytes 8 l.corrected ++ leBytes 8 l.sigIndex

/-- A 32-bit lifetime counter saturates (R430). -/
def lifeInc (n : Nat) : Nat := if n = 2 ^ 32 - 1 then n else n + 1

def entriesPerSegment : Nat := 8192
def segments : Nat := 56
def heldEntriesMax : Nat := 4096

/-- The next entry, with its sequence number and check (R431). -/
def RecordDie.make (r : RecordDie) (kind : Nat) (gc : W64) (body : List Byte) : LogEntry :=
  let e : LogEntry := { kind := kind, boots := r.life.boots, seq := r.nextSeq, gcount := gc,
                        aonTime := r.aonTicks / msTicks, body := body, ecrc := 0 }
  { e with ecrc := crc32c e.head }

/-- Make room: a full log zeroes its oldest segment (R432). -/
def RecordDie.reclaim (r : RecordDie) : RecordDie :=
  if r.log.length = segments * entriesPerSegment then { r with log := r.log.drop entriesPerSegment } else r

/-- Write one entry into the log, the first of a segment preceded by a SUMMARY (R431, R432). -/
def RecordDie.write (r : RecordDie) (kind : Nat) (gc : W64) (body : List Byte) : RecordDie :=
  let r := r.reclaim
  let r := if r.log.length % entriesPerSegment = 0 then
      { r with log := r.log ++ [r.make kindSummary gc r.life.bytes], nextSeq := r.nextSeq + 1 }
    else r
  { r with log := r.log ++ [r.make kind gc body], nextSeq := r.nextSeq + 1 }

/-- Drop an entry: its SEQ is never reused (R433). -/
def RecordDie.drop (r : RecordDie) (seq : Nat) : RecordDie :=
  { r with dropped := min (r.dropped + 1) (2 ^ 32 - 1), droppedNow := r.droppedNow + 1,
           firstDropped := if r.droppedNow = 0 then seq else min r.firstDropped seq }

/-- Hold one entry while the record die cannot be written (R433): a full store displaces the oldest held THERMAL or
POWER entry, else the new entry is dropped. -/
def RecordDie.hold (r : RecordDie) (kind : Nat) (gc : W64) (body : List Byte) : RecordDie :=
  let e := r.make kind gc body
  let r := { r with nextSeq := r.nextSeq + 1 }
  if r.held.length < heldEntriesMax then { r with held := r.held ++ [e] }
  else match r.held.find? (fun h => h.kind == kindThermal || h.kind == kindPower) with
    | some d => { (r.drop d.seq) with held := r.held.filter (fun h => h.seq != d.seq) ++ [e] }
    | none => r.drop e.seq

/-- The lead appends an entry (R431), or holds it (R433); after PWRFAIL_N no entry is started (R487). -/
def append (s : State) (kind : Nat) (body : List Byte) : State :=
  s.updRecord (fun r => if r.stopped then r else if r.writable then r.write kind s.now body else r.hold kind s.now body)

/-- The store of held entries is full (R433). -/
def RecordDie.storeFull (r : RecordDie) : Bool := !r.writable && decide (heldEntriesMax ≤ r.held.length)

/-- A fault of a class: its bit in both ports' HUB.ERR_SUMMARY, then a FAULT entry (R384, R430, R511). -/
def noteFault (s : State) (cls unit : Nat) (job : Nat := 0xFFFF) (arg : Nat := 0) : State :=
  append (setErr s cls) 1 (leBytes 1 cls ++ leBytes 1 0 ++ leBytes 2 unit ++ leBytes 2 job ++ leBytes 2 0 ++ leBytes 8 arg)

/-- A REPAIR entry (R430). -/
def noteRepair (s : State) (action unit status : Nat) : State :=
  append s 2 (leBytes 1 action ++ leBytes 1 0 ++ leBytes 2 unit ++ leBytes 2 status)

def updLife (s : State) (f : Lifetime → Lifetime) : State :=
  s.updRecord (fun r => { r with life := f r.life })

/-! The device state (R385). -/

def dieOfPhys (p : Nat) : Nat := p / 72
def dieOfCore (c : Nat) : Nat := c / 64

/-- The physical cores of a die in ascending k. -/
def physOf (d : Nat) : List Nat := (List.range 72).map (fun k => 72 * d + k)

/-- The SPARE core of a die with the lowest index (R15). -/
def spareOf (s : State) (d : Nat) : Option Nat := (physOf d).find? (fun p => (s.physCore p).st == .spare)

/-- The physical core that serves a logical core. -/
def physServing (s : State) (c : Nat) : Option Nat :=
  (physOf (dieOfCore c)).find? (fun p => (s.physCore p).logical == some c && (s.physCore p).st == .serving)

/-- A logical core is in service: its die's region is powered and a physical core serves it (R15, R377, R417). -/
def coreInService (s : State) (c : Nat) : Bool := (s.die (dieOfCore c)).powered && (physServing s c).isSome

def coresInService (s : State) : Nat := ((List.range 512).filter (coreInService s)).length

/-- DSTATE after start-up is DEGRADED while one of these holds (R385), and throughout a firmware update (R426). -/
def degraded (s : State) : Bool :=
  s.h0.svc != .inService || s.h1.svc != .inService || !s.near.lost.isEmpty ||
  s.far.g0.st == .degraded || s.far.g0.st == .exposed || s.far.g1.st == .degraded || s.far.g1.st == .exposed ||
  (List.range 8).any (fun d => (s.die d).powered && (spareOf s d).isNone) ||
  (List.range 8).any (fun d => (s.die d).lost || (s.die d).islandLost) || s.dev.fw.isSome

/-- Each change between READY and DEGRADED changes HUB.DEV_STATE, then posts DEVICE_STATE (R385, R504). -/
def refreshState (s : State) : State :=
  let d := if degraded s then 3 else 2
  if s.dev.dstate < 2 || s.dev.dstate = d then s
  else postBoth (s.updDev (fun v => { v with dstate := d })) { code := 0x0002, arg0 := d }

/-- SPARES_EXHAUSTED when a spare just taken was the die's last (R377, R384). -/
def noteExhausted (s : State) (d : Nat) : State :=
  if (spareOf s d).isNone then postBoth s { code := 0x000F, arg0 := d } else s

/-! Owners of far memory (R294, R326). -/

def extentBytes : Nat := 0x4000000
def libraryOwner : Nat := 0xFFFF
def numExtents : Nat := 9152

def extentOf (addr : Nat) : Nat := addr / extentBytes
def ownerOf (s : State) (addr : Nat) : Option Nat := tabGet? s.far.owners (extentOf addr)

/-- A far address range wholly inside memory granted to someone (R326). -/
def grantedTo (s : State) (ok : Nat → Bool) (addr len : Nat) : Bool :=
  decide (addr + len ≤ numExtents * extentBytes) &&
  (List.range (extentOf (addr + len - 1) - extentOf addr + 1)).all (fun i =>
    match tabGet? s.far.owners (extentOf addr + i) with
    | some o => ok o
    | none => false)

/-! Jobs and queues by number. -/

def findJob (s : State) (id : Nat) : Option Job := s.tab.jobs.find? (fun j => j.id == id)
def updJob (s : State) (id : Nat) (f : Job → Job) : State :=
  s.updTab (fun t => { t with jobs := updWhere (fun j => j.id == id) f t.jobs })

def findQueue (s : State) (n : Nat) : Option Queue := s.tab.queues.find? (fun q => q.num == n)
def updQueue (s : State) (n : Nat) (f : Queue → Queue) : State :=
  s.updTab (fun t => { t with queues := updWhere (fun q => q.num == n) f t.queues })

/-- Add 1 to a counter of R54 of a job: 0 TAG_MISMATCH, 1 MALFORMED, 2 SHAPE, 3 LEVEL, 4 SCALE, 5 FAULT. -/
def countCause (s : State) (job cause : Nat) : State :=
  updJob s job (fun j => { j with counters := j.counters.zipIdx.map (fun ci => if ci.2 = cause then satInc ci.1 else ci.1) })

/-- The live job that holds a logical core's octet. -/
def holderOf (s : State) (c : Nat) : Option Job := s.tab.jobs.find? (fun j => j.octets.contains (c / 8))

/-- A fresh free 32-bit word (R220, log 2). -/
def takeFree (s : State) : W32 × State := (Config.freeWord s.freeCtr, { s with freeCtr := s.freeCtr + 1 })

end Sys2Proof.Machine
end

