-- ==== Sys2Proof/Machine/Links.lean ====
section
/-! DEFINITION. The Worgon links (R353 to R358): lanes, flits sent under credits, the replay buffer, flits received, the
move to the second UP port. -/

namespace Sys2Proof.Machine

open Sys2Proof

def State.worgon (s : State) (k : Nat) : Worgon := tabGet {} s.fab.worgon k

def State.updWorgon (s : State) (k : Nat) (f : Worgon → Worgon) : State :=
  s.updFab (fun x => { x with worgon := tabPut {} x.worgon k (f (tabGet {} x.worgon k)) })

/-- The hub that carries a Worgon port: W0 to W5 on H0, W6 to W11 on H1. -/
def worgonHub (k : Nat) : Hub := if k < 6 then .h0 else .h1

/-- A port carries flits. -/
def Worgon.up (w : Worgon) : Bool := w.trained && !w.lost

/-- FSEQ counts modulo 1,024 (R354). -/
def seqMod : Nat := 1024

/-- The replay buffer in flits (R357). -/
def replayMax : Nat := 1024

/-- The payload of a flit in bytes (R354). -/
def flitPayload : Nat := 208

/-! Sending (R355, R356). -/

/-- The flits of a packet: whole flits, the last one filled up (R355). -/
def flitsOf (bytes : List Byte) : List (List Byte) :=
  (chunks flitPayload (max 1 (ceilDiv bytes.length flitPayload)) bytes).map (padTo flitPayload)

/-- The class with 8 flits or more to return credits for, and the units of 8 flits a header can return (R354, R356). -/
def Worgon.returns (w : Worgon) : Option (Nat × Nat) :=
  (w.owed.find? (fun c => 8 ≤ c.2)).map (fun c => (c.1, min 31 (c.2 / 8)))

/-- The 32 bits of a flit's header (table Flit header). -/
def headerOf (f : Flit) : Nat :=
  f.fseq % 2 ^ 10 + 2 ^ 10 * (f.ackseq % 2 ^ 10) + (if f.nak then 2 ^ 20 else 0) + 2 ^ 21 * (f.cls % 8) + 2 ^ 24 * (f.crClass % 8) +
    2 ^ 27 * (f.credits % 32)

/-- What the CRC-32C of a flit covers: header and payload (R199, R354). -/
def coveredBytes (f : Flit) : List Byte := leBytes 4 (headerOf f) ++ (padTo flitPayload f.payload).take flitPayload

/-- The CRC of a flit holds (R354). -/
def flitIntact (f : Flit) : Bool := f.crc == crc32c (coveredBytes f)

def sealFlit (f : Flit) : Flit := { f with crc := crc32c (coveredBytes f) }

/-- The 224 bytes of a flit: header, payload, CRC, error correction (R354). -/
def wireBytes (f : Flit) : List Byte :=
  let b := coveredBytes f ++ leBytes 4 f.crc.toNat
  b ++ (List.range 8).map (Config.correctionByte b)

/-- The stamps of a link flit: the sender's count, the count that the other end's last link flit carried, the count when that came (R368,
log 121). -/
def linkPayload (w : Worgon) (now : W64) : List Byte :=
  leBytes 8 now.toNat ++ leBytes 8 w.stamp.1.toNat ++ leBytes 8 w.stamp.2.toNat

/-- One flit sent: it takes the next number, a credit of its class unless it is a link flit, and its place in the replay buffer;
its header carries the acknowledgement, the NAK that is due and credits to return (R354, R357). -/
def Worgon.sendOne (w : Worgon) (cls : Nat) (payload : List Byte) : Worgon :=
  let (crClass, credits) := w.returns.getD (0, 0)
  let f := sealFlit { fseq := w.nextTx, ackseq := (w.nextRx + seqMod - 1) % seqMod, nak := w.nakDue, cls := cls,
                      crClass := crClass, credits := credits, payload := payload, crc := 0 }
  { w with
    nextTx := (w.nextTx + 1) % seqMod
    nakDue := false
    unacked := 0
    sinceLink := if cls = 0 then 0 else w.sinceLink + 1
    owed := if credits = 0 then w.owed else tabPut 0 w.owed crClass (tabGet 0 w.owed crClass - 8 * credits)
    credits := if cls = 0 then w.credits else tabSet w.credits cls (tabGet 0 w.credits cls - 1)
    replay := w.replay ++ [f]
    line := w.line ++ [wireBytes f] }

/-- Flits of packets between two link flits (R354). -/
def flitsPerLink : Nat := 25

/-- A flit of a packet; one flit in every 26 is a link flit, with its stamps (R354, R368). -/
def Worgon.sendFlit (w : Worgon) (now : W64) (cls : Nat) (payload : List Byte) : Worgon :=
  (if w.sinceLink = flitsPerLink then w.sendOne 0 (linkPayload w now) else w).sendOne cls payload

/-- A link flit goes at once when a NAK, credits or the acknowledgements of 25 flits are due and the replay buffer has room (log
121). -/
def Worgon.answerLink (w : Worgon) (now : W64) : Worgon :=
  if (w.nakDue || w.returns.isSome || decide (flitsPerLink ≤ w.unacked)) && decide (w.replay.length < replayMax) then
    w.sendOne 0 (linkPayload w now)
  else w

def Worgon.sendPacket (w : Worgon) (now : W64) (cls : Nat) (bytes : List Byte) : Worgon :=
  (flitsOf bytes).foldl (fun w p => w.sendFlit now cls p) w

/-- A packet can go: credits of its class for all its flits, and room in the replay buffer (R356, R357). -/
def Worgon.maySend (w : Worgon) (cls : Nat) (bytes : List Byte) : Bool :=
  let n := (flitsOf bytes).length
  decide (n ≤ tabGet 0 w.credits cls) && decide (w.replay.length + n + (w.sinceLink + n) / flitsPerLink ≤ replayMax)

/-- Waiting packets go in the order of their class; a class whose first packet must wait holds back no other (R355,
R356). -/
def Worgon.pumpList (now : W64) : List (Nat × List Byte) → List Nat → Worgon → Worgon
  | [], _, w => w
  | (cls, b) :: r, blocked, w =>
    if blocked.contains cls || !w.maySend cls b then
      Worgon.pumpList now r (cls :: blocked) { w with waiting := w.waiting ++ [(cls, b)] }
    else Worgon.pumpList now r blocked (w.sendPacket now cls b)

def Worgon.pump (w : Worgon) (now : W64) : Worgon :=
  if w.up then Worgon.pumpList now w.waiting [] { w with waiting := [] } else w

/-- A packet handed to a port. -/
def transmit (s : State) (k cls : Nat) (bytes : List Byte) : State :=
  s.updWorgon k (fun w => ({ w with waiting := w.waiting ++ [(cls, bytes)] }).pump s.now)

/-- The device next below this one on the path to a device of the tree under it, that device itself where it is one (R351: at most 3
links). -/
def childToward (s : State) (dev : Nat) : Option Worker :=
  let find (d : Nat) : Option Worker := s.fab.workers.find? (fun w => w.dev == d)
  let up (w : Worker) : Option Worker := if w.parent = s.fab.devNumber then some w else find w.parent
  (((find dev).bind up).bind up).filter (fun w => w.parent == s.fab.devNumber)

/-- The port on the path to another device: the DOWN port to its branch of the tree, of a worker its active UP port to every other
(R355). -/
def portTo (s : State) (dev : Nat) : Option Nat :=
  if s.dev.role.val = 1 then (childToward s dev).map (·.parentPort)
  else if s.dev.role.val = 2 then ((childToward s dev).map (·.parentPort)) <|> s.fab.activeUp
  else none

/-- A packet sent to another device. -/
def sendTo (s : State) (dev cls : Nat) (bytes : List Byte) : State :=
  match portTo s dev with
  | some k => transmit s k cls bytes
  | none => s

def classCtrl : Nat := 1
def classData : Nat := 2
def classAcc : Nat := 3
def classAns : Nat := 4
def classCmp : Nat := 5

/-! Lanes (R358). -/

/-- The lanes that work: neither given up nor retraining. -/
def Worgon.healthy (w : Worgon) : List Nat := (List.range 9).filter (fun l => !w.bad.contains l && w.retraining != some l)

/-- The lanes that carry traffic. -/
def Worgon.active (w : Worgon) : List Nat :=
  if w.width = 8 then w.healthy.filter (fun l => some l != w.spare) else w.healthy.take 4

/-- The second UP port that can take the link over. -/
def secondUp (s : State) (k : Nat) : Option Nat :=
  (List.range 12).find? (fun j => j != k && (s.worgon j).role == 1 && (s.worgon j).up)

/-- The link's own state, which moves with it to the other UP port. -/
def Worgon.carry (target from_ : Worgon) : Worgon :=
  { target with nextRx := from_.nextRx, nextTx := from_.nextTx, naks := 0, nakDue := from_.nakDue, credits := from_.credits
                replay := from_.replay, waiting := from_.waiting, owed := from_.owed, unacked := from_.unacked
                sinceLink := from_.sinceLink, stamp := from_.stamp }

/-- Every unacknowledged flit goes out on the port again, in order (R357, R358). -/
def Worgon.resend (w : Worgon) : Worgon := { w with line := w.line ++ w.replay.map wireBytes }

/-- The link moves from one port to another: every unacknowledged flit is resent there in order (R358). -/
def shiftLink (s : State) (k j : Nat) : State :=
  let old := s.worgon k
  let s := s.updWorgon j (fun w => (w.carry old).resend)
  let s := s.updWorgon k (fun w => { w with replay := [], waiting := [] })
  noteRepair (countResent s old.replay.length) 9 j 0

/-- The worker that a DOWN port leads to and the parent's port that stands by for it. -/
def standby (s : State) (k : Nat) : Option (Worker × Nat) :=
  (s.fab.workers.find? (fun w => w.parent == s.fab.devNumber && w.parentPort == k)).bind (fun w =>
    (w.second.filter (fun j => (s.worgon j).up)).map (fun j => (w, j)))

/-- A port no longer carries traffic: a worker's link moves to its second UP port, and at the parent to the port there (R358). -/
def moveLink (s : State) (k : Nat) : State :=
  if s.dev.role.val = 2 && s.fab.activeUp = some k then
    match secondUp s k with
    | none => s
    | some j => shiftLink (s.updFab (fun f => { f with activeUp := some j })) k j
  else match standby s k with
    | none => s
    | some (w, j) =>
      let swap (x : Worker) : Worker := { x with parentPort := j, second := some k }
      shiftLink (s.updFab (fun f => { f with workers := updWhere (fun x => x.dev == w.dev) swap f.workers })) k j

/-- A port with fewer than 4 healthy lanes is lost. -/
def losePort (s : State) (k : Nat) : State :=
  moveLink (noteFault (s.updWorgon k (fun w => { w with lost := true, trained := false })) 0x0C k) k

/-- A lane in use fails: the spare takes its place and it retrains alone; with the spare in use, the port drops to its
4 lowest healthy lanes or is lost. -/
def loseWorgonLane (s : State) (k l : Nat) : State :=
  let w := s.worgon k
  let s := noteFault s 0x0B k
  if w.spare.isSome && w.width == 8 then
    noteRepair (updLife (s.updWorgon k (fun w => { w with spare := none, retraining := some l }))
      (fun x => { x with linkLanes := lifeInc x.linkLanes })) 7 k 0
  else
    let s := s.updWorgon k (fun w => { w with bad := w.bad ++ [l], width := 4 })
    if (s.worgon k).healthy.length < 4 then losePort s k else noteRepair s 8 k 0

/-- LINK_LANE_FAIL. A spare that fails while it stands by retrains too. -/
def execLinkLaneFail (k : Fin 12) (lane : Nat) (s : State) : Result :=
  let w := s.worgon k.val
  if 9 ≤ lane then .fault .noSuchUnit
  else .next (
    if !w.up then s
    else if w.active.contains lane then loseWorgonLane s k.val lane
    else if w.spare = some lane then s.updWorgon k.val (fun w => { w with spare := none, retraining := some lane })
    else if w.retraining = some lane || w.bad.contains lane then s
    else s.updWorgon k.val (fun w => { w with bad := w.bad ++ [lane] }))

/-- LANE_RETRAIN_DONE: a lane that passes becomes the spare. -/
def execLaneRetrainDone (k : Fin 12) (pass : Bool) (s : State) : Result :=
  .next (match (s.worgon k.val).retraining with
    | none => s
    | some l => s.updWorgon k.val (fun w =>
        if pass then { w with retraining := none, spare := some l } else { w with retraining := none, bad := w.bad ++ [l] }))

/-! Training. -/

/-- The credits granted at training: ANS at least 64 flits (R356). -/
def grantedCredits : Tab Nat :=
  [(1, Config.initialCredits 1), (2, Config.initialCredits 2), (3, Config.initialCredits 3),
   (4, max 64 (Config.initialCredits 4)), (5, Config.initialCredits 5)]

/-- A hub of a worker that has no image asks the parent for it (R350, R440; log 93). -/
def askImage (s : State) (k : Nat) : State :=
  if s.dev.role.val = 2 && (s.h0.phase == .obtain || s.h1.phase == .obtain) then transmit s k classCtrl (leBytes 2 0x0100) else s

/-- WORGON_PORT_TRAINED: a port whose role is not UNUSED carries flits; a retrain keeps what is unacknowledged. A worker uses
one UP port at a time. -/
def execWorgonPortTrained (k : Fin 12) (s : State) : Result :=
  .next (
    if (s.worgon k.val).role = 0 || (s.worgon k.val).up || !(s.hub (worgonHub k.val)).counting then s
    else
      let now := s.now
      let s := s.updWorgon k.val (fun w =>
        ({ w with trained := true, lost := false, retrain := false, naks := 0, lastValid := now
                  credits := if w.credits.isEmpty then grantedCredits else w.credits }).pump now)
      if (s.worgon k.val).role = 1 && (s.fab.activeUp.isNone || !(s.fab.activeUp.any (fun j => (s.worgon j).up))) then
        match s.fab.activeUp with
        | none => askImage (s.updFab (fun f => { f with activeUp := some k.val })) k.val
        | some j => moveLink s j
      else s)

/-! Receiving (R354, R356, R357). -/

/-- Flits up to ACKSEQ leave the replay buffer. -/
def Worgon.acked (w : Worgon) (ackseq : Nat) : Worgon :=
  match w.replay with
  | [] => w
  | f :: _ =>
    let n := (ackseq + 1 + seqMod - f.fseq) % seqMod
    if n ≤ w.replay.length then { w with replay := w.replay.drop n } else w

/-- What the header of a flit whose CRC holds tells the sender side: what has been taken. -/
def Worgon.heard (w : Worgon) (f : Flit) (now : W64) : Worgon := { w.acked f.ackseq with lastValid := now }

/-- A flit in order is delivered, the credits it returns count once; a link flit carries no packet but the stamps of its sender (R354, R356,
R368). -/
def Worgon.took (w : Worgon) (now : W64) (f : Flit) : Worgon :=
  { w with nextRx := (w.nextRx + 1) % seqMod, naks := 0
           credits := if f.credits = 0 then w.credits else tabSet w.credits f.crClass (tabGet 0 w.credits f.crClass + 8 * f.credits)
           unacked := if f.cls = 0 then w.unacked else w.unacked + 1
           owed := if f.cls = 0 then w.owed else tabSet w.owed f.cls (tabGet 0 w.owed f.cls + 1)
           stamp := if f.cls = 0 then (BitVec.ofNat 64 (leAt f.payload 0 8), now) else w.stamp
           delivered := if f.cls = 0 then w.delivered else w.delivered ++ [(f.cls, f.payload)] }

/-- The link retrains: its lanes are checked. -/
def Worgon.retrained (w : Worgon) : Worgon := { w with trained := false, retrain := true }

/-- A flit whose CRC fails is dropped and NAKed; the sixteenth NAK in succession starts a check of the lanes. -/
def dropFlit (s : State) (k : Nat) : State :=
  (setErr s 1).updWorgon k (fun w =>
    let w := { w with nakDue := true, naks := w.naks + 1 }
    if 16 ≤ w.naks then w.retrained else w.answerLink s.now)

end Sys2Proof.Machine
end

