-- ==== Sys2Proof/Machine/Far.lean ====
section
/-! DEFINITION. The far tier: the address map and layouts (R294, R295, R309), what a row can supply (R306 to R308, R517),
block tags (R297, R298), parity by delta (R302), data loss (R306, R388), watches re-tested by writes (R300, R301). -/

namespace Sys2Proof.Machine

open Sys2Proof

def blockBytes : Nat := 4096
/-- Bytes of the far tier (R294). -/
def farBytes : Nat := 0x9000000000
/-- Where the hub tables start (R294). -/
def hubTablesBase : Nat := 0x8F00000000
/-- Data blocks of one group (R295). -/
def groupBlocks : Nat := 75497472

/-- The blocks a range of bytes touches. -/
def blocksOf (addr len : Nat) : List Nat :=
  if len = 0 then []
  else (List.range ((addr + len - 1) / blockBytes - addr / blockBytes + 1)).map (fun i => addr / blockBytes + i)

def FarTier.group (f : FarTier) (g : Nat) : FarGroup := if g = 0 then f.g0 else f.g1
def FarTier.setGroup (f : FarTier) (g : Nat) (v : FarGroup) : FarTier :=
  if g = 0 then { f with g0 := v } else { f with g1 := v }

/-- Where a block of a group lies: layout (false R295, true R309), row, its stack and the parity's stack, both as
positions 0 to 7 in the group. -/
structure Place where
  reformed : Bool
  row : Nat
  stack : Nat
  parity : Nat
deriving DecidableEq, Repr

/-- R295. -/
def oldPlace (c : Nat) : Place :=
  let r := c / 7
  let k := c % 7
  let p := r % 8
  { reformed := false, row := r, stack := if k < p then k else k + 1, parity := p }

/-- The seven stacks that survive the first loss, in ascending number (R309). -/
def FarGroup.survivors (g : FarGroup) : List Nat := (List.range 8).filter (fun i => some i != g.lost.head?)

/-- R309. -/
def newPlace (g : FarGroup) (c : Nat) : Place :=
  let r := c / 6
  let k := c % 6
  let p := r % 7
  { reformed := true, row := r, stack := g.survivors.getD (if k < p then k else k + 1) 0, parity := g.survivors.getD p 0 }

/-- Blocks below the watermark lie in re-formed rows (R310). -/
def FarGroup.place (g : FarGroup) (c : Nat) : Place := if c < g.watermark then newPlace g c else oldPlace c

/-- The other data blocks that a block's row covers now (R295, R309, R310). -/
def FarGroup.mates (g : FarGroup) (c : Nat) : List Nat :=
  if c < g.watermark then
    ((List.range 6).map (fun i => 6 * (c / 6) + i)).filter (fun x => x != c && decide (x < g.watermark))
  else
    ((List.range 7).map (fun i => 7 * (c / 7) + i)).filter
      (fun x => x != c && decide (g.watermark ≤ x) && decide (x < groupBlocks))

def FarGroup.onLost (g : FarGroup) (c : Nat) : Bool := g.lost.contains (g.place c).stack

/-- The row's parity is kept: its stack is not lost and the row has not lost two stacks (R308, R517). -/
def FarGroup.parityKept (g : FarGroup) (c : Nat) : Bool :=
  !g.lost.contains (g.place c).parity && !(decide (g.watermark ≤ c) && decide (2 ≤ g.lost.length))

/-- The row can supply the block as far as lost stacks go: its parity and every other block of it are there (R306). -/
def FarGroup.canSupply (g : FarGroup) (c : Nat) : Bool :=
  g.parityKept c && (g.mates c).all (fun x => !g.onLost x)

/-- The cells of the parity memory that hold a row's parity: by group, layout, row. -/
def parityAddr (grp : Nat) (p : Place) : Nat := ((grp * 2 + (if p.reformed then 1 else 0)) * 2 ^ 24 + p.row) * blockBytes

def FarTier.tag (f : FarTier) (b : Nat) : BlockTag := tabGet {} f.tags b
def FarTier.setTag (f : FarTier) (b : Nat) (t : BlockTag) : FarTier := { f with tags := tabPut {} f.tags b t }

def FarTier.stored (f : FarTier) (b : Nat) : List Byte := memReadN f.mem (b * blockBytes) blockBytes

/-- The tag of a parity block. -/
def FarTier.parityTag (f : FarTier) (addr : Nat) : BlockTag := tabGet {} f.parityTags (addr / blockBytes)

/-- XOR bytes into a row's parity, whose check is written with it (R292, R302); a parity block that cannot be read stays so. -/
def FarTier.addParity (f : FarTier) (addr : Nat) (delta : List Byte) : FarTier :=
  let data := xorBytes (memReadN f.parity addr delta.length) delta
  { f with parity := memWriteN f.parity addr data
           parityTags := tabPut {} f.parityTags (addr / blockBytes)
             { st := if (f.parityTag addr).st = .stale then .stale else .checked, check := crc32c data } }

/-- The row can supply the block: no other block of it is lost or unreadable (R306, R308). -/
def FarTier.canSupply (f : FarTier) (b : Nat) : Bool :=
  let g := f.group (b % 2)
  g.canSupply (b / 2) && (f.parityTag (parityAddr (b % 2) (g.place (b / 2)))).st != .stale &&
    (g.mates (b / 2)).all (fun x => !f.unreadable.contains (2 * x + b % 2))

/-- The tier with every delta on its way accepted; their order does not matter (R303). -/
def FarTier.settled (f : FarTier) : FarTier := f.deltas.foldl (fun f d => f.addParity d.addr d.data) { f with deltas := [] }

/-- The XOR of the other blocks of a block's row, parity included (R306, R307). -/
def FarTier.rebuilt (f : FarTier) (b : Nat) : List Byte :=
  let g := f.group (b % 2)
  let c := b / 2
  (g.mates c).foldl (fun acc x => xorBytes acc (f.stored (2 * x + b % 2)))
    (memReadN f.settled.parity (parityAddr (b % 2) (g.place c)) blockBytes)

/-- The block's bytes as the tier can give them, none when it lies on a lost stack and its row cannot supply it. -/
def FarTier.bytes (f : FarTier) (b : Nat) : Option (List Byte) :=
  let g := f.group (b % 2)
  if !g.onLost (b / 2) then some (f.stored b)
  else if f.canSupply b then some (f.rebuilt b)
  else none

/-- A block read as its consumer gets it: data and whether its check passes; a STALE block on a lost stack reads as zeros
(R297, R306). -/
def FarTier.readBlock (f : FarTier) (b : Nat) : List Byte × Bool :=
  match (f.tag b).st, f.bytes b with
  | .never, _ => (zeros blockBytes, false)
  | _, none => (zeros blockBytes, false)
  | .checked, some d => (d, crc32c d == (f.tag b).check)
  | .opened, some d => (d, true)
  | .stale, some d => (if (f.group (b % 2)).onLost (b / 2) then zeros blockBytes else d, false)

/-- The owner a data-loss event names: a job, or 0xFFFF for the key library and the hub tables; none for memory
granted to no one, whose loss posts nothing (R306). -/
def lossOwner (s : State) (addr : Nat) : Option Nat :=
  if hubTablesBase ≤ addr && addr < farBytes then some libraryOwner else ownerOf s addr

/-- A DATA_LOSS event, naming an address and a job, with its counters and its log entry (R388, R430, R511). -/
def postLoss (s : State) (job addr : Nat) : State :=
  let s := s.updDev (fun d => { d with dataLoss := satInc d.dataLoss })
  let s := updJob s job (fun j => { j with dataLoss := satInc j.dataLoss })
  let s := updLife s (fun l => { l with blocksLost := lifeInc l.blocksLost })
  let s := append (setErr s 3) 8 (leBytes 8 addr ++ leBytes 2 job)
  postBoth s { code := 0x000B, job := job, arg1 := addr }

/-- The loss of a far block (R306). -/
def loseBlock (s : State) (b : Nat) : State :=
  let s := s.updFar (fun f => f.setTag b { st := .stale })
  match lossOwner s (b * blockBytes) with
  | some o => postLoss s o (b * blockBytes)
  | none => s

/-- What a partial write merges with: zeros for a NEVER block, else the bytes as stored (R298). -/
def mergeBase (f : FarTier) (b : Nat) : List Byte :=
  if (f.tag b).st = .never then zeros blockBytes else (f.bytes b).getD (zeros blockBytes)

/-- The 64-bit word at an address as its controller holds it. -/
def farWord (f : FarTier) (addr : Nat) : W64 :=
  BitVec.ofNat 64 (leAt (mergeBase f (addr / blockBytes)) (addr % blockBytes) 8)

/-- A word has reached a threshold and the write that brought it there is accepted: no delta of its block is on its way (R300,
R302). -/
def FarTier.reached (f : FarTier) (addr : Nat) (t : W64) : Bool :=
  decide (t.toNat ≤ (farWord f addr).toNat) && !f.deltas.any (fun d => d.block == addr / blockBytes)

/-- A watch is re-tested at every write to its word, once the write is accepted (R301, R302). -/
def retest (f : FarTier) (lo hi : Nat) : FarTier :=
  { f with watches := f.watches.map (fun w =>
      if decide (w.addr + 8 > lo) && decide (w.addr < hi) then { w with due := w.due || f.reached w.addr w.threshold } else w) }

/-- Put a whole block in place with its tag and its parity, where it can be kept true; else the bytes are discarded,
the block is STALE and its loss is posted (R302, R308). -/
def putBlock (s : State) (b : Nat) (data : List Byte) (tag : BlockTag) : State :=
  let g := s.far.group (b % 2)
  match s.far.bytes b with
  | none => loseBlock s b
  | some old =>
    s.updFar (fun f =>
      let f := if g.onLost (b / 2) then f
        else { f with mem := memWriteN f.mem (b * blockBytes) data, unreadable := f.unreadable.filter (· != b) }
      let f := if g.parityKept (b / 2) then f.addParity (parityAddr (b % 2) (g.place (b / 2))) (xorBytes old data) else f
      retest (f.setTag b tag) (b * blockBytes) (b * blockBytes + blockBytes))

/-- A device write of part or all of one block: the result is CHECKED (R298). -/
def deviceWriteBlock (s : State) (b off : Nat) (bs : List Byte) : State :=
  let data := (splice (mergeBase s.far b) off bs).take blockBytes
  putBlock s b data { st := .checked, check := crc32c data }

/-! Requests to stacks (R312, R463, R468). -/

def State.stack (s : State) (k : Nat) : StackState := tabGet {} s.far.ctrls k
def State.updStack (s : State) (k : Nat) (f : StackState → StackState) : State :=
  s.updFar (fun t => { t with ctrls := tabPut {} t.ctrls k (f (s.stack k)) })

/-- Traffic at a die's memory island, its far-tier controllers among it, keeps the die's network clock running (R463). -/
def dieTraffic (s : State) (d : Nat) : State := s.updDie d (fun x => { x with netGated := false, netIdleSince := s.now })

/-- A request wakes a stack, and for a far stack the network clock of its die (R312, R463). -/
def touchStack (s : State) (k : Nat) : State :=
  let t := s.updStack k (fun x => { x with selfRefresh := false, lastRequest := s.now })
  if k < 16 then dieTraffic t (k / 2) else t

/-- The stacks an access of a far block reaches: the block's, and for a write the parity's; where the block's is lost, the stacks
left of its group (R302, R307, R308). -/
def reachedStacks (f : FarTier) (write : Bool) (b : Nat) : List Nat :=
  let g := f.group (b % 2)
  let p := g.place (b / 2)
  let here : List Nat := if g.lost.contains p.stack then (List.range 8).filter (fun i => !g.lost.contains i)
    else p.stack :: (if write && g.parityKept (b / 2) then [p.parity] else [])
  here.map (fun i => 8 * (b % 2) + i)

/-- A read or a write of far blocks wakes the stacks it reaches. -/
def touchBlocks (s : State) (write : Bool) (bs : List Nat) : State :=
  ((bs.flatMap (reachedStacks s.far write)).eraseDups).foldl touchStack s

/-- A read of far bytes. -/
def touchRead (s : State) (addr len : Nat) : State := touchBlocks s false (blocksOf addr len)

/-- A request to one word. -/
def touchFar (s : State) (addr : Nat) : State := touchBlocks s false [addr / blockBytes]

/-! Unordered accesses (R219 cases 2, 8 and 10, R280). -/

/-- Two ranges of bytes meet. -/
def rangesMeet (a b : Nat × Nat) : Bool := decide (a.1 < b.1 + b.2) && decide (b.1 < a.1 + a.2)

/-- A running command accesses bytes of a write from elsewhere: reads them, or writes them otherwise than as an exact accumulate
of the same kind. -/
def Cmd.touches (c : Cmd) (w : Nat × Nat × Nat) : Bool :=
  c.phase == .running && (c.reads.any (fun x => rangesMeet x (w.1, w.2.1)) ||
    c.writes.any (fun x => rangesMeet (x.1, x.2.1) (w.1, w.2.1) && (x.2.2 == 0 || x.2.2 != w.2.2)))

/-- The running commands that a write from elsewhere meets are left undefined. -/
def raceWith (s : State) (w : Nat × Nat × Nat) : State :=
  if s.tab.queues.any (fun q => q.cmds.any (·.touches w)) then
    s.updTab (fun t => { t with queues := t.queues.map (fun q =>
      { q with cmds := updWhere (·.touches w) (fun c => { c with raced := true }) q.cmds }) })
  else s

/-- The commands that a condition names are left undefined. -/
def raceWhere (s : State) (p : Cmd → Bool) : State :=
  s.updTab (fun t => { t with queues := t.queues.map (fun q => { q with cmds := updWhere p (fun c => { c with raced := true }) q.cmds }) })

/-- A read from elsewhere: the running commands that write its bytes. -/
def raceRead (s : State) (w : Nat × Nat) : State :=
  raceWhere s (fun c => c.phase == .running && c.writes.any (fun x => rangesMeet (x.1, x.2.1) w))

/-- A memory-side operation that writes a word: the running commands that access it otherwise than as the work counter it adds to. -/
def raceWord (s : State) (a : Nat) (adds : Bool) : State :=
  raceWhere s (fun c => c.touches (a, 8, 0) && !(adds && c.writes.contains (a, 8, 0)))

/-- A host write of part or all of one block: the result is OPEN (R297, R298, R318). -/
def hostWriteBlock (s : State) (b off : Nat) (bs : List Byte) : State :=
  putBlock (raceWith s (b * blockBytes + off, bs.length, 0)) b ((splice (mergeBase s.far b) off bs).take blockBytes) { st := .opened }

/-- A range of bytes cut at block boundaries: block, offset in the block, the bytes. -/
def blockPieces : Nat → Nat → List Byte → List (Nat × Nat × List Byte)
  | 0, _, _ => []
  | n + 1, a, bs =>
    if bs.isEmpty then []
    else
      let room := blockBytes - a % blockBytes
      (a / blockBytes, a % blockBytes, bs.take room) :: blockPieces n (a + room) (bs.drop room)

def piecesOf (a : Nat) (bs : List Byte) : List (Nat × Nat × List Byte) := blockPieces (bs.length / blockBytes + 2) a bs

/-- A device write of far bytes: each stack it reaches woken, each block written (R298, R302, R312). -/
def deviceWrite (s : State) (addr : Nat) (bs : List Byte) : State :=
  (piecesOf addr bs).foldl (fun s p => deviceWriteBlock s p.1 p.2.1 p.2.2) (touchBlocks s true (blocksOf addr bs.length))

/-- A host's write of far bytes (R298, R312, R318). -/
def farHostWrite (s : State) (addr : Nat) (bs : List Byte) : State :=
  (piecesOf addr bs).foldl (fun s p => hostWriteBlock s p.1 p.2.1 p.2.2) (touchBlocks s true (blocksOf addr bs.length))

/-- Bytes of a range as their consumer gets them, and the blocks whose check fails. -/
def farRead (f : FarTier) (addr len : Nat) : List Byte × List Nat :=
  let bs := (blocksOf addr len).map (fun b => (b, f.readBlock b))
  (((bs.flatMap (fun x => x.2.1)).drop (addr % blockBytes)).take len, (bs.filter (fun x => !x.2.2)).map (·.1))

/-- The stack that controls an address: the data stack of R295 before the group is re-formed, of R309 after (R296). -/
def controllerOf (f : FarTier) (addr : Nat) : Nat :=
  let b := addr / blockBytes
  8 * (b % 2) + ((f.group (b % 2)).place (b / 2)).stack

/-- The stack that holds a block's data now. -/
def stackOfBlock (f : FarTier) (b : Nat) : Nat := controllerOf f (b * blockBytes)

/-! Repair of a block that fails its check under a consumer (R306, R387, R388). -/

/-- The row gives a block back: rewritten with its parity under its tag (R306, R387). -/
def restoreBlock (s : State) (b : Nat) (data : List Byte) : State := putBlock s b data (s.far.tag b)

/-- The row's other blocks can supply a block and its reconstruction matches the check it has. -/
def supplied (s : State) (b : Nat) : Option (List Byte) :=
  if s.far.canSupply b then
    (let d := s.far.rebuilt b
     if (s.far.tag b).st = .checked ∧ crc32c d ≠ (s.far.tag b).check then none else some d)
  else none

/-- A CHECKED block that still fails after its re-reads: rewritten from its row, else STALE with its loss posted. -/
def repairFar (s : State) (b : Nat) : State :=
  if (s.far.tag b).st != .checked || (s.far.readBlock b).2 then s
  else
    let s := noteFault s 3 (stackOfBlock s.far b) 0xFFFF (b * blockBytes)
    match supplied s b with
    | some d => restoreBlock s b d
    | none => loseBlock s b

/-- A grant writes NEVER into the tags of an extent's blocks (R299). -/
def clearTags (f : FarTier) (ext : Nat) : FarTier :=
  { f with tags := f.tags.filter (fun t => t.1 * blockBytes / extentBytes != ext) }

end Sys2Proof.Machine
end

