-- ==== Sys2Proof/Machine/Mailbox.lean ====
section
/-! DEFINITION. Mailbox commands (R320 to R323, R441, R447): the ring, the order of the lead, the checks, the response. -/

namespace Sys2Proof.Machine

open Sys2Proof

/-! Status codes (table Status codes, R326). -/

def stOk : Nat := 0x0000
def stBadCmd : Nat := 0x0001
def stBadState : Nat := 0x0002
def stBadField : Nat := 0x0003
def stZeroSize : Nat := 0x0004
def stNotPermitted : Nat := 0x0005
def stNotFound : Nat := 0x0006
def stInUse : Nat := 0x0007
def stTagInUse : Nat := 0x0008
def stInvalidImage : Nat := 0x0009
def stDigest : Nat := 0x000A
def stStrainer : Nat := 0x000B
def stNoRoom : Nat := 0x000C
def stRjobInUse : Nat := 0x000D
def stChainChanged : Nat := 0x000E
def stHostAccess : Nat := 0x000F
def stOutsideGrant : Nat := 0x0010
def stBinding : Nat := 0x0011
def stEventTimeout : Nat := 0x0012
def stAborted : Nat := 0x0013
def stCancelled : Nat := 0x0014
def stBadEntry : Nat := 0x0015

/-- The boot ROM of a hub runs: steps 1 to 4 of R440. -/
def HubState.inRom (h : HubState) : Bool := h.phase == .obtain || h.phase == .verify

/-- The device state as a port shows it: BOOTING while its hub boots, CONFIG_WAIT where its hub stopped (R440, R495). -/
def portDstate (s : State) (p : Port) : Nat :=
  match (s.hub p.hub).phase with
  | .porHeld | .railHold | .hrstHeld | .obtain | .verify | .locked => 1
  | .configWait => 0
  | .joined | .out => s.dev.dstate

/-- Memory islands and far stacks left for service: three islands of each group, and six far stacks of each (R408). -/
def memoryLeft (s : State) : Bool :=
  [0, 4].all (fun lo => decide (3 ≤ ((List.range 4).filter (fun i => !(s.die (lo + i)).islandLost)).length)) &&
    decide (s.far.g0.lost.length ≤ 2) && decide (s.far.g1.lost.length ≤ 2)

/-- The logical cores of an octet (R221). -/
def octetCores (o : Nat) : List Nat := (List.range 8).map (fun i => 8 * o + i)

/-- The smallest serving set (R408): the memory above, a core region that holds an octet in service, a worker's UP port. Its hub is
the lead; a host port is in service with its hub, its link may be down (R346, log 133). -/
def servingSet (s : State) : Bool :=
  memoryLeft s && (List.range 64).any (fun o => !(s.die (o / 8)).lost && (octetCores o).all (coreInService s)) &&
    !(onFabric s && s.fab.worgon.any (·.2.role == 1) && s.fab.worgon.all (fun w => w.2.role != 1 || w.2.lost))

/-- A hub out of service or in MISMATCH serves no mailbox (R423, R506); nor does a device below the smallest serving set, but that
one with no core region takes the DIE_UP that brings one back (R408, R417, log 133). -/
def servesMailboxes (s : State) (p : Port) : Bool :=
  let h := s.hub p.hub
  h.phase != .porHeld && h.phase != .railHold && h.phase != .hrstHeld && h.phase != .out && h.svc != .mismatch && !h.halted &&
    !(s.dev.ready && !memoryLeft s)

/-- The takeover from a hub that is lost has not run: doorbells are latched and commands wait (R420, R512). -/
def takeoverDue (s : State) : Bool :=
  s.dev.slices.any (fun k => match k.kind with
    | .takeover _ => true
    | _ => false)

/-- A hub leads and takes part in queues: no unplanned takeover from it is due, whose Isolation cuts it off (R420). -/
def leads (s : State) : Bool := s.dev.lead.isSome && !takeoverDue s

/-- What R322 checks of one command: its code, whether it is a service command, the device states it runs in, its body
length (none: not fixed), its reserved bits as (offset, first bit, bits), what of step 4 depends on its fields (a length they give,
reserved bits of entries) as the offset of the first that fails, its sizing fields as (offset, bytes), and the range of its fields
likewise. -/
structure CmdSpec where
  code : Nat
  service : Bool := false
  states : List Nat := [2, 3]
  len : Option Nat := some 0
  reserved : List (Nat × Nat × Nat) := []
  fits : List Byte → Option Nat := fun _ => none
  sizes : List (Nat × Nat) := []
  range : List Byte → Option Nat := fun _ => none

/-- A request's body: BODY_LEN bytes of the page. -/
def bodyOf (rq : MbxReq) : List Byte := padTo rq.bodyLen rq.body

/-- The bits of a body from bit `lo` of byte `off`. -/
def bodyBits (b : List Byte) (off lo len : Nat) : Nat := field (leAt b off ((lo + len + 7) / 8)) lo len

/-- A set bit among the reserved ones: the offset of its field (R9, R322 step 4). -/
def reservedAt (b : List Byte) (rs : List (Nat × Nat × Nat)) : Option Nat :=
  (rs.find? (fun r => bodyBits b r.1 r.2.1 r.2.2 != 0)).map (fun r => r.1 + r.2.1 / 8)

/-- SVC_PORT of the port's hub names the port; while LK_SVC is 0, PROT_SET is not checked (R443, R445). -/
def namesPort (s : State) (p : Port) (code : Nat) : Bool :=
  let h := s.hub p.hub
  bit h.protCtrl.toNat p.num || (code == 0x0103 && !bit h.protLock.toNat 0)

/-- A port that requires IDE and has no stream takes GET_INFO and SPDM only (R447). -/
def ideBlocks (s : State) (p : Port) : Bool := bit (s.hub p.hub).protCtrl.toNat (5 + p.num) && !(s.port p).ide

/-- The PCIe features of a host port that are no state of its link (R313): one physical function and its class code, MSI-X vectors, the
largest payload and read request, tag bits, AER, DOE mailboxes, link IDE streams. -/
structure PcieFeatures where
  functions : Nat
  classCode : BitVec 24
  vectors : Nat
  maxPayload : Nat
  maxRead : Nat
  tagBits : Nat
  aer : Bool
  doeMailboxes : Nat
  linkIdeStreams : Nat
deriving DecidableEq, Repr, Inhabited

def pcieFeatures : PcieFeatures :=
  { functions := 1, classCode := 0x120000, vectors := 16, maxPayload := 512, maxRead := 4096, tagBits := 10, aer := true
    doeMailboxes := 1, linkIdeStreams := 1 }

/-- A link trains to Gen1 to Gen6 and to 1, 2, 4 or 8 lanes (R313). -/
def trainsTo (gen lanes : Nat) : Bool := decide (1 ≤ gen) && decide (gen ≤ 6) && [1, 2, 4, 8].contains lanes

/-- A write through a port reaches its registers: the link is up and the hub is not held in reset (R346, R505). -/
def portReachable (s : State) (p : Port) : Bool := (s.port p).linkUp

/-- The first region beyond the registers R505 lists takes writes: firmware runs on the hub and it is in service. -/
def registersLive (s : State) (p : Port) : Bool :=
  let h := s.hub p.hub
  portReachable s p && !h.inRom && h.phase != .out && h.svc != .out && h.svc != .mismatch && !ideBlocks s p

/-- The regions past the first and the mailbox pages respond: not in the boot ROM, nor in CONFIG_WAIT (R317, R441, R505). -/
def regionsLive (s : State) (p : Port) : Bool := registersLive s p && portDstate s p != 0

/-- The commands that a worker answers with BAD_CMD when they come embedded (R360). -/
def bannedEmbedded (code : Nat) : Bool :=
  [0x0002, 0x0003, 0x0004, 0x0050, 0x0046].contains code || (decide (0x80 ≤ code) && decide (code < 0xC0))

/-- A device strapped 0b11 answers four commands only (R349). -/
def roleRefuses (s : State) (code : Nat) : Bool :=
  s.dev.role.val == 3 && ! [0x0001, 0x0004, 0x00C8, 0x00C9].contains code

/-- A fabric command other than FAB_PAIR on a device that is no manager (R359). -/
def fabricRefused (s : State) (code : Nat) : Bool :=
  s.dev.role.val != 1 && decide (0x80 ≤ code) && decide (code < 0xC0) && code != 0x0087

/-- The port whose hub checks a command: its own, or of a command that comes over the fabric the lead's (R360). -/
def checkPort (s : State) (p : Port) : Port := if onFabric s then s.leadOr0.port else p

/-- The checks of R322, steps 2 to 6, in order: the status and DETAIL of the first failure. A length or reserved bit
outside the body has no body offset: its DETAIL is a free value (log 17). -/
def checkRequest (s : State) (spec : CmdSpec) (rq : MbxReq) : Option (Nat × Nat) :=
  let b := bodyOf rq
  let p := checkPort s rq.port
  let ds := portDstate s p
  if onFabric s && bannedEmbedded spec.code then some (stBadCmd, 0)
  else if roleRefuses s spec.code && ds == 0 then some (stBadState, ds)
  else if (s.hub p.hub).inRom && ! [0x0001, 0x0004, 0x0100, 0x00C8, 0x00C9].contains spec.code then some (stBadState, ds)
  else if !spec.states.contains ds || fabricRefused s spec.code then some (stBadState, ds)
  else if spec.service && !namesPort s p spec.code then some (stNotPermitted, 0)
  else if ideBlocks s p && spec.code != 0x0001 && spec.code != 0x0004 then some (stNotPermitted, 0)
  else if rq.resv || (spec.len.isSome && spec.len != some rq.bodyLen) || decide (4064 < rq.bodyLen) then
    some (stBadField, (Config.freeWord s.freeCtr).toNat % 2 ^ 16)
  else match reservedAt b spec.reserved with
    | some off => some (stBadField, off)
    | none =>
      match spec.fits b with
      | some off => some (stBadField, off)
      | none =>
        match spec.sizes.find? (fun z => leAt b z.1 z.2 == 0) with
        | some z => some (stZeroSize, z.1)
        | none => (spec.range b).map (fun off => (stBadField, off))

def getMailbox (s : State) (p : Port) (box : Nat) : Mailbox := tabGet {} (s.port p).mailboxes box

def setMailbox (s : State) (p : Port) (box : Nat) (m : Mailbox) : State :=
  s.updPort p (fun ps => { ps with mailboxes := tabPut {} ps.mailboxes box m })

/-- A response page: header and body (R320, R326). -/
def pageBytes (cmd token status detail : Nat) (body : List Byte) : List Byte :=
  leBytes 2 cmd ++ leBytes 2 body.length ++ leBytes 4 token ++ leBytes 2 status ++ leBytes 2 detail ++ zeros 20 ++ body

/-- The answer of a command that came over the fabric goes back to the manager on a class (R355, R360; log 93). -/
def sendBack (s : State) (cls : Nat) (bytes : List Byte) : State := if onFabric s then sendTo s 0 cls bytes else s

/-- The response is written whole, the mailbox is DONE, MBX_DONE posts to the ringing port when NOTIFY is 1 (R320,
R321). -/
def respondAs (s : State) (code : Nat) (rq : MbxReq) (status detail : Nat) (body : List Byte) : State :=
  let resp : Resp := { cmd := code, token := rq.token, status := status, detail := detail, body := body }
  let s := setMailbox s rq.port rq.box { st := .done, req := some (code, rq), resp := some resp }
  let s := sendBack s classCtrl (pageBytes code rq.token.toNat status detail body)
  if rq.notify then postTo s rq.port { code := 0x0001, arg0 := rq.box } else s

/-- The response to a mailbox that has stayed BUSY: its request is the one the mailbox holds. -/
def respondTo (s : State) (p : Port) (box status detail : Nat) (body : List Byte) : State :=
  match (getMailbox s p box).req with
  | some (code, rq) =>
    if (getMailbox s p box).st = .busy then respondAs s code rq status detail body else s
  | none => s

/-- What a command answers: a response now, or a mailbox that stays BUSY. -/
inductive Reply where
  | done (s : State) (status detail : Nat) (body : List Byte)
  | stay (s : State)

def Reply.ok (s : State) : Reply := .done s stOk 0 []
def Reply.okWith (s : State) (body : List Byte) : Reply := .done s stOk 0 body

/-- The request is in its mailbox: a FREE mailbox is rung with it and goes last in the order of the lead; a rung one
must hold it (R321, R323). The answer is none where the doorbell is ignored. -/
def ring (s : State) (code : Nat) (rq : MbxReq) : Option State :=
  let m := getMailbox s rq.port rq.box
  match m.st with
  | .free =>
    some ((setMailbox s rq.port rq.box { m with st := .rung, req := some (code, rq) }).updDev
        (fun d => { d with mbxOrder := d.mbxOrder ++ [(rq.port, rq.box)] }))
  | .rung => if m.req = some (code, rq) then some s else none
  | .busy | .done => none

/-- The lead takes the mailbox that was rung first (R323). -/
def take (s : State) (code : Nat) (rq : MbxReq) : Option State :=
  match s.dev.mbxOrder with
  | [] => none
  | m :: r =>
    if m = (rq.port, rq.box) then
      some (setMailbox (s.updDev (fun d => { d with mbxOrder := r })) rq.port rq.box
        { st := .busy, req := some (code, rq) })
    else none

/-- A mailbox command, from the host's ring to its response (R320 to R323): rung, taken in the lead's order, checked,
given its effect, answered. It has no effect where the port is down or the mailbox is not FREE, and it waits where
earlier commands are waiting or its hub serves no mailbox. -/
def mailbox (s : State) (spec : CmdSpec) (rq : MbxReq) (handler : State → List Byte → Reply) : Result :=
  if 64 ≤ rq.box then .fault .noSuchUnit
  else if !reaches s rq.port then .next s
  else match ring s spec.code rq with
    | none => .next s
    | some r =>
      if !servesMailboxes s (checkPort s rq.port) || takeoverDue s then .next r
      else match take r spec.code rq with
        | none => .next r
        | some t =>
          match checkRequest t spec rq with
          | some (st, d) => .next { respondAs t spec.code rq st d [] with freeCtr := t.freeCtr + 1 }
          | none =>
            match handler t (bodyOf rq) with
            | .done u st d body => .next (respondAs u spec.code rq st d body)
            | .stay u => .next u

/-- A failing handler changes nothing else (R322). -/
def Reply.fail (s : State) (status : Nat) (detail : Nat := 0) : Reply := .done s status detail []

/-- The host bytes of an image named by HOST_ADDR and LENGTH of a load command (R325). -/
def hostImage (s : State) (p : Port) (b : List Byte) : Option (List Byte) := hostRead s p (leAt b 0 8) (leAt b 8 6)

/-- The body of a load command: HOST_ADDR, LENGTH in 48 bits, 2 reserved bytes (table Firmware commands). -/
def loadSpec (code : Nat) : CmdSpec :=
  { code := code, len := some 16, reserved := [(0x0E, 0, 16)], sizes := [(0x08, 6)] }

end Sys2Proof.Machine
end

