-- ==== Sys2Proof/Machine/QueueOps.lean ====
section
/-! DEFINITION. The rings of a queue: doorbells (R331, R512), the fetch of entries (R332, R335), completion records
(R336, R337), queue states (R338). -/

namespace Sys2Proof.Machine

open Sys2Proof

def Queue.depth (q : Queue) : Nat := 2 ^ q.log2depth

/-- Distance forward in a ring. -/
def ringDist (d lo hi : Nat) : Nat := (hi + d - lo) % d

/-- The offset of the field that makes an entry bad, if any (R335): a reserved CMD, a non-zero reserved or unused field,
EARLY_FETCH without FENCE, a misaligned address; the first in offset order. -/
def badEntryField (b : List Byte) : Option Nat :=
  let cmd := leAt b 0 1
  let run := cmd == 1
  let flag := cmd == 2 || cmd == 3
  firstSome
    [ failIf (cmd == 0 || decide (5 ≤ cmd)) 0x00,
      failIf (field (leAt b 1 1) 4 4 != 0 || (bit (leAt b 1 1) 1 && !bit (leAt b 1 1) 0) ||
        (!run && bit (leAt b 1 1) 3)) 0x01,
      failIf (!run && leAt b 2 2 != 0) 0x02,
      failIf (field (leAt b 4 1) 3 5 != 0 || (!run && leAt b 4 1 != 0)) 0x04,
      failIf (leAt b 5 3 != 0) 0x05,
      failIf (leAt b 0x0C 4 != 0) 0x0C,
      failIf (if run then leAt b 0x10 8 % 64 != 0 else leAt b 0x10 8 != 0) 0x10,
      failIf (if run then leAt b 0x18 8 % 64 != 0 else leAt b 0x18 8 != 0) 0x18,
      failIf (if flag then leAt b 0x20 8 % 8 != 0 else leAt b 0x20 8 != 0) 0x20,
      failIf (!flag && leAt b 0x28 8 != 0) 0x28,
      failIf (leAt b 0x30 16 != 0) 0x30 ]

/-- An entry from its 64 bytes (R332). -/
def entryOf (b : List Byte) : QEntry :=
  { cmd := leAt b 0 1, fence := bit (leAt b 1 1) 0, early := bit (leAt b 1 1) 1, notify := bit (leAt b 1 1) 2,
    bound := bit (leAt b 1 1) 3, entry := leAt b 2 2, progSlot := field (leAt b 4 1) 0 3,
    userTag := BitVec.ofNat 32 (leAt b 8 4), boundAddr := leAt b 0x10 8, counterAddr := leAt b 0x18 8,
    flagAddr := leAt b 0x20 8, flagValue := BitVec.ofNat 64 (leAt b 0x28 8), bad := badEntryField b }

/-- Bytes that no rule fixes: free words (log 2). -/
def freeBytes (s : State) (n : Nat) : List Byte × State :=
  (((List.range ((n + 3) / 4)).flatMap (fun i => leBytes 4 (Config.freeWord (s.freeCtr + i)).toNat)).take n,
    { s with freeCtr := s.freeCtr + (n + 3) / 4 })

/-- The 64 bytes of an entry in host memory behind the home port or in far memory (R330). An entry the host does not
give is free bytes (log 2). -/
def readEntry (s : State) (q : Queue) (pos : Nat) : List Byte × State :=
  if q.farRings then ((farRead s.far (q.sqBase + 64 * pos) 64).1, touchRead s (q.sqBase + 64 * pos) 64)
  else match q.home with
    | .port p => match hostRead s p (q.sqBase + 64 * pos) 64 with
      | some b => (b, s)
      | none => freeBytes s 64
    | .fabric => freeBytes s 64

/-- A queue fetches nothing while its home port is down, after a rehome until its doorbell, once a cancel is accepted, or while the
lead is lost and its takeover has not run (R341, R346, R347, R420). -/
def mayFetch (s : State) (q : Queue) : Bool :=
  !takeoverDue s && !q.cancelling && q.st != .cancelled && !q.rehomed &&
    (match q.home with
     | .port p => (s.port p).linkUp
     | .fabric => true)

/-- Fetch n entries in ring order (R333). -/
def fetchN : Nat → State → Nat → State
  | 0, s, _ => s
  | n + 1, s, num =>
    match findQueue s num with
    | none => s
    | some q =>
      let (b, s) := readEntry s q q.sqFetch
      fetchN n (updQueue s num (fun q => { q with
        cmds := q.cmds ++ [{ sqIndex := q.sqFetch, entry := entryOf b }]
        sqFetch := (q.sqFetch + 1) % q.depth })) num

def fetchAll (s : State) (num : Nat) : State :=
  match findQueue s num with
  | some q => if mayFetch s q then fetchN (ringDist q.depth q.sqFetch q.sqTail) s num else s
  | none => s

/-- Entries pending: fetched and not dispatched, and not yet fetched (R331). -/
def Queue.pendingEntries (q : Queue) : Nat :=
  ringDist q.depth q.sqFetch q.sqTail + (q.cmds.filter (fun c => c.phase == .fetched)).length

/-- QUEUE_DOORBELL to the writing port (R331). -/
def doorbellRefused (s : State) (p : Port) (num : Nat) (value : W64) : State :=
  postTo s p { code := 0x0007, job := ((findQueue s num).map (·.job)).getD 0xFFFF, queue := num,
               arg0 := value.toNat % 2 ^ 32 }

/-- Why a doorbell write is ignored (R331): another port than the home port, an index at or above DEPTH, a tail that
leaves more than DEPTH - 1 entries pending, a head that passes the next record position. -/
def doorbellBad (q : Queue) (home : Home) (value : W64) : Bool :=
  let v := value.toNat
  let tail := field v 0 16
  let head := field v 16 16
  q.home != home ||
  (bit v 32 && (decide (q.depth ≤ tail) ||
    decide (q.depth - 1 < q.pendingEntries + ringDist q.depth q.sqTail tail))) ||
  (bit v 33 && (decide (q.depth ≤ head) ||
    decide (ringDist q.depth q.cqHead q.cqIndex < ringDist q.depth q.cqHead head)))

/-- The indices of an accepted doorbell (R331, R338). -/
def Queue.rung (q : Queue) (value : W64) : Queue :=
  let v := value.toNat
  let q := { q with rehomed := false }
  let q := if bit v 33 then { q with cqHead := field v 16 16,
                                     copies := q.copies.drop (ringDist q.depth q.cqHead (field v 16 16)) } else q
  if bit v 32 then
    { q with sqTail := field v 0 16
             st := if q.st == .idle && q.sqTail != field v 0 16 then .running else q.st }
  else q

/-- A doorbell applied to its queue (R331, R512). -/
def ringQueue (s : State) (home : Home) (port : Port) (num : Nat) (value : W64) : State :=
  match findQueue s num with
  | none => if bit value.toNat 32 || bit value.toNat 33 then doorbellRefused s port num value else s
  | some q =>
    if q.st == .cancelled || !(bit value.toNat 32 || bit value.toNat 33) then s
    else if doorbellBad q home value then doorbellRefused s port num value
    else fetchAll (updQueue s num (fun q => q.rung value)) num

/-- A host's 8-byte write to a queue doorbell: ignored in the boot ROM and in CONFIG_WAIT (R317, R441), latched during a takeover
(R512), ignored while its port requires IDE and has no stream (R447). -/
def doorbell (s : State) (p : Port) (num : Nat) (value : W64) : Result :=
  if 8192 ≤ num then .fault .noSuchUnit
  else if !regionsLive s p || !servesMailboxes s p then .next s
  else if takeoverDue s then .next (s.updDev (fun d => { d with latched := d.latched ++ [(p, num, value)] }))
  else .next (ringQueue s (.port p) p num value)

/-! Completion records. -/

/-- The 16 bytes of a record (R336). -/
def recordBytes (c : Cmd) (phase : Bool) : List Byte :=
  leBytes 4 c.entry.userTag.toNat ++ leBytes 2 c.sqIndex ++ leBytes 2 c.status ++ leBytes 4 c.serial.toNat ++
    leBytes 2 c.detail ++ leBytes 2 (if phase then 0x8000 else 0)

/-- Posted records the host has not consumed. -/
def Queue.unread (q : Queue) : Nat := ringDist q.depth q.cqHead q.cqIndex

/-- The completion ring can take a record now: at most DEPTH - 1 are unread, and the port of a ring in host memory is up
(R336, R346, log 18), and no takeover from a lost lead is due (R420). -/
def recordRoom (s : State) (q : Queue) : Bool :=
  !takeoverDue s && decide (q.unread < q.depth - 1) && !q.rehomed &&
    (q.farRings || (match q.home with
      | .port p => (s.port p).linkUp
      | .fabric => false))

/-- The queue's state once a record has posted or a command ended (R338). -/
def Queue.settle (q : Queue) : Queue :=
  if q.cmds.isEmpty && q.cancelling then { q with st := .cancelled, cancelling := false, sqFetch := q.sqTail }
  else if q.cmds.isEmpty && q.sqFetch == q.sqTail && q.st == .running then { q with st := .idle }
  else q

/-- The 16 bytes of a record at a position of the completion ring. -/
def putRecord (s : State) (q : Queue) (pos : Nat) (bytes : List Byte) : State :=
  if q.farRings then deviceWrite s (q.cqBase + 16 * pos) bytes
  else match q.home with
    | .port p => hostWrite s p (q.cqBase + 16 * pos) bytes
    | .fabric => s

/-- One record, written in one 16-byte write, then its MSI-X message (R336, R337). -/
def writeRecord (s : State) (q : Queue) (c : Cmd) : State :=
  let bytes := recordBytes c q.phase
  let s := putRecord s q q.cqIndex bytes
  let s := updQueue s q.num (fun q => { q with
    cqIndex := (q.cqIndex + 1) % q.depth
    phase := if q.cqIndex + 1 = q.depth then !q.phase else q.phase
    copies := q.copies ++ [(q.cqIndex, bytes)]
    cmds := q.cmds.drop 1 }.settle)
  if q.intr && c.entry.notify then
    match q.home with
    | .port p => s.updPort p (fun ps => ps.signal q.vector)
    | .fabric => s
  else s

/-- At a takeover the new lead writes every copied record whose position CQ_HEAD has not passed again, in identical bytes, where its
ring can be reached (R397). -/
def rewriteRecords (s : State) (q : Queue) : State :=
  if q.farRings || (match q.home with
      | .port p => (s.port p).linkUp
      | .fabric => false) then
    q.copies.foldl (fun s r => putRecord s q r.1 r.2) s
  else s

/-- The command at the front of a queue has completed, its comparison has ended (R373), and its record can post. -/
def owedRecord (s : State) (num : Nat) : Option (Queue × Cmd) :=
  match findQueue s num with
  | none => none
  | some q => match q.cmds with
    | c :: _ =>
      if c.phase == .completed && (c.compared || ((findJob s q.job).map (·.diverged)).getD true) && recordRoom s q then some (q, c)
      else none
    | [] => none

/-! Commands of a queue. -/

def updCmd (s : State) (num : Nat) (p : Cmd → Bool) (f : Cmd → Cmd) : State :=
  updQueue s num (fun q => { q with cmds := updWhere p f q.cmds })

def isSerial (serial : Nat) (c : Cmd) : Bool := c.serial.toNat == serial && c.phase != .fetched

def findCmd (s : State) (num serial : Nat) : Option Cmd :=
  (findQueue s num).bind (fun q => q.cmds.find? (isSerial serial))

/-- A command ends with a status (R333, R402). -/
def finish (s : State) (num serial status detail : Nat) : State :=
  updQueue (updCmd s num (isSerial serial) (fun c => { c with phase := .completed, status := status, detail := detail }))
    num Queue.settle

end Sys2Proof.Machine
end

