-- ==== Sys2Proof/Machine/Registers.lean ====
section
/-! DEFINITION. Register commands (R10, R316 to R318, R321, R331, R500 to R515): mailbox acknowledgements, doorbells, the
event ring head, the power cap, the far window and BAR2, GCOUNT reads, every other write of BAR0. -/

namespace Sys2Proof.Machine

open Sys2Proof

/-- Acknowledge: each DONE mailbox whose bit is 1 returns to FREE (R320, R321). -/
def ackBoxes (s : State) (p : Port) (bits : Nat) : State :=
  (List.range 64).foldl (fun s m =>
    if bit bits m && (getMailbox s p m).st == .done then setMailbox s p m {} else s) s

def execMbxAck (p : Port) (value : W64) (s : State) : Result :=
  .next (if portReachable s p then ackBoxes s p value.toNat else s)

def execSqTail (p : Port) (queue : Nat) (value : W64) (s : State) : Result := doorbell s p queue value
def execCqHead (p : Port) (queue : Nat) (value : W64) (s : State) : Result := doorbell s p queue value

/-- A write of HEAD: ignored with no ring set, at or above the ring's size, or past TAIL (R513); else room returns. -/
def evtHeadWrite (s : State) (p : Port) (value : Nat) : State :=
  let ps := s.port p
  let head := field value 0 16
  let d := 2 ^ ps.evtLog2
  if !ps.evtSet || decide (d ≤ head) || decide (ringDist d ps.evtHead ps.evtTail < ringDist d ps.evtHead head) then s
  else flushPort (s.updPort p (fun ps => { ps with evtHead := head })) p

def execEvtHead (p : Port) (value : W64) (s : State) : Result :=
  .next (if regionsLive s p then evtHeadWrite s p value.toNat else s)

/-- A write of CAP_W: above the configured value takes the configured value, below 600 takes 600 (R471). -/
def capWrite (s : State) (value : Nat) : State :=
  s.updPwr (fun w => { w with capW := max 600 (min (field value 0 16) w.cfgCap) })

def execPwrCap (p : Port) (value : W32) (s : State) : Result :=
  .next (if registersLive s p then capWrite s value.toNat else s)

def execFarWindow (p : Port) (value : W64) (s : State) : Result :=
  .next (if registersLive s p then
    s.updPort p (fun ps => { ps with farWindow := BitVec.ofNat 8 (field value.toNat 32 8) }) else s)

/-! BAR2 (R318, R446). -/

/-- The byte of the region table for an extent (R446): read from the table at REGION_BASE in far memory. -/
def regionByte (s : State) (h : Hub) (ext : Nat) : Nat :=
  let a := (s.hub h).protRegionBase.toNat + ext
  ((mergeBase s.far (a / blockBytes)).getD (a % blockBytes) 0).toNat

/-- With REGION_ENF 1 an access needs the permitting bit (R446). -/
def regionPermits (s : State) (p : Port) (addr : Nat) : Bool :=
  !bit (s.hub p.hub).protCtrl.toNat 4 || bit (regionByte s p.hub (extentOf addr)) p.num

/-- A BAR2 access reaches a far address: granted to a job or to the key library, below window 143, permitted. -/
def bar2Reaches (s : State) (p : Port) (addr : Nat) : Bool := (ownerOf s addr).isSome && regionPermits s p addr

def bar2Base (s : State) (p : Port) : Nat := (s.port p).farWindow.toNat * 2 ^ 32

def countMiss (s : State) (p : Port) : State := s.updPort p (fun ps => { ps with windowMiss := satInc ps.windowMiss })

/-- The bytes that a read of BAR2 reaches, held against the commands that run (R219 case 2). -/
def raceReads (s : State) (p : Port) (base length : Nat) : State :=
  (piecesOf base (zeros length)).foldl (fun t q =>
    if bar2Reaches s p (q.1 * blockBytes) then raceRead t (q.1 * blockBytes + q.2.1, q.2.2.length) else t) s

/-- A read returns the bytes it reaches, zeros elsewhere; an access that misses counts once (R318, R509). A request of more
than 4,096 bytes is not honoured (R313): it returns nothing and changes nothing (DEDUCED, log 154). -/
def execBar2Read (p : Port) (offset length : Nat) (s : State) : Result :=
  if 2 ^ 32 < offset + length then .fault .noSuchUnit
  else if pcieFeatures.maxRead < length then .next s
  else if !portReachable s p then .next s
  else if !regionsLive s p then .next (s.updPort p (fun ps => { ps with lastRead := zeros length }))
  else
    let base := bar2Base s p + offset
    let data := (piecesOf base (zeros length)).flatMap (fun q =>
      if bar2Reaches s p (q.1 * blockBytes) then (((s.far.readBlock q.1).1.drop q.2.1).take q.2.2.length) else q.2.2)
    let missed := (blocksOf base length).any (fun b => !bar2Reaches s p (b * blockBytes))
    let s := (touchBlocks (raceReads s p base length) false ((blocksOf base length).filter (fun b => bar2Reaches s p (b * blockBytes)))).updPort p (fun ps => { ps with lastRead := data })
    .next (if missed then countMiss s p else s)

/-- A write reaches each block it may, which it marks OPEN, and is discarded elsewhere (R297, R298, R318). -/
def execBar2Write (p : Port) (offset : Nat) (data : List Byte) (s : State) : Result :=
  if 2 ^ 32 < offset + data.length then .fault .noSuchUnit
  else if !regionsLive s p then .next s
  else
    let base := bar2Base s p + offset
    let missed := (blocksOf base data.length).any (fun b => !bar2Reaches s p (b * blockBytes))
    let t := (piecesOf base data).foldl (fun t q =>
      if bar2Reaches s p (q.1 * blockBytes) then hostWriteBlock t q.1 q.2.1 q.2.2 else t)
      (touchBlocks s true ((blocksOf base data.length).filter (fun b => bar2Reaches s p (b * blockBytes))))
    .next (if missed then countMiss t p else t)

/-! GCOUNT (R507). -/

/-- The low half is returned and the high half of the same value latched for the port. -/
def execGcountLowRead (p : Port) (s : State) : Result :=
  let g := (s.hub p.hub).gcount.toNat
  .next (if portReachable s p then
    s.updPort p (fun ps => { ps with gcShadow := some (BitVec.ofNat 32 (field g 32 32)), lastRead := leBytes 4 (field g 0 32) })
    else s)

/-- The shadow is returned and cleared when a low read has latched it; else the current high half. -/
def execGcountHighRead (p : Port) (s : State) : Result :=
  let g := (s.hub p.hub).gcount.toNat
  .next (if portReachable s p then
    s.updPort p (fun ps => { ps with
      gcShadow := none
      lastRead := leBytes 4 ((ps.gcShadow.map (·.toNat)).getD (field g 32 32)) })
    else s)

/-! Other writes of BAR0. -/

/-- The command codes that a chapter defines (table Firmware commands and its ranges). -/
def knownCommand (c : Nat) : Bool :=
  [0x01, 0x02, 0x03, 0x04, 0x10, 0x11, 0x12, 0x13, 0x20, 0x21, 0x22, 0x23, 0x24, 0x28, 0x29, 0x30, 0x31, 0x32,
   0x40, 0x41, 0x42, 0x43, 0x44, 0x45, 0x46, 0x50, 0x51].contains c ||
  (decide (0x80 ≤ c) && decide (c ≤ 0x88)) || (decide (0xC0 ≤ c) && decide (c ≤ 0xC9)) ||
  (decide (0x100 ≤ c) && decide (c ≤ 0x106))

/-- A request as it stands in a request page (R320). -/
def pageRequest (p : Port) (box : Nat) (page : List Byte) : Nat × MbxReq :=
  (leAt page 0 2,
    { port := p, box := box, notify := bit (leAt page 8 2) 0, token := BitVec.ofNat 32 (leAt page 4 4),
      resv := leAt page 8 2 / 2 != 0 || !allZero ((page.drop 0x0A).take 22), bodyLen := leAt page 2 2,
      body := padTo (leAt page 2 2) (page.drop 0x20) })

/-- Ring mailboxes in ascending number: each FREE one copies its request page (R321, R509); a code no chapter defines
ends with BAD_CMD (R322 step 1). -/
def ringBoxes (s : State) (p : Port) (bits : Nat) : State :=
  (List.range 64).foldl (fun s m =>
    if bit bits m && (getMailbox s p m).st == .free then
      let (code, rq) := pageRequest p m (memReadN (s.port p).reqPages (4096 * m) 4096)
      if knownCommand code then (ring s code rq).getD s
      else respondAs s code rq stBadCmd 0 []
    else s) s

/-- A write of 4 or 8 bytes to the MSI-X table: address, data and the mask bit of an entry (R515). -/
def msixWrite (ps : PortState) (off : Nat) (data : List Byte) : PortState :=
  let v := off / 16
  let e := ps.vector v
  let old := leBytes 8 e.addr.toNat ++ leBytes 4 e.data.toNat ++ leBytes 4 (if e.masked then 1 else 0)
  let new := splice old (off % 16) data
  let e' : MsixEntry := { addr := BitVec.ofNat 64 (leAt new 0 8), data := BitVec.ofNat 32 (leAt new 8 4),
                          masked := bit (leAt new 12 4) 0 }
  ({ ps with msix := tabPut {} ps.msix v e' }).release v

/-- A write to HUB.EVT_CTRL (R513). -/
def evtCtrlWrite (s : State) (p : Port) (value : Nat) : State := s.updPort p (fun ps => { ps with evtIntr := bit value 0 })

/-- The bits a write of bytes at a register of 8 bytes covers, in their place in the register. -/
def slotValue (off : Nat) (data : List Byte) : Nat := leNat data * 2 ^ (8 * (off % 8))

/-- A write of 4 or 8 aligned bytes to a register of BAR0 (R10, R501, R502); every register no arm names is read-only
or reserved and ignores it. -/
def bar0Write (s : State) (p : Port) (offset : Nat) (data : List Byte) : State :=
  let v := slotValue offset data
  let low := offset % 8 = 0
  let slot := offset - offset % 8
  if slot = 0x0108 then
    if bit v 0 then s.updHub p.hub (fun h => { h with pwrfail := false }) else s
  else if slot = 0x0800 then ringBoxes s p v
  else if slot = 0x0820 then ackBoxes s p v
  else if !registersLive s p then s
  else if slot = 0x0118 then (if low then capWrite s v else s)
  else if slot = 0x0900 then
    if data.length = 8 || !low then
      s.updPort p (fun ps => { ps with farWindow := BitVec.ofNat 8 (field v 32 8) })
    else s
  else if slot = 0x0A00 then
    s.updPort p (fun ps => { ps with errSummary := ps.errSummary &&& ~~~(BitVec.ofNat 20 v) })
  else if !regionsLive s p then s
  else if 0x10000 ≤ offset && offset < 0x20000 then
    let q := (offset - 0x10000) / 8
    if data.length = 8 then
      match doorbell s p q (BitVec.ofNat 64 (leNat data)) with
      | .next t => t
      | _ => s
    else doorbellRefused s p q (BitVec.ofNat 64 (leNat data))
  else if slot = 0x20010 then (if low then evtHeadWrite s p v else s)
  else if slot = 0x20020 then (if low then evtCtrlWrite s p v else s)
  else if 0x30000 ≤ offset && offset < 0x30100 then s.updPort p (fun ps => msixWrite ps (offset - 0x30000) data)
  else s

/-- A write through a port: a mailbox request page takes any length and alignment within the page, a register takes 4 or 8
aligned bytes, any other write is ignored (R316, R501). -/
def bar0Access (s : State) (p : Port) (offset : Nat) (data : List Byte) : State :=
  if !portReachable s p then s
  else if 0x80000 ≤ offset && offset < 0x100000 then
    let m := (offset - 0x80000) / 8192
    let off := (offset - 0x80000) % 8192
    if off + data.length ≤ 4096 then s.updPort p (fun ps => { ps with reqPages := memWriteN ps.reqPages (4096 * m + off) data })
    else s
  else if (data.length = 4 || data.length = 8) && offset % data.length = 0 then bar0Write s p offset data
  else s

end Sys2Proof.Machine
end

