-- ==== Sys2Proof/WellFormed.lean ====
section
/-! DEFINITION. When a command is well formed: it names units, registers and bit counts that the device has
(R13, R316, R320, R330, R477). The meanings do not rely on it: a command that names a unit the device does not have
stops by name in its meaning. -/

namespace Sys2Proof

/-- A request page: one of 64 mailboxes, a 16-bit BODY_LEN, a body that fits the page (R320). -/
def MbxReq.wf (rq : MbxReq) : Bool :=
  decide (rq.box < 64) && decide (rq.bodyLen < 2 ^ 16) && decide (rq.body.length ≤ 4064)

/-- A queue number (R330). -/
def queueWf (q : Nat) : Bool := decide (q < 8192)

/-- A logical core (R13). -/
def coreWf (c : Nat) : Bool := decide (c < 512)

/-- A physical core as 72d + k (R13, R344). -/
def physWf (p : Nat) : Bool := decide (p < 576)

/-- A path of the package (R386). -/
def linkWf (l : PortLink) : Bool := decide (1 ≤ l.gen) && decide (l.gen ≤ 6) && [1, 2, 4, 8].contains l.lanes

def BeatPath.wf : BeatPath → Bool
  | .network d => decide (d < 8)
  | .bridge a b => decide (a < b) && decide (b < 8)
  | .hubToDie h d => decide (h < 2) && decide (d < 8)
  | .farStack k => decide (k < 16)
  | .nearStack k => decide (k < 4)
  | .worgonLane p => decide (p < 12)
  | .sram p => decide (p < 576)

/-- A packet header's fields fit their widths (R283). -/
def AccPacket.wf (p : AccPacket) : Bool :=
  decide (p.rjob < 256) && decide (p.srcDev < 256) && decide (p.srcDie < 16) && decide (p.aop < 16) &&
    decide (p.seq < 2 ^ 32) && decide (p.payload.length ≤ 4096)

/-- The words in error lie inside so many blocks (R297, R304): 512 words of data each, and the tag as word 512. -/
def errorsWf (blocks : Nat) (errors : List (Nat × BitVec 72)) : Bool := errors.all (fun e => decide (e.1 < 513 * blocks))

/-- A block of the stacks that a scrub reads: far data, parity, near stacks (R295, R305). -/
def scrubBlockWf (b : Nat) : Bool := decide (b < 0xE800000)

/-- A naturally aligned word of the far tier (R294, R300). -/
def farWordWf (a : Nat) : Bool := a % 8 == 0 && decide (a + 8 ≤ 0x9000000000)

/-- A block of the far tier (R294). -/
def farBlockWf (b : Nat) : Bool := decide (b < 0x9000000)

/-- The sensors of the table Sensor and rail numbers (R477). -/
def sensorWf (n : Nat) : Bool :=
  decide (n < 0x13) || (decide (0x20 ≤ n) && decide (n < 0x24)) || (decide (0x30 ≤ n) && decide (n < 0x40))

def Instr.wf : Instr → Bool
  | .getInfo rq | .configLoad rq | .fwLoad rq | .spdm rq | .memGrant rq | .memRelease rq | .copyIn rq | .copyOut rq
  | .chainLoad rq | .chainUnload rq | .caddyLoad rq | .caddyUnload rq | .caddyQuery rq | .programUnload rq
  | .jobCreate rq | .jobDestroy rq | .jobStatus rq | .queueCreate rq | .queueSet rq | .queueCancel rq
  | .queueResume rq | .queueReset rq | .queueDestroy rq | .queueRehome rq | .eventRingSet rq | .rebuildShare rq
  | .fabDoorbell rq | .fabPair rq | .fabSeal rq | .svcStatus rq | .coreRetire rq | .coreTest rq | .coreInfo rq
  | .dieDown rq | .dieUp rq | .hubSwap rq | .hubRejoin rq | .bboxInfo rq | .bboxRead rq | .bootImage rq | .attest rq
  | .identityGet rq | .protSet rq | .regionSet rq | .svnCommit rq | .integratorEnroll rq => rq.wf
  | .programLoad rq _ => rq.wf
  | .fabEnum rq tree => rq.wf && decide (tree.length ≤ 255)
  | .fabStatus rq _ | .fabForward rq _ | .fabEvents rq _ | .fabLaunch rq _ | .fabLink rq _ => rq.wf
  | .sqTail _ q _ | .cqHead _ q _ => queueWf q
  | .add q | .sub q | .neg q | .mulPt q | .mulCt q | .relin q | .rotate q | .conjugate q | .linear q | .rescale q
  | .levelDrop q | .nttFwd q | .nttInv q | .matmul q | .map q | .gather q | .scatter q | .scatterAdd q | .copy q
  | .remoteAdd q | .bootstrap q | .switchOut q | .lut q | .repack q | .exportOp q | .flagSet q | .flagWait q | .nop q
  | .boundaryCommand q | .completionRecordPost q | .watchPoll q | .flagWaitTimeout q | .launchDoorbellApply q
  | .accumulatorCommit q _ | .commandComplete q _ | .commandAbort q _ _ => queueWf q
  | .watch64 a _ q => farWordWf a && queueWf q
  | .fadd64 op _ => farWordWf op.word
  | .set64 a _ => farWordWf a
  | .claim c q _ _ => coreWf c && queueWf q
  | .taskPlace c | .taskComplete c _ | .passNotice c _ _ | .nttFwdInstruction c | .nttInvInstruction c | .mxaMatmul c
  | .inner c | .bconvFast c | .bconvExact c | .vxeChain c | .dma c | .dmaTransferStart c _ | .fold c | .foldApply c _
  | .signal c | .wait c | .fenceSlot c | .fenceKey c | .scalarInstruction c | .instructionComplete c _
  | .eventTimeout c _ => coreWf c
  | .laneFault p _ | .coreFault p | .coreFenceDone p | .sleepTimeout p | .pllLock p => physWf p
  | .farBlockRead b errors _ => farBlockWf b && errorsWf 7 errors
  | .scrub b errors => scrubBlockWf b && errorsWf 7 errors
  | .farBlockWrite b off data => farBlockWf b && decide (off + data.length ≤ 4096)
  | .linkLaneFail _ lane => decide (lane < 9)
  | .bar2Read _ off n => decide (off + n ≤ 2 ^ 32)
  | .bar2Write _ off data => decide (off + data.length ≤ 2 ^ 32)
  | .registerWrite (.bar0 _) off data => decide (off + data.length ≤ 2 ^ 21)
  | .registerWrite (.sideband _) off _ => decide (off < 256)
  | .accumulatePacket p | .mergeHdr p => p.wf
  | .beatError b => b.path.wf
  | .portUp l => linkWf l
  | .selfRefreshEntry k => decide (k < 20)
  | .sensorSample n _ => sensorWf n
  | .workerLossTimeout d => decide (d < 256)
  | .doeMessage _ _ | .caddyLoadDone _ | .caddyResident _ | .hubRejoinDone _ | .firmwareActivation | .mbxAck _ _
  | .evtHead _ _ | .pwrCap _ _ | .farWindow _ _ | .gcountLowRead _ | .gcountHighRead _ | .cfgData _ _ | .cfgPtr _ _
  | .go _ _ | .pieceSend _ | .pieceArrive _ _ | .pieceReady _ _ | .unwatch _ _
  | .watchAnswer _ _ | .parityDelta _ | .accumulateAnswer _ | .packetResendTimeout _ _ _ _
  | .coreSelfTestStart _ | .coreSelfTestDone _ _ | .dieCtrlRestart _ | .dieLost _ | .islandLost _ | .farStackLost _
  | .rebuildRowMove _ | .nearStackLost _ | .nearReplacementDone | .hubFault _ | .heartbeatTimeout _ | .sliceAbandon
  | .recordFault | .recordRecovered | .pmbAlert _ _ | .portDown _ | .perst _ | .flitReceive _ _
  | .laneRetrainDone _ _ | .gcountSync _ _ _ _ | .workerRefusal _ | .comparisonRecord _ _ _ _
  | .peerLinkTimeout _ | .porAssert _ | .porRelease _ _ _ _ | .railSettle _ | .hrst _ | .pwrfail | .leadAbsentTimeout
  | .imageOffer _ _ _ | .imageVerified _ | .hubJoin | .joinTimeout | .computePowerUpStep _ _ | .thermalStep _
  | .powerStep _ _ | .runEntry _ | .runExit _ | .networkClockGate _ | .interruptingSliceStart | .worgonPortTrained _
  | .debugPortHalt _ _ => true

end Sys2Proof
end

