-- ==== Sys2Proof/Machine/Power.lean ====
section
/-! DEFINITION. Power commands (R463 to R477, R499): the power controller's step, thermal levels, core power states, the
clocks, self-refresh. -/

namespace Sys2Proof.Machine

open Sys2Proof

/-- The lead logs THERMAL and POWER entries at most once per second per sensor or rail (R432). -/
def logDue (s : State) (t : Tab W64) (n : Nat) : Bool :=
  match tabGet? t n with
  | some w => decide (secTicks ≤ s.since w)
  | none => true

/-- A POWER entry for a rail (R430, R477). -/
def logPower (s : State) (rail : Nat) (reading : W32) : State :=
  if logDue s s.record.lastRailLog rail then
    append (s.updRecord (fun r => { r with lastRailLog := tabSet r.lastRailLog rail s.now })) 4
      (leBytes 2 rail ++ leBytes 2 0 ++ leBytes 4 reading.toNat)
  else s

/-- The core clock step of a die: min(k_cap, k_therm) (R472). -/
def kOf (s : State) (d : Nat) : Nat := min s.pwr.kCap (s.die d).kTherm

def throttled (s : State) : Bool := (List.range 8).any (fun d => decide (kOf s d < 16))

/-- Seconds of AON time during which a die ran throttled (R476). -/
def countThrottle (s : State) : State :=
  if !throttled s then s.updPwr (fun w => { w with throttleSince := none })
  else
    let aon := BitVec.ofNat 64 s.record.aonTicks
    match s.pwr.throttleSince with
    | none => s.updPwr (fun w => { w with throttleSince := some aon })
    | some t =>
      if secTicks ≤ (aon - t).toNat then
        updLife (s.updPwr (fun w => { w with throttleSince := some aon })) (fun l => { l with throttled := lifeInc l.throttled })
      else s

/-- The core-rail current limit in tenths of an ampere: min(1,500 A, 0.9 × phases × PHASE_AMPS) (R470). -/
def PowerState.limitTenths (w : PowerState) : Nat := min 15000 (9 * w.phases * w.phaseAmps)

/-- The package power of the steps of the last millisecond, a new one among them (R471). -/
def PowerState.window (w : PowerState) (now : W64) (watts : Nat) : List (W64 × Nat) :=
  w.samples.filter (fun x => decide ((now - x.1).toNat < msTicks)) ++ [(now, watts)]

/-- The mean of the readings of a window (DEDUCED, log 155). -/
def meanPower (l : List (W64 × Nat)) : Nat := (l.map (·.2)).sum / l.length

/-- One 10 µs step of the power controller on its readings; POWER_W is the power over the last 1 ms (R470 to R472). -/
def PowerState.step (w : PowerState) (now : W64) (watts amps : Nat) : PowerState :=
  let overCap := decide (w.capW < watts)
  let overCur := decide (w.limitTenths < 10 * amps)
  let below := decide (100 * watts ≤ 95 * w.capW) && decide (1000 * amps ≤ 95 * w.limitTenths)
  let since := if below then (match w.belowSince with | some t => some t | none => some now) else none
  let raise := match since with
    | some t => decide (msTicks ≤ (now - t).toNat)
    | none => false
  let k := if overCap || overCur then max 2 (w.kCap - 1) else if raise then min 16 (w.kCap + 1) else w.kCap
  { w with samples := w.window now watts, powerW := meanPower (w.window now watts), kCap := k, belowSince := if raise then some now else since,
           byCap := overCap || (w.byCap && decide (k < 16)), byCurrent := overCur || (w.byCurrent && decide (k < 16)) }

/-- The controller sits in the lead: with no lead there is no step, and none before 10 µs have passed since the last (R470). -/
def execPowerStep (watts amps : Nat) (s : State) : Result :=
  .next (if s.dev.lead.isNone || s.pwr.samples.any (fun x => decide (s.since x.1 < 10 * usTicks)) then s
    else countThrottle (s.updPwr (fun w => w.step s.now watts amps)))

/-- A phase out of or back in service (R473, R499): the limit follows in the next step, each change is logged; a loss is
of class REGULATOR (R384). -/
def execPmbAlert (phases : Nat) (reading : W32) (s : State) : Result :=
  .next (if s.dev.lead.isNone || phases = s.pwr.phases || decide (64 < phases) then s
    else
      let t := if phases < s.pwr.phases then noteFault s 0x10 0 else s
      logPower (t.updPwr (fun w => { w with phases := phases })) 0 reading)

/-! Thermal levels. -/

/-- The level of a die sensor in sixteenths of a degree (R474, R475). -/
def dieLevel (tThrottle : Nat) (t : Int) : Nat :=
  if 16 * 120 ≤ t then 4 else if 16 * 110 ≤ t then 3 else if 16 * (tThrottle : Int) ≤ t then 2
  else if 16 * ((tThrottle : Int) - 5) ≤ t then 1 else 0

/-- The level of a stack sensor: no WARN (R474, R475). -/
def stackLevel (t : Int) : Nat := if 16 * 115 ≤ t then 4 else if 16 * 105 ≤ t then 3 else if 16 * 95 ≤ t then 2 else 0

/-- The stack a sensor reads: 0 to 15 far, 16 to 19 near (R477). -/
def sensorStack (n : Nat) : Option Nat :=
  if 0x30 ≤ n then some (n - 0x30) else if 0x20 ≤ n then some (n - 0x20 + 16) else none

/-- The rate a controller admits by its stack's level (R474). -/
def shareOf (level : Nat) : Nat := if level < 2 then 100 else if level = 2 then 75 else 50

/-- THERMAL: the event, its log entry, the class bit at THROTTLE and above (R432, R474, R477, R511). -/
def postThermal (s : State) (sensor level : Nat) (reading : W16) : State :=
  let arg := reading.toNat + level * 2 ^ 16
  let s := if 2 ≤ level then setErr s 0x11 else s
  let s := if logDue s s.record.lastSensorLog sensor then
      append (s.updRecord (fun r => { r with lastSensorLog := tabSet r.lastSensorLog sensor s.now })) 3
        (leBytes 2 sensor ++ leBytes 2 0 ++ leBytes 4 arg)
    else s
  postBoth s { code := 0x0015, arg0 := sensor, arg1 := arg }

/-- What a sensor's level does to its die or stack (R474, R499). -/
def applyLevel (s : State) (sensor level : Nat) (t : Int) : State :=
  let s := if level = 4 then s.updDev (fun d => { d with thermTrip := true }) else s
  match sensorStack sensor with
  | some k => s.updStack k (fun x => { x with share := shareOf level })
  | none =>
    if sensor < 8 then
      let hot := decide (16 * (s.pwr.tThrottle : Int) ≤ t)
      s.updDie sensor (fun d => { d with
        level := level, hot := hot
        cool := decide (t < 16 * ((s.pwr.tThrottle : Int) - 3))
        thermSince := if hot = d.hot && decide (t < 16 * ((s.pwr.tThrottle : Int) - 3)) = d.cool then d.thermSince else s.now
        kTherm := if 3 ≤ level then 2 else d.kTherm })
    else s

/-- The highest level over the device's sensors (R475, R506). -/
def topLevel (t : Tab Nat) : Nat := t.foldl (fun m e => max m e.2) 0

/-- A sensor's sample (R474 to R477): the event posts on a crossing into a higher level and on a fall to NORMAL. -/
def execSensorSample (sensor : Nat) (reading : W16) (s : State) : Result :=
  if !sensorWf sensor then .fault .noSuchUnit
  else
    let t := signed 16 reading.toNat
    let old := tabGet 0 s.pwr.levels sensor
    let level := if (sensorStack sensor).isSome then stackLevel t else dieLevel s.pwr.tThrottle t
    let s := s.updPwr (fun w => { w with levels := tabPut 0 w.levels sensor level })
    let top := topLevel s.pwr.levels
    let mark (h : HubState) : HubState := { h with thermLevel := top, thermAlert := h.thermAlert || decide (1 ≤ level) }
    let s := applyLevel ((s.updHub .h0 mark).updHub .h1 mark) sensor level t
    .next (if old < level || (level = 0 && old != 0) then postThermal s sensor level reading else s)

/-- k_therm falls by 1 every 100 µs while the die is at or above T_THROTTLE, and rises by 1 every 1 ms while it is below
T_THROTTLE - 3 °C (R474). -/
def execThermalStep (die : Fin 8) (s : State) : Result :=
  let d := s.die die.val
  .next (if d.hot && decide (100 * usTicks ≤ s.since d.thermSince) then
      countThrottle (s.updDie die.val (fun d => { d with kTherm := max 2 (d.kTherm - 1), thermSince := s.now }))
    else if d.cool && decide (msTicks ≤ s.since d.thermSince) then
      countThrottle (s.updDie die.val (fun d => { d with kTherm := min 16 (d.kTherm + 1), thermSince := s.now }))
    else s)

/-! Core power states. -/

/-- A core with work leaves Park at its turn, and Sleep after its PLL locks (R464, R465). -/
def wakePhys (s : State) (p : Nat) : State :=
  s.updPhys p (fun c => match c.power with
    | .park => { c with waking := .ready, since := s.now }
    | .sleep => if c.waking = .no then { c with waking := .pll, since := s.now } else c
    | .run => { c with leaving := none }
    | .off => c)

def wakeCore (s : State) (c : Nat) : State :=
  match physServing s c with
  | some p => (wakePhys s p).updDie (dieOfCore c) (fun d => { d with netGated := false, netIdleSince := s.now })
  | none => s

/-- A core with no placed task and no held tile leaves Run for Park at its turn (R464, R467). -/
def idleCore (s : State) (c : Nat) : State :=
  if (s.core c).slots.isEmpty && (s.core c).held.isEmpty then
    match physServing s c with
    | some p => s.updPhys p (fun x => if x.power = .run then { x with leaving := some .park } else x)
    | none => s
  else s

/-- Cores whose tasks have been taken away. -/
def idleAll (s : State) (cores : List Nat) : State := cores.foldl idleCore s

/-- A parked core that no live job's group holds any more counts its time to Sleep from now (R464). -/
def parkFreed (s : State) (cores : List Nat) : State :=
  cores.foldl (fun s c => match physServing s c with
    | some p => s.updPhys p (fun x => if x.power = .park then { x with since := s.now } else x)
    | none => s) s

/-- Park to Sleep: 1 ms in no live job's group, or SLEEP_AFTER in Park (R464). -/
def execSleepTimeout (physical : Nat) (s : State) : Result :=
  if 576 ≤ physical then .fault .noSuchUnit
  else
    let c := s.physCore physical
    let held := match c.logical with
      | some l => (holderOf s l).isSome
      | none => false
    let due := if held then s.pwr.sleepAfter != 0 && decide (s.pwr.sleepAfter * msTicks ≤ s.since c.since)
      else decide (msTicks ≤ s.since c.since)
    .next (if c.power = .park && c.waking = .no && due then
      s.updPhys physical (fun c => { c with power := .sleep, since := s.now }) else s)

/-- A waking core's PLL has locked: its clock enable waits for a Run entry (R465). -/
def execPllLock (physical : Nat) (s : State) : Result :=
  if 576 ≤ physical then .fault .noSuchUnit
  else .next (if (s.physCore physical).waking = .pll then
      s.updPhys physical (fun c => { c with waking := .ready })
    else s)

/-- Entries or exits of a die in the last microsecond (R466, R467). -/
def recentTurns (s : State) (l : List W64) : List W64 := l.filter (fun t => decide (s.since t < usTicks))

/-- A core's place among those that wait to enter Run: ascending logical core, spares taking one last (R466). -/
def entryOrder (c : PhysCore) : Nat := c.logical.getD 1024 + (if c.taking then 512 else 0)

/-- The core that enters Run next (R466). -/
def nextEntry (s : State) (d : Nat) : Option Nat :=
  let ready := (physOf d).filter (fun p => (s.physCore p).waking == .ready)
  (sortBy (fun p => entryOrder (s.physCore p)) ready).head?

/-- At most WAKE_RATE cores of a die enter Run in any 1 µs window (R466). -/
def execRunEntry (die : Fin 8) (s : State) : Result :=
  let recent := recentTurns s (s.die die.val).wakes
  .next (match nextEntry s die.val with
    | some p =>
      if recent.length < s.pwr.wakeRate then
        (s.updPhys p (fun c => { c with power := .run, waking := .no, leaving := none, since := s.now, taking := false })).updDie die.val
          (fun d => { d with wakes := recent ++ [s.now], netGated := false, netIdleSince := s.now })
      else s
    | none => s)

/-- Cores leave Run at the same limit (R467). -/
def execRunExit (die : Fin 8) (s : State) : Result :=
  let recent := recentTurns s (s.die die.val).sleeps
  .next (match (physOf die.val).find? (fun p => (s.physCore p).power == .run && (s.physCore p).leaving.isSome) with
    | some p =>
      if recent.length < s.pwr.wakeRate then
        (s.updPhys p (fun c => { c with power := c.leaving.getD .park, leaving := none, since := s.now })).updDie die.val
          (fun d => { d with sleeps := recent ++ [s.now], netIdleSince := s.now })
      else s
    | none => s)

/-- The network clock is gated after 10 µs with no core of the die in Run or Park and no traffic (R463). -/
def execNetworkClockGate (die : Fin 8) (s : State) : Result :=
  let busy := (physOf die.val).any (fun p => (s.physCore p).power == .run || (s.physCore p).power == .park)
  .next (if !busy && decide (10 * usTicks ≤ s.since (s.die die.val).netIdleSince) then
      s.updDie die.val (fun d => { d with netGated := true })
    else s)

/-- A rebuild moves rows of a group (R310, R311). -/
def FarGroup.rebuilding (g : FarGroup) : Bool := g.st == .degraded && !g.stopped

end Sys2Proof.Machine
end

