-- ==== Sys2Proof/Machine/HostCommands.lean ====
section
/-! DEFINITION. Mailbox commands of the base set (R324 to R326, R344, R511, R514): GET_INFO, SPDM and the DOE mailbox,
memory grants and copies, the event ring, the rebuild share. -/

namespace Sys2Proof.Machine

open Sys2Proof

/-! Octets (R221, R222). -/

/-- An octet is free: no live job holds it and its eight cores are in service (R222, R377, R417). -/
def octetFree (s : State) (o : Nat) : Bool :=
  !s.tab.jobs.any (fun j => j.octets.contains o) && (octetCores o).all (coreInService s)

def freeOctets (s : State) : List Nat := (List.range 64).filter (octetFree s)

/-- A set of octets as 64 bits, bit o for octet o. -/
def octetBits (l : List Nat) : Nat := l.foldl (fun acc o => acc ||| 2 ^ o) 0

def freeExtents (s : State) : Nat := numExtents - s.far.owners.length

/-! GET_INFO. -/

def getInfoSpec : CmdSpec := { code := 0x0001, states := [0, 1, 2, 3] }

/-- The response of GET_INFO (table Firmware commands). -/
def infoBody (s : State) (p : Port) : List Byte :=
  leBytes 2 0x0100 ++ leBytes 1 (portDstate s p) ++
    leBytes 1 (s.dev.role.val + (if s.dev.lead = some p.hub then 4 else 0)) ++ leBytes 2 (coresInService s) ++ leBytes 2 0 ++
    leBytes 8 s.now.toNat ++ leBytes 8 (octetBits (freeOctets s)) ++ leBytes 4 (freeExtents s)

def execGetInfo (rq : MbxReq) (s : State) : Result :=
  mailbox s getInfoSpec rq (fun t _ => .okWith t (infoBody t rq.port))

/-! SPDM (R314, R441, R444). -/

/-- SPDM: MSG_LEN, 2 reserved bytes, the message. -/
def spdmSpec : CmdSpec :=
  { code := 0x0004, states := [0, 1, 2, 3], len := none, reserved := [(0x02, 0, 16)], sizes := [(0x00, 2)]
    fits := fun b => if b.length = 4 + leAt b 0 2 then none else some 0 }

/-- An SPDM ERROR with code Busy, version 1.2 (R441). -/
def spdmBusy : List Byte := [0x12, 0x7F, 0x03, 0x00]

/-- DEBUG is HALT on a hub: no signature (R444). -/
def debugHalt (h : HubState) : Bool := field h.protCtrl.toNat 2 2 == 2

/-- MEAS0 to MEAS7 of a hub: the SPDM measurement blocks 1 to 8 (R443, R450). -/
def HubState.measurements (h : HubState) : List Digest := [h.meas0, h.meas1, h.meas2, h.meas3, h.meas4, 0, 0, 0]

/-- The responder's answer, the operations its hub's bignum engine has for it, and the IDE stream a message may establish (R314,
R450, R459, log 24). -/
def spdmAnswer (s : State) (p : Port) (msg : List Byte) : List Byte × State :=
  if (s.hub p.hub).inRom then (spdmBusy, s)
  else
    let n := s.dev.spdmCount
    let out := Config.spdmRespond n (debugHalt (s.hub p.hub)) (s.hub p.hub).measurements msg
    let s := (s.updDev (fun d => { d with spdmCount := n + 1 })).updHub p.hub (fun h => { h with big := h.big.issueStep n msg })
    (out, if Config.spdmSetsIde n msg then s.updPort p (fun ps => { ps with ide := true }) else s)

def execSpdm (rq : MbxReq) (s : State) : Result :=
  mailbox s spdmSpec rq (fun t b =>
    let (out, u) := spdmAnswer t rq.port ((b.drop 4).take (leAt b 0 2))
    .okWith u (leBytes 2 out.length ++ leBytes 2 0 ++ out))

/-- The DOE mailbox reaches the same responder (R314). -/
def execDoeMessage (port : Port) (msg : List Byte) (s : State) : Result :=
  .next (if !(s.port port).linkUp then s
    else
      let (out, t) := spdmAnswer s port msg
      t.updPort port (fun ps => { ps with doeOut := out }))

/-! Memory grants (R299, R326). -/

def grantSpec (code : Nat) : CmdSpec :=
  { code := code, len := some 16, reserved := [(0x02, 0, 16), (0x0C, 0, 32)], sizes := [(0x08, 4)]
    range := fun b => if numExtents ≤ leAt b 4 4 then some 4
      else if numExtents < leAt b 4 4 + leAt b 8 4 then some 8 else none }

/-- The extents a grant names. -/
def extentRange (b : List Byte) : List Nat := (List.range (leAt b 8 4)).map (fun i => leAt b 4 4 + i)

/-- A JOB_ID that names no live job and not the key library is not found (R326). -/
def ownerKnown (s : State) (id : Nat) : Bool := id == libraryOwner || (findJob s id).isSome

def grantExtent (s : State) (owner e : Nat) : State :=
  s.updFar (fun f => { clearTags f e with owners := tabSet f.owners e owner })

/-- A freed extent's tags become NEVER (R297). -/
def freeExtent (s : State) (e : Nat) : State := s.updFar (fun f => { clearTags f e with owners := tabErase f.owners e })

def execMemGrant (rq : MbxReq) (s : State) : Result :=
  mailbox s (grantSpec 0x0010) rq (fun t b =>
    if !ownerKnown t (leAt b 0 2) then .fail t stNotFound 0
    else if (extentRange b).any (fun e => (tabGet? t.far.owners e).isSome) then .fail t stInUse
    else .ok ((extentRange b).foldl (fun t e => grantExtent t (leAt b 0 2) e) t))

/-- A release waits for the job's queues to stop, and for the caddies of a library extent (R326). -/
def releaseBusy (s : State) (owner : Nat) (es : List Nat) : Bool :=
  s.tab.queues.any (fun q => q.job == owner && (q.st == .running || q.st == .stalled)) ||
    (owner == libraryOwner && s.tab.caddies.any (fun c => c.extents.any (fun e => es.contains e)))

def execMemRelease (rq : MbxReq) (s : State) : Result :=
  mailbox s (grantSpec 0x0011) rq (fun t b =>
    if !ownerKnown t (leAt b 0 2) then .fail t stNotFound 0
    else if (extentRange b).any (fun e => tabGet? t.far.owners e != some (leAt b 0 2)) then .fail t stNotFound 4
    else if releaseBusy t (leAt b 0 2) (extentRange b) then .fail t stInUse
    else .ok ((extentRange b).foldl freeExtent t))

/-! Copies (R298, R319, R326, R446). -/

def copySpec (code : Nat) : CmdSpec :=
  { code := code, len := some 24, reserved := [(0x14, 0, 32)], sizes := [(0x10, 4)]
    range := fun b => if leAt b 0x10 4 % 64 = 0 then none else some 0x10 }

/-- The far range of a copy is granted and the region table permits the port (R326, R446). -/
def copyPermitted (s : State) (p : Port) (addr len : Nat) : Bool :=
  grantedTo s (fun _ => true) addr len &&
    (List.range (extentOf (addr + len - 1) - extentOf addr + 1)).all (fun i => regionPermits s p ((extentOf addr + i) * extentBytes))

def execCopyIn (rq : MbxReq) (s : State) : Result :=
  mailbox s (copySpec 0x0012) rq (fun t b =>
    if !copyPermitted t rq.port (leAt b 8 8) (leAt b 0x10 4) then .fail t stOutsideGrant
    else match hostRead t rq.port (leAt b 0 8) (leAt b 0x10 4) with
      | none => .fail t stHostAccess
      | some data => .ok (farHostWrite t (leAt b 8 8) data))

def execCopyOut (rq : MbxReq) (s : State) : Result :=
  mailbox s (copySpec 0x0013) rq (fun t b =>
    if !copyPermitted t rq.port (leAt b 8 8) (leAt b 0x10 4) then .fail t stOutsideGrant
    else if !(t.port rq.port).hostReadable || decide (2 ^ 64 < leAt b 0 8 + leAt b 0x10 4) then .fail t stHostAccess
    else
      let data := (farRead t.far (leAt b 8 8) (leAt b 0x10 4)).1
      .ok (sendBack (hostWrite (touchRead (raceRead t (leAt b 8 8, leAt b 0x10 4)) (leAt b 8 8) (leAt b 0x10 4)) rq.port (leAt b 0 8) data) classData data))

/-! The event ring (R343, R514). -/

def eventRingSpec : CmdSpec :=
  { code := 0x0050, len := some 16, reserved := [(0x08, 5, 3), (0x09, 0, 56)]
    range := fun b => if leAt b 0 8 % 4096 != 0 then some 0
      else if field (leAt b 8 1) 0 5 < 6 || 16 < field (leAt b 8 1) 0 5 then some 8 else none }

/-- A ring set: HEAD and TAIL 0, PHASE 1, DISCARDED 0; held events then go to the new ring (R514). -/
def setRing (s : State) (p : Port) (base : Nat) (log2 : Nat) : State :=
  flushPort (s.updPort p (fun ps => { ps with
    evtBase := BitVec.ofNat 64 base, evtLog2 := log2, evtSet := true, evtHead := 0, evtTail := 0, evtPhase := true,
    evtDiscarded := 0 })) p

def execEventRingSet (rq : MbxReq) (s : State) : Result :=
  mailbox s eventRingSpec rq (fun t b => .ok (setRing t rq.port (leAt b 0 8) (field (leAt b 8 1) 0 5)))

/-! The rebuild share (R311, R418). -/

def rebuildShareSpec : CmdSpec :=
  { code := 0x0051, service := true, len := some 4, reserved := [(0x00, 2, 30)]
    range := fun b => if field (leAt b 0 1) 0 2 = 3 then some 0 else none }

def execRebuildShare (rq : MbxReq) (s : State) : Result :=
  mailbox s rebuildShareSpec rq (fun t b =>
    .ok (t.updDev (fun d => { d with rebuildShare := field (leAt b 0 1) 0 2 })))

end Sys2Proof.Machine
end

