-- ==== Sys2Proof/Machine/Chains.lean ====
section
/-! DEFINITION. Chains (R26 to R31, R204, R325). -/

namespace Sys2Proof.Machine

open Sys2Proof

/-! The chain table (R27). -/

def chainPairs (b : List Byte) : List (Nat × Nat × Nat) :=
  (List.range (leAt b 2 1)).map (fun p => (leAt b (0x40 + 16 * p) 4, leAt b (0x44 + 16 * p) 4, leAt b (0x48 + 16 * p) 3))

def chainSpecials (b : List Byte) : List Nat :=
  (List.range (leAt b 3 1)).map (fun k => leAt b (0x40 + 16 * leAt b 2 1 + 4 * k) 4)

/-- The pair primes q(0), q(1), … in order (R35). -/
def Chain.primes (c : Chain) : List Nat := c.pairs.flatMap (fun p => [p.1, p.2.1])

/-- The prime of a chain slot: 0 to 63 pair primes, 64 to 79 special primes (R206). -/
def Chain.slotPrime (c : Chain) (slot : Nat) : Option Nat :=
  if slot < 64 then c.primes[slot]? else c.special[slot - 64]?

/-- C(l): the sum of DROP_EXP over pairs 0 to l - 1 (R29). -/
def Chain.capacity (c : Chain) (l : Nat) : Nat := ((c.pairs.take l).map (·.2.2)).foldl (· + ·) 0

/-- The Montgomery constants of a prime: -q^-1 mod 2^32 and 2^64 mod q (R29). -/
def montConsts (q : Nat) : Nat × Nat := ((2 ^ 32 - powMod q (2 ^ 31 - 1) (2 ^ 32)) % 2 ^ 32, 2 ^ 64 % q)

/-- DROP_EXP differs from 256 × log2 of the product by less than 1, exactly: 2^(d-1) < Q^256 < 2^(d+1) (R28 check 5). -/
def dropExpOk (d q : Nat) : Bool := decide (2 ^ (d - 1) < q ^ 256) && decide (q ^ 256 < 2 ^ (d + 1)) && decide (0 < d)

/-- The ranges of CHAIN_ID, NUM_PAIRS, NUM_SPECIAL, LOG2N_MAX (R28 check 7). -/
def chainRanges (b : List Byte) : Bool :=
  decide (leAt b 0 2 ≤ 255) && decide (1 ≤ leAt b 2 1) && decide (leAt b 2 1 ≤ 32) && decide (leAt b 3 1 ≤ 16) &&
    decide (12 ≤ leAt b 4 1) && decide (leAt b 4 1 ≤ 17)

def chainReserved (b : List Byte) : Bool :=
  allZero ((b.drop 5).take 0x3B) &&
    (List.range (leAt b 2 1)).all (fun p => leAt b (0x4B + 16 * p) 1 == 0 && leAt b (0x4C + 16 * p) 4 == 0)

def nodupNat (l : List Nat) : Bool := decide l.Nodup

/-- Checks 1 to 6 of R28 in order: the number of the first that fails. -/
def chainCheck (b : List Byte) : Option Nat :=
  let pairs := chainPairs b
  let all := pairs.flatMap (fun p => [p.1, p.2.1]) ++ chainSpecials b
  firstSome
    [ failIf (!all.all (fun q => decide (2 ^ 20 < q) && decide (q < 2 ^ 31))) 1,
      failIf (!all.all isPrime) 2,
      failIf (!all.all (fun q => q % 2 ^ (leAt b 4 1 + 1) == 1)) 3,
      failIf (!nodupNat all) 4,
      failIf (!pairs.all (fun p => dropExpOk p.2.2 (p.1 * p.2.1))) 5,
      failIf (!chainReserved b) 6 ]

def findChain (s : State) (id : Nat) : Option Chain := s.tab.chains.find? (fun c => c.id == id)

/-- The load serial that follows (R204). -/
def nextLoadSerial (n : Nat) : Nat := if n = 2 ^ 32 - 1 then 1 else n + 1

/-- The checks of R325 and R28 on an image read from the host: the status and DETAIL of the first failure. -/
def chainRefused (s : State) (b : List Byte) : Option (Nat × Nat) :=
  if b.length < 64 then some (stBadField, 8)
  else if !chainRanges b then some (stInvalidImage, 7)
  else if b.length != 64 + 16 * leAt b 2 1 + 4 * leAt b 3 1 then some (stBadField, 8)
  else match chainCheck b with
    | some n => some (stInvalidImage, n)
    | none => if (findChain s (leAt b 0 2)).isSome then some (stInUse, 0) else none

def chainOf (b : List Byte) (serial : Nat) : Chain :=
  { id := leAt b 0 2, pairs := chainPairs b, special := chainSpecials b, log2nMax := leAt b 4 1, serial := serial }

def execChainLoad (rq : MbxReq) (s : State) : Result :=
  mailbox s (loadSpec 0x0020) rq (fun t body =>
    match hostImage t rq.port body with
    | none => .fail t stHostAccess
    | some b =>
      match chainRefused t b with
      | some (st, d) => .fail t st d
      | none =>
        let n := t.dev.loadSerial
        let t := t.updTab (fun v => { v with chains := insertBy (·.id) (chainOf b n) v.chains })
        .okWith (t.updDev (fun d => { d with loadSerial := nextLoadSerial n }))
          (leBytes 2 (leAt b 0 2) ++ leBytes 2 0 ++ leBytes 4 n))

/-! Unload. -/

/-- The body of a command that names one object in 16 bits: the name and 2 reserved bytes (log 19). -/
def nameSpec (code : Nat) : CmdSpec := { code := code, len := some 4, reserved := [(0x02, 0, 16)] }

/-- A live job references a chain through a program it names or a caddy it binds (R26). -/
def chainReferenced (s : State) (c : Chain) : Bool :=
  s.tab.jobs.any (fun j =>
    s.tab.programs.any (fun p => j.progs.contains p.index && p.chainId == c.id && !p.marked) ||
    s.tab.caddies.any (fun k => j.binds.contains k.index && k.chainId == c.id && !k.marked))

/-- Unload: programs and caddies recorded against the load are marked for good (R204). -/
def unloadChain (s : State) (c : Chain) : State :=
  s.updTab (fun v => { v with
    chains := v.chains.filter (fun x => x.id != c.id)
    programs := updWhere (fun p => p.serial == c.serial && p.chainId == c.id) (fun p => { p with marked := true }) v.programs
    caddies := updWhere (fun k => k.serial == c.serial && k.chainId == c.id) (fun k => { k with marked := true }) v.caddies })

def execChainUnload (rq : MbxReq) (s : State) : Result :=
  mailbox s (nameSpec 0x0021) rq (fun t b =>
    match findChain t (leAt b 0 2) with
    | none => .fail t stNotFound 0
    | some c => if chainReferenced t c then .fail t stInUse else .ok (unloadChain t c))

end Sys2Proof.Machine
end

