-- ==== Sys2Proof/Machine/Flags.lean ====
section
/-! DEFINITION. Object headers: layout, validation on load, and the rules of header states (R36 to R54). -/

namespace Sys2Proof.Machine

open Sys2Proof

/-- Header states with their codes: 0 VALID, 1 POISON, 2 EXHAUSTED, 3 STALE (R40). -/
abbrev HState := Nat

def hValid : HState := 0
def hPoison : HState := 1
def hExhausted : HState := 2
def hStale : HState := 3

/-- Causes (R40). -/
def cNone : Nat := 0
def cTag : Nat := 1
def cInherited : Nat := 2
def cMalformed : Nat := 3
def cShape : Nat := 4
def cLevel : Nat := 5
def cScale : Nat := 6
def cFault : Nat := 7

/-- A header's fields (R39). -/
structure Hdr where
  kind : Nat
  log2n : Nat
  level : Nat
  state : HState
  cause : Nat
  domain : Nat
  bcmode : Nat
  tag : Nat
  chain : Nat
  layout : Nat
  slotsLog2 : Nat
  scale : Nat
deriving DecidableEq, Repr, Inhabited

/-- The fields of 64 bytes (R39); the reserved fields are ignored (R41). -/
def hdrOf (b : List Byte) : Hdr :=
  { kind := leAt b 3 1, log2n := leAt b 4 1, level := leAt b 5 1, state := field (leAt b 6 1) 0 2,
    cause := field (leAt b 6 1) 2 4, domain := field (leAt b 7 1) 0 1, bcmode := field (leAt b 7 1) 1 2,
    tag := leAt b 8 8, chain := leAt b 0x10 2, layout := leAt b 0x12 1, slotsLog2 := leAt b 0x13 1, scale := leAt b 0x14 3 }

/-- The 64 bytes of a header the device writes: reserved fields zero, BCMODE CHECKED, HCRC (R39, R41). -/
def hdrBytes (h : Hdr) : List Byte :=
  let b := leBytes 2 0x4C43 ++ leBytes 1 1 ++ leBytes 1 h.kind ++ leBytes 1 h.log2n ++ leBytes 1 h.level ++
    leBytes 1 (h.state + 4 * h.cause) ++ leBytes 1 (h.domain + 2) ++ leBytes 8 h.tag ++ leBytes 2 h.chain ++
    leBytes 1 h.layout ++ leBytes 1 h.slotsLog2 ++ leBytes 3 h.scale ++ zeros 37
  b ++ leBytes 4 (crc32c b).toNat

/-- LOG2N lies in the range of its KIND, 10 and 11 for a plaintext only at LEVEL 1 (R40, R43). -/
def log2nOk (h : Hdr) : Bool :=
  match h.kind with
  | 1 | 2 => decide (12 ≤ h.log2n) && decide (h.log2n ≤ 17)
  | 3 => (decide (12 ≤ h.log2n) && decide (h.log2n ≤ 17)) || (decide (10 ≤ h.log2n) && decide (h.log2n ≤ 11) && h.level == 1)
  | 4 => decide (10 ≤ h.log2n) && decide (h.log2n ≤ 12)
  | _ => false

/-- LAYOUT is one its KIND allows (R40). -/
def layoutOk (h : Hdr) : Bool := if h.kind = 4 then h.layout == 3 else h.layout == 1 || h.layout == 2

/-- The header of 64 bytes is malformed (R43). -/
def malformed (chains : List Chain) (b : List Byte) : Bool :=
  let h := hdrOf b
  leAt b 0 2 != 0x4C43 || leAt b 2 1 != 1 || (crc32c (b.take 60)).toNat != leAt b 60 4 ||
  !(decide (1 ≤ h.kind) && decide (h.kind ≤ 4)) || !(h.bcmode == 1 || h.bcmode == 2) || !layoutOk h || !log2nOk h ||
  (match chains.find? (fun c => c.id == h.chain) with
   | none => true
   | some c => decide (c.log2nMax < h.log2n) ||
      (if h.kind = 4 then h.level != 0 else decide (h.level < 1) || decide (c.pairs.length < h.level))) ||
  decide (h.log2n - 1 < h.slotsLog2)

/-- Components of a primary-scheme kind (R40, R45). -/
def components (kind : Nat) : Nat := match kind with
  | 1 => 2
  | 2 => 3
  | _ => 1

/-- Precedence of states: POISON over STALE over EXHAUSTED over VALID (R49). -/
def rank (st : HState) : Nat := match st with
  | 1 => 3
  | 3 => 2
  | 2 => 1
  | _ => 0

/-- The state a cause is originated with (R40). -/
def stateOfCause (c : Nat) : HState := match c with
  | 1 | 3 | 4 => hPoison
  | 5 | 6 => hExhausted
  | 7 => hStale
  | _ => hValid

def maxRank (l : List HState) : Nat := l.foldl (fun m x => max m (rank x)) 0

def stateOfRank (r : Nat) : HState := match r with
  | 3 => hPoison
  | 2 => hStale
  | 1 => hExhausted
  | _ => hValid

/-- A result's STATE and CAUSE from its operands' states and the causes the operation originates (R49): the highest
state, its cause the lowest one originated with it, or INHERITED. -/
def joinState (operands : List HState) (originated : List Nat) : HState × Nat :=
  let r := max (maxRank operands) (maxRank (originated.map stateOfCause))
  if r = 0 then (hValid, cNone)
  else
    match minList (originated.filter (fun c => rank (stateOfCause c) == r)) with
    | some c => (stateOfRank r, c)
    | none => (stateOfRank r, cInherited)

def scaleMax : Nat := 2 ^ 24 - 1

/-- S as written, and whether it left its range (R38). -/
def clampScale (x : Int) : Nat × Bool :=
  if x < 0 then (0, true) else if (scaleMax : Int) < x then (scaleMax, true) else (x.toNat, false)

/-- S exceeds C(l) - 256 at its own level: the test of R38 on the result of every operation of KIND 1 to 3. -/
def overCapacity (chains : List Chain) (chain level scale : Nat) : Bool :=
  match chains.find? (fun c => c.id == chain) with
  | some c => decide ((c.capacity level : Int) - 256 < (scale : Int))
  | none => false

/-- The counter of R54 a cause has in the job status, if it is one an operation can originate. -/
def causeCounter (c : Nat) : Option Nat := match c with
  | 1 => some 0
  | 3 => some 1
  | 4 => some 2
  | 5 => some 3
  | 6 => some 4
  | 7 => some 5
  | _ => none

/-- A result object whose state the job originates counts once under its cause (R54). -/
def countOriginated (s : State) (job : Nat) (cause : Nat) : State :=
  match causeCounter cause with
  | some i => countCause s job i
  | none => s

/-- The header of an aborted destination from that of its result: STALE with cause FAULT (R41, R53). -/
def staleHeader (b : List Byte) : List Byte := hdrBytes { hdrOf b with state := hStale, cause := cFault }

end Sys2Proof.Machine
end

