-- ==== Sys2Proof/Machine/Caddies.lean ====
section
/-! DEFINITION. Caddies (R144, R145, R153 to R161): load, library, residence, unload, query. -/

namespace Sys2Proof.Machine

open Sys2Proof

def findCaddy (s : State) (i : Nat) : Option Caddy := s.tab.caddies.find? (fun c => c.index == i)
def updCaddy (s : State) (i : Nat) (f : Caddy → Caddy) : State :=
  s.updTab (fun t => { t with caddies := updWhere (fun c => c.index == i) f t.caddies })

/-- The digit width: ⌈2P / DNUM⌉ (R145). -/
def digitWidth (p dnum : Nat) : Nat := ceilDiv (2 * p) dnum

/-- The directory entry and seed of key k of an image (R153). -/
def keyEntryOf (b : List Byte) (k : Nat) : KeyEntry :=
  let o := 0x40 + 16 * k
  { kkind := leAt b o 1, log2n := leAt b (o + 1) 1, digits := leAt b (o + 2) 1, limbs := leAt b (o + 3) 1,
    galois := field (leAt b (o + 4) 4) 0 18, offset := leAt b (o + 8) 8,
    seed := (b.drop (0x40 + 16 * leAt b 0x10 2 + 32 * k)).take 32 }

def keysOf (b : List Byte) : List KeyEntry := (List.range (leAt b 0x10 2)).map (keyEntryOf b)

/-- The bytes of a key's pieces (R153). -/
def KeyEntry.span (k : KeyEntry) : Nat := k.digits * k.limbs * 4 * 2 ^ k.log2n

/-- The shape a kind must have at load (table Key kind encoding), RELIN and GALOIS aside (check 7). -/
def kindShapeOk (p ksp log2n : Nat) (k : KeyEntry) : Bool :=
  match k.kkind with
  | 1 => k.galois == 0
  | 2 => k.galois % 2 == 1 && decide (3 ≤ k.galois) && decide (k.galois ≤ 2 * 2 ^ log2n - 1)
  | 3 => k.galois == 0 && k.digits == 1 && k.limbs == 2 + ksp
  | 4 => k.galois == 0 && k.digits == 1 && k.limbs == 48 && decide (48 ≤ 2 * p)
  | 5 => k.galois == 0 && k.digits % 2 == 0 && k.limbs % 2 == 0
  | _ => false

/-- What may occur once: the kind, with the Galois element or the ring where the table says so. -/
def kindName (k : KeyEntry) : Nat × Nat :=
  (k.kkind, if k.kkind = 2 then k.galois else if k.kkind = 3 then k.log2n else 0)

def keyRangesOk (b : List Byte) (i : Nat) (k : KeyEntry) : Bool :=
  decide (10 ≤ k.log2n) && decide (k.log2n ≤ 17) && decide (1 ≤ k.digits) && decide (k.digits ≤ 8) &&
    decide (1 ≤ k.limbs) && decide (k.limbs ≤ 80) && field (leAt b (0x44 + 16 * i) 4) 18 14 == 0 && k.offset % 4096 == 0

/-- No two of the ranges (start, length) overlap. -/
def disjointRanges : List (Nat × Nat) → Bool
  | [] => true
  | r :: l => l.all (fun x => decide (r.1 + r.2 ≤ x.1) || decide (x.1 + x.2 ≤ r.1)) && disjointRanges l

/-- The tag is in use: by a caddy of this device, or elsewhere in the tree under another DIGEST (R154, R361). -/
def tagInUse (s : State) (tag : Nat) (digest : Digest) : Bool :=
  s.tab.caddies.any (fun c => c.tag.toNat == tag) ||
    s.fab.tags.any (fun t => t.2.2.1.toNat == tag && t.2.2.2 != digest)

/-- Library extents that hold no caddy, lowest first (R156). -/
def freeLibraryExtents (s : State) : List Nat :=
  ((s.far.owners.filter (fun o => o.2 == libraryOwner)).map (·.1)).filter
    (fun e => !s.tab.caddies.any (fun c => c.extents.contains e))

def extentsFor (len : Nat) : Nat := ceilDiv len extentBytes

/-- The checks of R154 in order: the number of the first that fails. -/
def caddyCheck (s : State) (b : List Byte) : Option Nat :=
  let chain := findChain s (leAt b 6 2)
  let p := (chain.map (·.pairs.length)).getD 0
  let ksp := (chain.map (·.special.length)).getD 0
  let keys := keysOf b
  let image := b.take 0x20 ++ zeros 32 ++ b.drop 0x40
  firstSome
    [ failIf (leAt b 0 2 != 0x4B43 || leAt b 2 1 != 1 || leAt b 5 1 != 0 || leAt b 0x12 6 != 0 || leAt b 0x1E 2 != 0) 1,
      failIf (sha3_256 image != (b.drop 0x20).take 32) 2,
      failIf (match chain with
        | none => true
        | some c => decide (leAt b 4 1 < 12) || decide (c.log2nMax < leAt b 4 1)) 3,
      failIf (decide (leAt b 3 1 < 1) || decide (8 < leAt b 3 1) ||
        ceilDiv (2 * p) (digitWidth p (leAt b 3 1)) != leAt b 3 1) 4,
      failIf (decide (leAt b 0x10 2 < 1) || decide (4096 < leAt b 0x10 2) || decide (2 ^ 40 < leAt b 0x18 6) ||
        decide (leAt b 0x18 6 < 0x40 + 48 * leAt b 0x10 2)) 5,
      failIf (!(keys.zipIdx.all (fun k => keyRangesOk b k.2 k.1 && kindShapeOk p ksp (leAt b 4 1) k.1)) ||
        !decide (keys.map kindName).Nodup) 6,
      failIf (!keys.all (fun k => (k.kkind != 1 && k.kkind != 2) ||
        (k.log2n == leAt b 4 1 && k.digits == leAt b 3 1 && k.limbs == 2 * p + ksp))) 7,
      failIf (!keys.all (fun k => decide (0x40 + 48 * leAt b 0x10 2 ≤ k.offset) && decide (k.offset + k.span ≤ leAt b 0x18 6)) ||
        !disjointRanges (keys.map (fun k => (k.offset, k.span)))) 8,
      failIf (leAt b 8 8 == 0 || tagInUse s (leAt b 8 8) (digestOf ((b.drop 0x20).take 32))) 9,
      failIf (decide (1024 ≤ s.tab.caddies.length) ||
        decide ((freeLibraryExtents s).length < extentsFor (leAt b 0x18 6))) 10 ]

/-- The status and DETAIL of a failing check (R325). -/
def caddyFailure (n : Nat) : Nat × Nat :=
  if n = 2 then (stDigest, 0) else if n = 9 then (stTagInUse, 0) else if n = 10 then (stNoRoom, 4) else (stInvalidImage, n)

/-- The far address of a byte of a caddy's library copy. -/
def Caddy.addr (c : Caddy) (off : Nat) : Nat := c.extents.getD (off / extentBytes) 0 * extentBytes + off % extentBytes

/-- The image written into its extents, block checks computed (R156). -/
def storeImage (s : State) (extents : List Nat) (b : List Byte) : State :=
  extents.zipIdx.foldl (fun s e => deviceWrite s (e.1 * extentBytes) ((b.drop (e.2 * extentBytes)).take extentBytes)) s

def caddyOf (s : State) (rq : MbxReq) (b : List Byte) (index : Nat) : Caddy :=
  { index := index, st := .loading, tag := BitVec.ofNat 64 (leAt b 8 8), chainId := leAt b 6 2, dnum := leAt b 3 1,
    log2n := leAt b 4 1, serial := ((findChain s (leAt b 6 2)).map (·.serial)).getD 0, marked := false, keys := keysOf b,
    imageLen := leAt b 0x18 6, digest := digestOf ((b.drop 0x20).take 32),
    extents := (freeLibraryExtents s).take (extentsFor (leAt b 0x18 6)), streamed := 0, copying := false,
    loadPort := rq.port, loadBox := rq.box }

/-- A load: the length comparison and the checks of R154; a load that passes them is LOADING, holds its tag and its
CADDY_INDEX, and answers when it is done (R155 to R157, R323). -/
def execCaddyLoad (rq : MbxReq) (s : State) : Result :=
  mailbox s (loadSpec 0x0022) rq (fun t body =>
    match hostImage t rq.port body with
    | none => .fail t stHostAccess
    | some b =>
      if b.length < 0x1E || leAt b 0x18 6 != b.length then .fail t stBadField 8
      else match caddyCheck t b with
        | some n => .fail t (caddyFailure n).1 (caddyFailure n).2
        | none =>
          match lowestFree 1024 (t.tab.caddies.map (·.index)) with
          | none => .fail t stNoRoom 4
          | some i =>
            let c := caddyOf t rq b i
            .stay ((storeImage t c.extents b).updTab (fun v => { v with caddies := insertBy (·.index) c v.caddies })))

/-- The library copy is complete: LIBRARY, and the response posts (R157, R324). -/
def execCaddyLoadDone (caddy : Nat) (s : State) : Result :=
  .next (match findCaddy s caddy with
    | some c =>
      if c.st = .loading then
        respondTo (updCaddy s caddy (fun c => { c with st := .library })) c.loadPort c.loadBox stOk 0
          (leBytes 2 caddy ++ leBytes 2 0)
      else s
    | none => s)

/-- A live job binds the caddy. -/
def caddyBound (s : State) (i : Nat) : Bool := s.tab.jobs.any (fun j => j.binds.contains i)

/-- A caddy that a name finds: loaded, and not still LOADING (R160). -/
def loadedCaddy (s : State) (i : Nat) : Option Caddy := (findCaddy s i).filter (fun c => c.st != .loading)

/-- Drop the near copy of a caddy (R159). -/
def dropNear (s : State) (i : Nat) : State := s.updNear (fun n => { n with pieces := n.pieces.filter (fun p => p.caddy != i) })

/-- Every die's cache entries of a caddy are invalidated (R160). -/
def dropCached (s : State) (i : Nat) : State :=
  { s with dies := s.dies.map (fun d => (d.1, { d.2 with cache := d.2.cache.filter (fun e => e.piece.caddy != i) })) }

def execCaddyUnload (rq : MbxReq) (s : State) : Result :=
  mailbox s (nameSpec 0x0023) rq (fun t b =>
    match loadedCaddy t (leAt b 0 2) with
    | none => .fail t stNotFound 0
    | some c =>
      if caddyBound t c.index then .fail t stInUse
      else .ok ((dropNear (dropCached t c.index) c.index).updTab (fun v =>
        { v with caddies := v.caddies.filter (fun x => x.index != c.index) })))

def CaddySt.code : CaddySt → Nat
  | .loading => 1
  | .library => 2
  | .resident => 3

/-- The response of CADDY_QUERY; an index below 1,024 that no caddy holds is ABSENT (log 20), one still LOADING is not
found (R160). -/
def execCaddyQuery (rq : MbxReq) (s : State) : Result :=
  mailbox s (nameSpec 0x0024) rq (fun t b =>
    match findCaddy t (leAt b 0 2) with
    | none => if leAt b 0 2 < 1024 then .okWith t (zeros 24) else .fail t stNotFound 0
    | some c =>
      if c.st = .loading then .fail t stNotFound 0
      else .okWith t (leBytes 1 c.st.code ++ leBytes 1 0 ++ leBytes 2 c.chainId ++
        leBytes 2 (t.tab.jobs.filter (fun j => j.binds.contains c.index)).length ++ leBytes 2 0 ++
        leBytes 8 c.tag.toNat ++ leBytes 6 c.imageLen ++ leBytes 2 0))

/-! Residence (R158, R159, R161). -/

def nearRoom : Nat := 22 * 2 ^ 30

/-- The bytes of each piece of a caddy by piece number: directory order, digit, limb (R158). -/
def Caddy.pieceSizes (c : Caddy) : List Nat := c.keys.flatMap (fun k => List.replicate (k.digits * k.limbs) (4 * 2 ^ k.log2n))

/-- Near stacks that hold pieces: not lost, their root in service. -/
def nearStacks (s : State) : List Nat :=
  (List.range 4).filter (fun n => !s.near.lost.contains n && !s.near.rootOut.contains (if n < 2 then .h0 else .h1))

/-- Piece number m lies on the (m mod 4)-th stack; with stacks lost, on the (m mod n)-th of those left (R158, R161). -/
def stackOfPiece (left : List Nat) (m : Nat) : Nat := left.getD (m % left.length) 0

/-- The bytes a caddy needs on one near stack. -/
def Caddy.needOn (left : List Nat) (stack : Nat) (c : Caddy) : Nat :=
  (c.pieceSizes.zipIdx.filter (fun p => stackOfPiece left p.2 == stack)).foldl (fun a p => a + p.1) 0

def Caddy.isNear (c : Caddy) : Bool := c.st == .resident || c.copying

/-- The bytes resident pieces take on a near stack, those of some caddies aside. -/
def nearUse (s : State) (gone : List Nat) (n : Nat) : Nat :=
  ((s.near.pieces.filter (fun p => p.stack == n && !gone.contains p.caddy)).map (·.data.length)).foldl (· + ·) 0

/-- With some caddies gone, the pieces of others still to come fit beside what is resident (R158). -/
def nearFits (s : State) (coming : List Caddy) (gone : List Nat) : Bool :=
  let left := nearStacks s
  left.all (fun n => decide (nearUse s gone n +
    ((coming.filter (fun c => !gone.contains c.index)).map (Caddy.needOn left n)).foldl (· + ·) 0 ≤ nearRoom))

/-- Evict, least recently streamed first, until what is to come fits; none when it never does (R159). -/
def evictFor (fits : List Nat → Bool) : List Nat → List Caddy → Option (List Nat)
  | gone, [] => if fits gone then some [] else none
  | gone, v :: r => if fits gone then some [] else (evictFor fits (gone ++ [v.index]) r).map (v.index :: ·)

/-- The caddies to evict so that those a job binds become RESIDENT; one that is RESIDENT needs no room (R159). -/
def residencePlan (s : State) (binds : List Nat) : Option (List Nat) :=
  let coming := s.tab.caddies.filter (fun c => c.st != .resident && (c.copying || binds.contains c.index))
  let free := s.tab.caddies.filter (fun c => c.isNear && !binds.contains c.index && !caddyBound s c.index)
  if coming.all (fun c => !binds.contains c.index) then some []
  else evictFor (nearFits s coming) [] (sortBy (·.streamed) free)

def evictCaddy (s : State) (i : Nat) : State := updCaddy (dropNear s i) i (fun c => { c with st := .library, copying := false })

/-- The copy of a bound caddy into the near tier starts (R159). -/
def startCopy (s : State) (i : Nat) : State :=
  updCaddy s i (fun c => if c.st = .library then { c with copying := true } else c)

/-- The byte offset of each piece in the image, by piece number (R153, R158). -/
def Caddy.pieceOffsets (c : Caddy) : List (Nat × Nat) :=
  c.keys.flatMap (fun k => (List.range (k.digits * k.limbs)).map (fun i => (k.offset + i * 4 * 2 ^ k.log2n, 4 * 2 ^ k.log2n)))

/-- The bytes of a piece in the library copy. -/
def libraryPiece (s : State) (c : Caddy) (off len : Nat) : List Byte :=
  ((List.range (ceilDiv len blockBytes)).flatMap (fun i => (s.far.readBlock (c.addr (off + i * blockBytes) / blockBytes)).1)).take len

/-- The tags of a piece's blocks in the library copy. -/
def libraryTags (s : State) (c : Caddy) (off len : Nat) : List BlockTag :=
  (List.range (ceilDiv len blockBytes)).map (fun i => s.far.tag (c.addr (off + i * blockBytes) / blockBytes))

/-- A near copy of a piece on a stack, as the library gives it: its blocks keep their tags (R292, R297). -/
def nearCopy (s : State) (c : Caddy) (number stack : Nat) (piece : Nat × Nat) : NearPiece :=
  { caddy := c.index, number := number, stack := stack, data := libraryPiece s c piece.1 piece.2
    tags := libraryTags s c piece.1 piece.2 }

/-- Block i of a near copy passes its check (R171, R297). -/
def NearPiece.passes (p : NearPiece) (i : Nat) : Bool :=
  let t := p.tags.getD i {}
  match t.st with
  | .checked => crc32c ((p.data.drop (i * blockBytes)).take blockBytes) == t.check
  | .opened => true
  | .never | .stale => false

/-- Every block of a near copy passes. -/
def NearPiece.whole (p : NearPiece) : Bool := (List.range p.tags.length).all p.passes

/-- Place a caddy's pieces on near stacks (R158). -/
def placePieces (s : State) (c : Caddy) : State :=
  let left := nearStacks s
  let placed : List NearPiece := c.pieceOffsets.zipIdx.map (fun o => nearCopy s c o.2 (stackOfPiece left o.2) o.1)
  if left.isEmpty then s
  else s.updNear (fun n => { n with pieces := n.pieces.filter (fun p => p.caddy != c.index) ++ placed })

/-- The copy into the near tier is complete: RESIDENT (R157). -/
def execCaddyResident (caddy : Nat) (s : State) : Result :=
  .next (match findCaddy s caddy with
    | some c =>
      if c.copying then updCaddy (placePieces s c) caddy (fun c => { c with st := .resident, copying := false }) else s
    | none => s)

/-- The caddies a job binds are RESIDENT: its commands may dispatch (R159). -/
def bindsResident (s : State) (j : Job) : Bool :=
  j.binds.all (fun i => match findCaddy s i with
    | some c => c.st == .resident
    | none => false)

end Sys2Proof.Machine
end

