-- ==== Sys2Proof/Machine/Pairs.lean ====
section
/-! DEFINITION. Lock-step comparison (R371 to R374): the records a command sends its peer, their comparison, DIVERGED. -/

namespace Sys2Proof.Machine

open Sys2Proof

/-- The comparison records of a command that has ended: each far block it leaves CHECKED, in ascending order (R372). -/
def compareRecords (s : State) (c : Cmd) : List CmpRec :=
  ((sortBy (fun b => b) (c.blocks.map (·.1))).filter (fun b => (s.far.tag b).st == .checked)).map (fun b =>
    { serial := c.serial.toNat, block := b, check := (s.far.tag b).check })

/-- A command is compared when its job is paired, not DIVERGED, and comparison had begun before its dispatch (R371). -/
def compares (j : Job) (c : Cmd) : Bool :=
  match j.pair.bind (·.fromSerial) with
  | some n => !j.diverged && decide ((c.serial.toNat + 2 ^ 32 - n) % 2 ^ 32 < 2 ^ 31)
  | none => false

/-- The unmatched records a device holds per job (R373). -/
def unmatchedMax : Nat := 1048576

/-- A command's completion is held: its records and those that wait for their match are more than a device holds. A command whose own
records alone are more completes once none waits (R373, log 89). -/
def compareHeld (s : State) (j : Job) (c : Cmd) : Bool :=
  match j.pair with
  | some p => compares j c && !p.own.isEmpty && decide (unmatchedMax < p.own.length + (compareRecords s c).length)
  | none => false

/-- A device has written all records of a serial: the command has been dispatched and runs no more. -/
def recordsWhole (s : State) (j : Job) (serial : Nat) : Bool :=
  decide ((j.nextSerial.toNat + 2 ^ 32 - 1 - serial) % 2 ^ 32 < 2 ^ 31) &&
    !s.tab.queues.any (fun q => q.job == j.id && q.cmds.any (fun c =>
      c.serial.toNat == serial && (c.phase == .running || c.phase == .waiting)))

/-- Received records matched against the device's own, the first of each serial first: what stays of both, and the serial
and block of the first mismatch, a block that only one device wrote included (R372, R374). -/
def pairRun (whole : Nat → Bool) : List CmpRec → List CmpRec → List CmpRec → List CmpRec × List CmpRec × Option (Nat × Nat)
  | own, kept, [] => (own, kept, none)
  | own, kept, t :: r =>
    if kept.any (fun k => k.serial == t.serial) then pairRun whole own (kept ++ [t]) r
    else match own.find? (fun o => o.serial == t.serial) with
      | none => if whole t.serial then (own, kept, some (t.serial, t.block)) else pairRun whole own (kept ++ [t]) r
      | some o => if o = t then pairRun whole (own.erase o) kept r else (own, kept, some (t.serial, min o.block t.block))

/-- A block of the device's own that the peer has not written: its command's records from the peer are over (R374). -/
def missingRecord (ended : List Nat) (own theirs : List CmpRec) : Option (Nat × Nat) :=
  (own.find? (fun o => ended.contains o.serial && !theirs.any (fun t => t.serial == o.serial))).map (fun o => (o.serial, o.block))

/-- A pair has diverged: the job status and the event; comparison stops (R374). -/
def diverge (s : State) (job : Nat) (arg1 : Nat) : State :=
  postBoth (updJob s job (fun j => { j with diverged := true })) { code := 0x0013, job := job, arg1 := arg1 }

/-- Commands of a job with no record left to match may post (R373). -/
def releaseCompared (s : State) (job : Nat) (own : List CmpRec) : State :=
  s.updTab (fun t => { t with queues := updWhere (fun q => q.job == job) (fun q => { q with
    cmds := updWhere (fun c => !own.any (fun o => o.serial == c.serial.toNat)) (fun c => { c with compared := true }) q.cmds }) t.queues })

/-- What has arrived and what the device has written are compared as far as both go (R372 to R374). -/
def settlePair (s : State) (job : Nat) : State :=
  match findJob s job with
  | none => s
  | some j => match j.pair with
    | none => s
    | some p =>
      if j.diverged then s
      else
        let (own, theirs, bad) := pairRun (recordsWhole s j) p.own [] p.theirs
        let s := updJob s job (fun j => { j with pair := some { p with
          own := own, theirs := theirs, ended := p.ended.filter (fun n => !recordsWhole s j n || own.any (·.serial == n)) } })
        match bad <|> missingRecord p.ended own theirs with
        | some (serial, block) => diverge s job (serial + 2 ^ 32 * block)
        | none => releaseCompared s job own

/-- Both devices have answered their FAB_PAIR: comparison begins with the next command of the job (R371). -/
def beginPairing (s : State) (job : Nat) : State :=
  updJob s job (fun j => { j with peerPaired := true, pair := j.pair.map (fun p =>
    { p with fromSerial := p.fromSerial <|> some j.nextSerial.toNat }) })

/-- The peer's job is destroyed: the pairing ends, and nothing waits for its records (R371). -/
def dropPairing (s : State) (job : Nat) : State :=
  releaseCompared (updJob s job (fun j => { j with peerPaired := false, pair := none })) job []

/-- A record of the peer: of a serial other than the last, it ends the records of that one (R372, R374). -/
def Pairing.hear (p : Pairing) (r : CmpRec) : Pairing :=
  { p with theirs := if p.theirs.length < unmatchedMax then p.theirs ++ [r] else p.theirs
           last := some r.serial
           ended := match p.last with
             | some n => if n = r.serial || p.ended.contains n then p.ended else p.ended ++ [n]
             | none => p.ended }

/-- The 16 bytes of a comparison record (R372). -/
def cmpBytes (r : CmpRec) : List Byte := leBytes 4 r.serial ++ leBytes 4 r.block ++ leBytes 4 r.check.toNat ++ zeros 4

/-- The records of a command that has ended go to the peer and wait for theirs. -/
def sendRecords (s : State) (num : Nat) (j : Job) (c : Cmd) : State :=
  match j.pair with
  | none => s
  | some p =>
    if !compares j c then s
    else
      let rs := compareRecords s c
      let s := updJob s j.id (fun x => { x with pair := x.pair.map (fun p => { p with own := p.own ++ rs }) })
      let s := updCmd s num (isSerial c.serial.toNat) (fun c => { c with compared := rs.isEmpty })
      settlePair (rs.foldl (fun s r => transmit s p.port classCmp (cmpBytes r)) s) j.id

/-- A command ends with a status, its records on their way to the peer of its job (R372, R402). -/
def endCmd (s : State) (num serial status detail : Nat) : State :=
  let s := finish s num serial status detail
  match findQueue s num with
  | none => s
  | some q => match findJob s q.job, findCmd s num serial with
    | some j, some c => sendRecords s num j c
    | _, _ => s

end Sys2Proof.Machine
end

