-- ==== Sys2Proof/Machine/Cores.lean ====
section
/-! DEFINITION. Physical cores (R413 to R416): retirement, the spare that takes a logical core, the move of CORE_RETIRE; held steps that
are abandoned (R410). -/

namespace Sys2Proof.Machine

open Sys2Proof

def PhysSt.code : PhysSt → Nat
  | .serving => 0
  | .spare => 1
  | .retired => 2
  | .testing => 3
  | .failed => 4

/-- A core is retired: its third retirement makes it FAILED at once (R414). A FAILED core is Off, a retired one waits in
Sleep (R464). -/
def retirePhys (s : State) (p : Nat) : State :=
  let n := (s.physCore p).retirements + 1
  let clock := s.tab.retireClock
  let s := s.updPhys p (fun c => { c with
    st := if 3 ≤ n then .failed else .retired, retirements := min n 255, retireOrder := clock, logical := none
    power := if 3 ≤ n then .off else .sleep, waking := .no, leaving := none, fencing := false })
  let s := s.updTab (fun t => { t with retireClock := clock + 1 })
  let s := updLife s (fun l => { l with coresRetired := lifeInc l.coresRetired })
  let s := noteRepair s 2 p 0
  if 3 ≤ n then noteRepair s 4 p 0 else s

/-- A spare takes a logical core and wakes for it (R15, R416). -/
def seatSpare (s : State) (p c : Nat) : State :=
  s.updPhys p (fun x => { x with st := .serving, logical := some c, since := s.now, taking := true })

/-- A held step begins that its action retries at once: whether it ends within its bound before a third abandonment, and the state
from which it runs (R410, log 22). -/
def heldStep (s : State) : Bool × State :=
  (decide (s.dev.late < 3), s.updDev (fun d => { d with late := if d.late < 3 then 0 else d.late - 3 }))

/-- The CORE_RETIRE of a physical core is over. -/
def endRetire (s : State) (p : Nat) : State := s.updDev (fun d => { d with retiring := d.retiring.filter (fun r => r.1 != p) })

/-- The scratchpad of a logical core with no task moves to a spare; the old core is RETIRED (R416). A third abandonment of the move ends
the command (R410). -/
def moveCore (s : State) (p c : Nat) (port : Port) (box : Nat) : State :=
  let s := endRetire s p
  match spareOf s (dieOfCore c) with
  | none => respondTo s port box stInUse 0 []
  | some q =>
    if !(heldStep s).1 then respondTo (heldStep s).2 port box stAborted 0x05 []
    else
      let s := (heldStep s).2
      let woken := (s.physCore p).power
      let s := (seatSpare (retirePhys s p) q c).updPhys q (fun x => { x with power := woken, taking := false })
      respondTo (noteExhausted (refreshState s) (dieOfCore c)) port box stOk 0 []

/-- A CORE_RETIRE whose logical core has no task left proceeds (R416). -/
def settleRetire (s : State) (c : Nat) : State :=
  if !(s.core c).slots.isEmpty then s
  else match s.dev.retiring.find? (fun r => (s.physCore r.1).logical == some c) with
    | some (p, port, box) => moveCore s p c port box
    | none => s

/-- Every CORE_RETIRE whose logical core has lost its last task, however it ended, proceeds. -/
def settleRetires (s : State) : State :=
  (s.dev.retiring.filterMap (fun r => (s.physCore r.1).logical)).foldl settleRetire s

/-- A core on its way out by CORE_RETIRE is lost: the command ends with the class of the fault (log 26). -/
def dropRetire (s : State) (p cls : Nat) : State :=
  match s.dev.retiring.find? (fun r => r.1 == p) with
  | some (_, port, box) => respondTo (endRetire s p) port box stAborted cls []
  | none => s

end Sys2Proof.Machine
end

