-- ==== Sys2Proof/Machine/Scratch.lean ====
section
/-! DEFINITION. Scratchpads: blocks and their checks (R72, R74), and addresses that name either a scratchpad or the far
tier (R388). -/

namespace Sys2Proof.Machine

open Sys2Proof

def scratchBase : Nat := 0xFFFFFE0000000000

/-- A byte of the scratchpad as an address (R388). -/
def scratchAddr (core off : Nat) : Nat := scratchBase + core * 2 ^ 24 + off

/-- The handle entry a number of a task's binding list stands for (R62, R207). -/
def Task.entryOf (t : Task) (h : Nat) : Nat := if t.owned.contains h then h + t.shift else h

/-- The entry behind a handle number of the task in a slot. -/
def CoreCtx.entry (c : CoreCtx) (slot h : Nat) : Handle :=
  tabGet {} c.handles (((tabGet? c.slots slot).map (fun t => t.entryOf h)).getD h)

/-- A block of a core's scratchpad and whether its check in the side array holds. -/
def scratchBlock (c : CoreCtx) (blk : Nat) : List Byte × Bool :=
  let b := memReadN c.scratch (blk * blockBytes) blockBytes
  (b, (tabGet? c.sideBad blk).isNone && crc32c b == tabGet 0 c.side blk)

/-- A range of byte positions joined to ranges kept apart and in rising order. -/
def joinRange (lo hi : Nat) : List (Nat × Nat) → List (Nat × Nat)
  | [] => [(lo, hi)]
  | (a, b) :: r =>
    if hi < a then (lo, hi) :: (a, b) :: r
    else if b < lo then (a, b) :: joinRange lo hi r
    else joinRange (min lo a) (max hi b) r

/-- The part of a run that lies in a block, as positions within the block. -/
def runInBlock (blk : Nat) (run : Nat × List Byte) : Option (Nat × Nat) :=
  let lo := max run.1 (blk * blockBytes)
  let hi := min (run.1 + run.2.length) ((blk + 1) * blockBytes)
  if lo < hi then some (lo - blk * blockBytes, hi - blk * blockBytes) else none

/-- The blocks runs of bytes touch. -/
def runBlocks (runs : List (Nat × List Byte)) : List Nat := (runs.flatMap (fun r => blocksOf r.1 r.2.length)).eraseDups

/-- Writes to a scratchpad: a block written whole gets its check; one written in part has an invalid check until every byte
of it has been written since (R74). -/
def CoreCtx.store (c : CoreCtx) (runs : List (Nat × List Byte)) : CoreCtx :=
  let c := { c with scratch := runs.foldl (fun m r => memWriteN m r.1 r.2) c.scratch }
  (runBlocks runs).foldl (fun c b =>
    let parts := (runs.filterMap (runInBlock b)).foldl (fun acc r => joinRange r.1 r.2 acc) ((tabGet? c.sideBad b).getD [])
    if parts = [(0, blockBytes)] then
      { c with side := tabPut 0 c.side b (crc32c (memReadN c.scratch (b * blockBytes) blockBytes))
               sideBad := tabErase c.sideBad b }
    else { c with sideBad := tabSet c.sideBad b parts }) c

/-- The part of a run inside a mirrored buffer, at its place in the copy. -/
def MirrorBuf.part (m : MirrorBuf) (run : Nat × List Byte) : Option (Nat × List Byte) :=
  let lo := max run.1 m.base
  let hi := min (run.1 + run.2.length) (m.base + m.length)
  if lo < hi then some (lo - m.base + m.buddyBase, (run.2.drop (lo - run.1)).take (hi - lo)) else none

/-- Bytes written to a core's scratchpad, by whichever core: what falls into a mirrored buffer of it is written to the copy
too (R83). -/
def State.storeScratch (s : State) (core : Nat) (runs : List (Nat × List Byte)) : State :=
  ((s.core core).mirrors.filter (fun m => !m.lost)).foldl (fun s m => s.updCore m.buddy (fun c => c.store (runs.filterMap m.part)))
    (s.updCore core (fun c => c.store runs))

/-- Bytes written by the device at an address of a scratchpad or of the far tier. -/
def writeAnywhere (s : State) (a : Nat) (bs : List Byte) : State :=
  if scratchBase ≤ a then
    s.storeScratch ((a - scratchBase) / 2 ^ 24) [((a - scratchBase) % 2 ^ 24, bs)]
  else deviceWrite s a bs

/-- Bytes as stored at such an address. -/
def readAnywhere (s : State) (a n : Nat) : List Byte :=
  if scratchBase ≤ a then memReadN (s.core ((a - scratchBase) / 2 ^ 24)).scratch ((a - scratchBase) % 2 ^ 24) n
  else (farRead s.far a n).1

end Sys2Proof.Machine
end

