-- ==== Sys2Proof/Machine/Commands.lean ====
section
/-! DEFINITION. The end of a queue's commands: pins released (R249), aborts (R400 to R402), cancels (R341). -/

namespace Sys2Proof.Machine

open Sys2Proof

/-- What a boundary command holds before it has an OP_SERIAL it holds under this number (R245 to R247). -/
def boundarySerial : Nat := 2 ^ 32

/-- Every core. -/
def mapCores (s : State) (f : CoreCtx → CoreCtx) : State :=
  { s with cores := (s.cores.map (fun c => (c.1, f c.2))).filter (fun c => c.2 != {}) }

def mapDies (s : State) (f : DieState → DieState) : State :=
  { s with dies := (s.dies.map (fun d => (d.1, f d.2))).filter (fun d => d.2 != {}) }

/-- A command gives up its pins and its reads; an entry with neither pin nor reader left is freed (R167, R168). -/
def unpin (num serial : Nat) (cache : List CacheEntry) : List CacheEntry :=
  (cache.map (fun e => { e with pins := e.pins.filter (· != (num, serial))
                                readers := e.readers.filter (fun r => !(r.1 == num && r.2.1 == serial)) })).filter
    (fun e => !(e.pins.isEmpty && e.readers.isEmpty))

/-- A piece that another live command reads. -/
def neededElsewhere (s : State) (num serial : Nat) (p : PieceId) : Bool :=
  s.tab.queues.any (fun q => q.cmds.any (fun c => c.phase != .completed &&
    !(q.num == num && isSerial serial c) && c.pieces.contains p))

/-- Pins, reads and keep masks of a command are released, its pieces not yet sent are dropped (R249, R400). -/
def releaseKeys (s : State) (num serial : Nat) (pieces : List PieceId) : State :=
  let gone := pieces.filter (fun p => !neededElsewhere s num serial p)
  let s := mapDies s (fun d => { d with cache := unpin num serial d.cache, keep := d.keep.filter (fun p => !gone.contains p) })
  s.updKey (fun k => { k with sendList := k.sendList.filter (fun i =>
    !(i.queue == num && i.serial == serial) || neededElsewhere s num serial i.piece) })

/-- A task or claim of a command: its job and serial. -/
def ofCommand (job serial : Nat) (t : Task) : Bool := t.job == job && t.claim.opSerial == serial

/-- Running tasks are fenced: their slots, what they have in flight, the held claims (R389, R400). -/
def fenceTasks (job num serial : Nat) (c : CoreCtx) : CoreCtx :=
  let gone := (c.slots.filter (fun t => ofCommand job serial t.2)).map (·.1)
  { c with
    slots := c.slots.filter (fun t => !ofCommand job serial t.2)
    flight := c.flight.filter (fun i => !gone.contains i.slot)
    accums := c.accums.filter (fun a => !(a.queue == num && a.serial == serial))
    mirrors := c.mirrors.filter (fun m => !(m.queue == num && m.serial == serial))
    held := c.held.filter (fun h => !(h.1 == num && h.2.opSerial == serial)) }

/-- The accumulator buffers of a command are set to zero, their mirror copies too, uncommitted (R82). -/
def zeroAccums (s : State) (num serial : Nat) : State :=
  (s.cores.flatMap (fun c => (c.2.accums.filter (fun a => a.queue == num && a.serial == serial)).map (fun a =>
    (c.1, a.bind.base, a.bind.length)))).foldl (fun s x => s.storeScratch x.1 [(x.2.1, zeros x.2.2)]) s

/-- Every destination the command had begun to write takes a header in STALE with cause FAULT (R53, R401). -/
def staleDests (s : State) (job : Nat) (dests : List (Nat × List Byte)) : State :=
  dests.foldl (fun s d => countOriginated (writeAnywhere s d.1 (staleHeader d.2)) job cFault) s

/-- The payload ranges a command has written in the far tier: every range but those of headers. -/
def payloadRanges (c : Cmd) : List (Nat × Nat) :=
  (c.blocks.flatMap (fun b => b.2.map (fun r => (b.1 * blockBytes + r.1, r.2 - r.1)))).filter
    (fun r => !c.dests.any (fun d => decide (r.1 ≤ d.1) && decide (d.1 < r.1 + r.2) && decide (r.2 ≤ 64)))

/-- Far blocks of a destination that were written in part fail their check on the next load (R53). A header lies in a block of its own
(R182), which takes the abort's header in one write. -/
def stalePartial (s : State) (c : Cmd) : State :=
  (c.blocks.filter (fun b => b.2 != [(0, blockBytes)] &&
      !c.dests.any (fun d => d.1 / blockBytes == b.1))).foldl
    (fun s b => s.updFar (fun f => f.setTag b.1 { f.tag b.1 with st := .stale })) s

/-- Free bytes over a range of the far tier (R220, log 2). -/
def scrambleRange (s : State) (r : Nat × Nat) : State :=
  let f := freeBytes s r.2
  deviceWrite f.2 r.1 f.1

/-- The buffers that instructions under way in a command's tasks write in place: the core that holds each, none in the far tier,
with base and length. -/
def inPlaceBuffers (s : State) (job serial : Nat) : List (Option Nat × Nat × Nat) :=
  s.cores.flatMap (fun c =>
    let slots := (c.2.slots.filter (fun t => ofCommand job serial t.2)).map (·.1)
    (c.2.flight.filter (fun f => slots.contains f.slot && f.started)).flatMap (fun f =>
      let handle (h : Nat) : Handle := c.2.entry f.slot h
      ((f.writes.map handle).filter (fun h => h.valid && f.reads.any (fun x =>
        (handle x).place == h.place && (handle x).peer == h.peer && (handle x).base == h.base))).map (fun h =>
          (if h.place = 3 then none else some (if h.place = 1 then h.peer else c.1), h.base, h.length))))

/-- Free bytes over a buffer. -/
def scrambleBuffer (s : State) (b : Option Nat × Nat × Nat) : State :=
  match b.1 with
  | none => scrambleRange s b.2
  | some core =>
    let f := freeBytes s b.2.2
    f.2.storeScratch core [(b.2.1, f.1)]

/-- An in-place instruction interrupted by an abort: its buffer is undefined (R97, R107, R219 case 5, R220). -/
def scrambleInFlight (s : State) (job serial : Nat) : State := (inPlaceBuffers s job serial).foldl scrambleBuffer s

/-- An in-place operation interrupted by an abort: what it has written is undefined (R219 case 5, R220). -/
def scrambleInPlace (s : State) (c : Cmd) : State := if c.inPlace then (payloadRanges c).foldl scrambleRange s else s

/-- A die forgets the packets of a command and its part of the sequence log. -/
def dropPackets (num serial : Nat) (d : DieState) : DieState :=
  { d with sent := d.sent.filter (fun p => !(p.queue == num && p.serial == serial))
           seqLog := d.seqLog.filter (fun x => !(x.queue == num && x.serial == serial)) }

/-- Abort a command (R400, R401): placement stops, tasks are fenced, accumulator buffers discarded, pins and pre-claims
released, its packets no longer sent, begun destinations marked; the command completes with its status (R402). -/
def abortCmd (s : State) (num serial status detail : Nat) : State :=
  match findQueue s num, findCmd s num serial with
  | some q, some c =>
    if c.phase == .completed then s
    else
      let s := if c.begun then staleDests (stalePartial (scrambleInPlace s c) c) q.job c.dests else s
      let s := scrambleInFlight s q.job serial
      let s := idleAll (mapCores (zeroAccums s num serial) (fenceTasks q.job num serial)) (s.cores.map (·.1))
      let s := releaseKeys s num serial c.pieces
      let s := mapDies s (dropPackets num serial)
      let s := s.updFar (fun f => if c.phase == .waiting then { f with watches := f.watches.filter (fun w => w.queue != num) } else f)
      settleRetires (endCmd (updCmd s num (isSerial serial) (fun c => { c with tiles := [], hdrs := [] })) num serial status detail)
  | _, _ => s

/-- An entry cancelled before its dispatch has no OP_SERIAL: its record carries a free value (log 2). -/
def cancelFetched (s : State) (num : Nat) : State :=
  let n := s.freeCtr
  let s := updCmd { s with freeCtr := n + 1 } num (fun c => c.phase == .fetched)
    (fun c => { c with phase := .completed, status := stCancelled, detail := 0, serial := Config.freeWord n })
  s

/-- What a boundary command holds ahead of its dispatch is released: its pins, its pre-claims, the reads it made early, so
that its dispatch starts from nothing (R249). -/
def releaseBoundary (s : State) (num : Nat) : State :=
  match (findQueue s num).bind (fun q => q.cmds.find? (fun c => c.phase == .fetched && (c.early || !c.pieces.isEmpty))) with
  | none => s
  | some c =>
    let s := releaseKeys s num boundarySerial c.pieces
    let s := mapCores s (fun x => { x with held := x.held.filter (fun h => !(h.1 == num && h.2.opSerial == boundarySerial)) })
    updCmd s num (fun x => x.phase == .fetched)
      (fun x => { x with early := false, tiles := [], pieces := [], keyList := [], bitmap := [], boundWords := [] })

/-- QUEUE_CANCEL's effect (R341): pending entries and running commands complete with CANCELLED, a pending wait is
removed; the queue enters CANCELLED when the last record has posted. -/
def cancelQueue (s : State) (num : Nat) : State :=
  match findQueue s num with
  | none => s
  | some q =>
    let s := releaseBoundary (fetchN (ringDist q.depth q.sqFetch q.sqTail) s num) num
    let live := (((findQueue s num).map (·.cmds)).getD []).filter (fun c => c.phase == .running || c.phase == .waiting)
    let s := cancelFetched s num
    let s := live.foldl (fun s c => abortCmd s num c.serial.toNat stCancelled 0) s
    updQueue s num (fun q => Queue.settle
      { q with cancelling := true, st := if q.st == .cancelled then .cancelled else .running })

/-- A buddy is lost: each primary copy whose copy lay there continues unprotected until its operation ends, and an event says
so (R85). -/
def loseBuddy (s : State) (core : Nat) : State :=
  let here (m : MirrorBuf) : Bool := m.buddy == core && !m.lost
  ((s.cores.filter (fun c => c.2.mirrors.any here)).map (·.1)).foldl (fun s c =>
    postBoth (s.updCore c (fun c => { c with mirrors := updWhere here (fun m => { m with lost := true }) c.mirrors }))
      { code := 0x000A, arg0 := c, arg1 := core }) s

end Sys2Proof.Machine
end

