-- ==== Sys2Proof/Machine/Jobs.lean ====
section
/-! DEFINITION. Jobs (R222, R281, R287, R327 to R329). -/

namespace Sys2Proof.Machine

open Sys2Proof

/-! The request (table JOB_CREATE request). -/

def reqProgs (b : List Byte) : List Nat := (List.range (leAt b 3 1)).map (fun i => leAt b (8 + 2 * i) 2)
def reqBinds (b : List Byte) : List Nat := (List.range (leAt b 4 1)).map (fun i => leAt b (0x18 + 2 * i) 2)
def reqPeers (b : List Byte) : List Nat := (List.range 256).filter (fun p => bit (leAt b 0x38 32) p)

/-- The fields of a JOB_CREATE request (R328 check 1): a PROG_s or CADDY_i past its count that is not zero fails with
its own offset, as a reserved field does; then the sizes, then the ranges. -/
def jobRequestFault (b : List Byte) : Option (Nat × Nat) :=
  let np := leAt b 3 1
  let nb := leAt b 4 1
  firstSome
    ([failIf (leAt b 5 3 != 0) (stBadField, 5)] ++
     (List.range 8).map (fun i => failIf (decide (np ≤ i) && leAt b (8 + 2 * i) 2 != 0) (stBadField, 8 + 2 * i)) ++
     (List.range 16).map (fun i => failIf (decide (nb ≤ i) && leAt b (0x18 + 2 * i) 2 != 0) (stBadField, 0x18 + 2 * i)) ++
     [ failIf (leAt b 0 2 == 0) (stZeroSize, 0),
       failIf (np == 0) (stZeroSize, 3),
       failIf (leAt b 0 2 % 8 != 0 || decide (512 < leAt b 0 2)) (stBadField, 0),
       failIf (decide (63 < leAt b 2 1) && leAt b 2 1 != 0xFF) (stBadField, 2),
       failIf (decide (8 < np)) (stBadField, 3),
       failIf (decide (16 < nb)) (stBadField, 4),
       failIf (leAt b 2 1 == 0xFF && leAt b 0x38 32 != 0) (stBadField, 0x38) ])

/-- The lowest slot no live job holds (R327). -/
def freeSlot (s : State) : Option Nat := lowestFree 64 (s.tab.jobs.map (fun j => j.id % 64))

/-- The generation that follows in a slot: wraps after 1,023, in slot 63 after 1,022 (R327). -/
def nextGeneration (slot g : Nat) : Nat := if g = 1023 || (slot = 63 && g = 1022) then 0 else g + 1

def jobIdOf (slot g : Nat) : Nat := slot + 64 * g

def findProgram (s : State) (i : Nat) : Option Program := s.tab.programs.find? (fun p => p.index == i)

/-- Programs and caddies that are not loaded: the body offset of the first (R328 check 3). -/
def missingObject (s : State) (progs binds : List Nat) : Option Nat :=
  firstSome (progs.zipIdx.map (fun p => failIf (findProgram s p.1).isNone (8 + 2 * p.2)) ++
    binds.zipIdx.map (fun c => failIf (loadedCaddy s c.1).isNone (0x18 + 2 * c.2)))

/-- R204 for each program and each caddy (R328 check 4): the DETAIL of CHAIN_CHANGED. -/
def changedObject (s : State) (progs binds : List Nat) : Option Nat :=
  firstSome (progs.zipIdx.map (fun p => failIf ((findProgram s p.1).any (·.marked)) p.2) ++
    binds.zipIdx.map (fun c => failIf ((findCaddy s c.1).any (·.marked)) (0x0100 + c.2)))

/-- Windows a job reserves at every far-tier controller: 8 × (1 + P), P without the device's own number (R287). -/
def jobWindows (own : Nat) (j : Job) : Nat :=
  if j.rjob.isNone then 0 else 8 * (1 + (j.peers.filter (· != own)).length)

def windowsUsed (s : State) : Nat := (s.tab.jobs.map (jobWindows s.fab.devNumber)).foldl (· + ·) 0

/-- One octet more for a group: on the die that holds the fewest of it, the lowest die on a tie, that die's lowest free
octet (R222). -/
def grantOne (free got : List Nat) : Option Nat :=
  let dies := (List.range 8).filter (fun d => free.any (fun o => o / 8 == d))
  let held (d : Nat) : Nat := (got.filter (fun o => o / 8 == d)).length
  match minList (dies.map held) with
  | none => none
  | some m =>
    match dies.find? (fun d => held d == m) with
    | none => none
    | some d => free.find? (fun o => o / 8 == d)

/-- The octets of a group, one at a time (R222); none when fewer are free. -/
def grantOctets : Nat → List Nat → List Nat → Option (List Nat)
  | 0, _, got => some got
  | n + 1, free, got =>
    match grantOne free got with
    | none => none
    | some o => grantOctets n (free.filter (· != o)) (got ++ [o])

/-- The granted cores are zeroed: scratchpad, side array, scalar registers, event counters, handles (R75). -/
def zeroCores (s : State) (cores : List Nat) : State :=
  { s with cores := s.cores.filter (fun c => !cores.contains c.1) }

/-- The checks of R328 after the fields, in order. -/
def jobRefused (s : State) (b : List Byte) : Option (Nat × Nat) :=
  let progs := reqProgs b
  let binds := reqBinds b
  let rjob := leAt b 2 1
  let need := if rjob = 0xFF then 0 else 8 * (1 + ((reqPeers b).filter (· != s.fab.devNumber)).length)
  if (freeSlot s).isNone then some (stNoRoom, 8)
  else match missingObject s progs binds with
    | some off => some (stNotFound, off)
    | none =>
      match changedObject s progs binds with
      | some d => some (stChainChanged, d)
      | none =>
        if rjob != 0xFF && s.tab.jobs.any (fun j => j.rjob == some rjob) then some (stRjobInUse, 0)
        else if 2048 < windowsUsed s + need then some (stNoRoom, 3)
        else if (grantOctets (leAt b 0 2 / 8) (freeOctets s) []).isNone then some (stNoRoom, 1)
        else if (residencePlan s binds).isNone then some (stNoRoom, 2)
        else none

/-- The new job's identifier. -/
def newJobId (s : State) : Nat :=
  let slot := (freeSlot s).getD 0
  jobIdOf slot (tabGet 0 s.tab.generations slot)

/-- Create the job: octets granted and their cores zeroed, the bound caddies on their way to the near tier, the slot's
generation advanced (R75, R159, R222, R327). -/
def createJob (s : State) (b : List Byte) : State :=
  let id := newJobId s
  let slot := id % 64
  let octets := (grantOctets (leAt b 0 2 / 8) (freeOctets s) []).getD []
  let s := ((residencePlan s (reqBinds b)).getD []).foldl evictCaddy s
  let s := (reqBinds b).foldl startCopy s
  let j : Job := { id := id, group := leAt b 0 2, octets := sortBy (fun o => o) octets
                   rjob := if leAt b 2 1 = 0xFF then none else some (leAt b 2 1)
                   progs := reqProgs b, binds := reqBinds b, peers := reqPeers b }
  zeroCores (s.updTab (fun t => { t with
    jobs := insertBy (fun j => j.id % 64) j t.jobs
    generations := tabPut 0 t.generations slot (nextGeneration slot (tabGet 0 t.generations slot)) }))
    (octets.flatMap octetCores)

def execJobCreate (rq : MbxReq) (s : State) : Result :=
  mailbox s { code := 0x0030, len := some 0x58 } rq (fun t b =>
    match jobRequestFault b with
    | some (st, off) => .fail t st off
    | none =>
      match jobRefused t b with
      | some (st, d) => .fail t st d
      | none =>
        let u := createJob t b
        .okWith u (leBytes 2 (newJobId t) ++ zeros 6 ++
          leBytes 8 (octetBits (((findJob u (newJobId t)).map (·.octets)).getD []))))

/-! Destruction (R329). -/

/-- Records of a queue whose job goes, in order: each that can post posts; one that only a full completion ring holds back is
discarded (R329). -/
def drainRecords : Nat → State → Nat → State
  | 0, s, _ => s
  | n + 1, s, num =>
    match owedRecord s num with
    | some (q, c) => drainRecords n (writeRecord s q c) num
    | none => match findQueue s num with
      | none => s
      | some _ =>
        if (owedRecord (updQueue s num (fun q => { q with cqHead := q.cqIndex })) num).isSome then
          drainRecords n (updQueue s num (fun q => { q with cmds := q.cmds.drop 1 }.settle)) num
        else s

/-- A queue of a job that goes is drained as far as its records can post (R329). -/
def drainQueue (s : State) (num : Nat) : State :=
  drainRecords (((findQueue s num).map (fun q => q.cmds.length)).getD 0) s num

/-- The queues of a job. -/
def queuesOf (s : State) (id : Nat) : List Nat := (s.tab.queues.filter (fun q => q.job == id)).map (·.num)

/-- A spare takes a logical core out of service once no live job holds its octet, but for a die that a DIE_UP still tests (R415, R417); of several, the lowest logical core first
(DESIGN CHOICE, log 124: R15 and R415 name no order). -/
def takeSpares (s : State) : State :=
  (List.range 512).foldl (fun s c =>
    let d := dieOfCore c
    if (s.die d).powered && (s.die d).upBox.isNone && (physServing s c).isNone && (holderOf s c).isNone then
      match spareOf s d with
      | some p => noteExhausted (s.updPhys p (fun x => { x with st := .serving, logical := some c })) d
      | none => s
    else s) s

/-- The peer of a paired job hears that this one is destroyed: the pairing ends there too (R371, log 95). -/
def endPairing (s : State) (j : Job) : State :=
  match j.pair with
  | some p => transmit s p.port classCtrl (leBytes 2 0x0031 ++ leBytes 2 p.peerJob)
  | none => s

/-- The job goes: its queues, octets, extents, dedup windows and RJOB are freed, its caddies stop counting it (R329). -/
def removeJob (s : State) (j : Job) : State :=
  let s := s.updTab (fun t => { t with queues := t.queues.filter (fun q => q.job != j.id) })
  let es := (s.far.owners.filter (fun o => o.2 == j.id)).map (·.1)
  let s := es.foldl freeExtent s
  let s := s.updFar (fun f => { f with windows := f.windows.filter (fun w => some w.rjob != j.rjob) })
  let s := mapDies s (fun d => { d with streams := d.streams.filter (fun x => some x.rjob != j.rjob) })
  let s := endPairing s j
  let s := s.updTab (fun t => { t with jobs := t.jobs.filter (fun x => x.id != j.id) })
  let cores := j.octets.flatMap octetCores
  refreshState (takeSpares (settleRetires (parkFreed (zeroCores s cores) cores)))

/-- Every queue of a job has reached CANCELLED. -/
def queuesCancelled (s : State) (id : Nat) : Bool := s.tab.queues.all (fun q => q.job != id || q.st == .cancelled)

/-- A job destroyed at once, whatever its records wait for: its device is refused by its parent (R367). -/
def destroyJob (s : State) (j : Job) : State :=
  removeJob ((queuesOf s j.id).foldl (fun s n => drainQueue (cancelQueue s n) n) s) j

/-- A JOB_DESTROY that waits: its queues are drained, and with the last of them CANCELLED it ends with its response (R329). -/
def settleDestroy (s : State) (j : Job) : State :=
  match j.destroying with
  | none => s
  | some (p, box) =>
    let s := (queuesOf s j.id).foldl drainQueue s
    if queuesCancelled s j.id then respondTo (removeJob s j) p box stOk 0 [] else s

def settleDestroys (s : State) : State := s.tab.jobs.foldl settleDestroy s

/-- JOB_DESTROY cancels every queue of the job, discards records for want of ring room, and waits for every queue to reach CANCELLED;
meanwhile a second one finds no job (R329, R345, log 145). -/
def execJobDestroy (rq : MbxReq) (s : State) : Result :=
  mailbox s (nameSpec 0x0031) rq (fun t b =>
    match findJob t (leAt b 0 2) with
    | none => .fail t stNotFound 0
    | some j =>
      if j.destroying.isSome then .fail t stNotFound 0
      else
        let u := (queuesOf t j.id).foldl (fun s n => drainQueue (cancelQueue s n) n) t
        if queuesCancelled u j.id then .ok (removeJob u j)
        else .stay (updJob u j.id (fun j => { j with destroying := some (rq.port, rq.box) })))

/-- The 64 bytes of a job's status (table Job status). -/
def statusBody (j : Job) : List Byte :=
  leBytes 2 j.id ++ leBytes 2 ((if j.diverged then 1 else 0) + (if j.fpLapsed then 2 else 0)) ++
    leBytes 4 j.nextSerial.toNat ++ j.counters.flatMap (fun c => leBytes 4 c.toNat) ++ leBytes 4 j.bounds.toNat ++
    leBytes 4 j.dataLoss.toNat ++ leBytes 8 (octetBits j.octets) ++ zeros 16

def execJobStatus (rq : MbxReq) (s : State) : Result :=
  mailbox s (nameSpec 0x0032) rq (fun t b =>
    match findJob t (leAt b 0 2) with
    | none => .fail t stNotFound 0
    | some j => .okWith t (statusBody j))

end Sys2Proof.Machine
end

