-- ==== Sys2Proof/Machine/Queues.lean ====
section
/-! DEFINITION. Queue commands of the mailboxes (R330, R338 to R342, R347). -/

namespace Sys2Proof.Machine

open Sys2Proof

/-- Both rings lie in far memory granted to the job (R330). -/
def ringsGranted (s : State) (job log2depth sq cq : Nat) : Bool :=
  grantedTo s (fun o => o == job) sq (64 * 2 ^ log2depth) && grantedTo s (fun o => o == job) cq (16 * 2 ^ log2depth)

/-- QUEUE_CREATE (table QUEUE_CREATE request). -/
def queueCreateSpec : CmdSpec :=
  { code := 0x0040, len := some 0x20
    reserved := [(0x02, 6, 2), (0x03, 3, 5), (0x06, 5, 11), (0x1C, 0, 32)], sizes := [(0x04, 2)]
    range := fun b => firstSome
      [ failIf (decide (field (leAt b 2 1) 0 5 < 4) || decide (16 < field (leAt b 2 1) 0 5)) 0x02,
        failIf (decide (256 < leAt b 4 2)) 0x04,
        failIf (field (leAt b 6 2) 0 4 == 0) 0x06,
        failIf (leAt b 8 8 % 4096 != 0) 0x08,
        failIf (leAt b 0x10 8 % 4096 != 0) 0x10 ] }

def queueOf (b : List Byte) (num : Nat) (home : Home) : Queue :=
  { num := num, job := leAt b 0 2, log2depth := field (leAt b 2 1) 0 5, farRings := bit (leAt b 2 1) 5,
    priority := field (leAt b 3 1) 0 3, outLimit := leAt b 4 2, vector := field (leAt b 6 2) 0 4,
    intr := bit (leAt b 6 2) 4, sqBase := leAt b 8 8, cqBase := leAt b 0x10 8, flagTimeout := leAt b 0x18 4,
    home := home }

/-- A queue created by the fabric keeps its rings in far memory, its home is the fabric, INTR and VECTOR are ignored (R360);
another's home is the issuing port. -/
def createdQueue (s : State) (p : Port) (b : List Byte) (num : Nat) : Queue :=
  if onFabric s then { queueOf b num .fabric with intr := false } else queueOf b num (.port p)

def execQueueCreate (rq : MbxReq) (s : State) : Result :=
  mailbox s queueCreateSpec rq (fun t b =>
    if onFabric t && !bit (leAt b 2 1) 5 then .fail t stBadField 2
    else if (findJob t (leAt b 0 2)).all (·.destroying.isSome) then .fail t stNotFound 0
    else if bit (leAt b 2 1) 5 && !ringsGranted t (leAt b 0 2) (field (leAt b 2 1) 0 5) (leAt b 8 8) (leAt b 0x10 8) then
      .fail t stOutsideGrant
    else match lowestFree 8192 (t.tab.queues.map (·.num)) with
      | none => .fail t stNoRoom 6
      | some n =>
        .okWith (t.updTab (fun v => { v with queues := insertBy (·.num) (createdQueue t rq.port b n) v.queues }))
          (leBytes 2 n ++ leBytes 2 0))

def queueSetSpec : CmdSpec :=
  { code := 0x0041, len := some 16, reserved := [(0x02, 3, 13), (0x06, 0, 16), (0x0C, 0, 32)], sizes := [(0x04, 2)]
    range := fun b => failIf (decide (256 < leAt b 4 2)) 0x04 }

/-- QUEUE_SET takes effect for commands dispatched later and for a wait at its next start or resume (R340). -/
def execQueueSet (rq : MbxReq) (s : State) : Result :=
  mailbox s queueSetSpec rq (fun t b =>
    match findQueue t (leAt b 0 2) with
    | none => .fail t stNotFound 0
    | some _ => .ok (updQueue t (leAt b 0 2) (fun q => { q with
        priority := field (leAt b 2 1) 0 3, outLimit := leAt b 4 2, flagTimeout := leAt b 8 4 })))

/-- QUEUE_CANCEL's response posts at once (R341). -/
def execQueueCancel (rq : MbxReq) (s : State) : Result :=
  mailbox s (nameSpec 0x0042) rq (fun t b =>
    match findQueue t (leAt b 0 2) with
    | none => .fail t stNotFound 0
    | some _ => .ok (cancelQueue t (leAt b 0 2)))

/-- QUEUE_RESUME restarts the timeout from its full value; a queue not STALLED returns IN_USE (R339). -/
def execQueueResume (rq : MbxReq) (s : State) : Result :=
  mailbox s (nameSpec 0x0043) rq (fun t b =>
    match findQueue t (leAt b 0 2) with
    | none => .fail t stNotFound 0
    | some q =>
      if q.st != .stalled then .fail t stInUse
      else .ok (updQueue t q.num (fun q => { q with
        st := .running
        cmds := updWhere (fun c => c.phase == .waiting) (fun c => { c with waitSince := t.now, waitLimit := q.flagTimeout }) q.cmds })))

/-- QUEUE_RESET sets both ring indices to 0 and PHASE to 1 and leaves CANCELLED for IDLE (R338, R341). In another state
the table Queue states has no such move: IN_USE (log 21). -/
def execQueueReset (rq : MbxReq) (s : State) : Result :=
  mailbox s (nameSpec 0x0044) rq (fun t b =>
    match findQueue t (leAt b 0 2) with
    | none => .fail t stNotFound 0
    | some q =>
      if q.st != .cancelled then .fail t stInUse
      else .ok (updQueue t q.num (fun q => { q with
        st := .idle, sqTail := 0, sqFetch := 0, cqHead := 0, cqIndex := 0, phase := true, cmds := [], copies := [] })))

/-- QUEUE_DESTROY returns IN_USE unless the queue is IDLE or CANCELLED (R342). -/
def execQueueDestroy (rq : MbxReq) (s : State) : Result :=
  mailbox s (nameSpec 0x0045) rq (fun t b =>
    match findQueue t (leAt b 0 2) with
    | none => .fail t stNotFound 0
    | some q =>
      if q.st == .idle || q.st == .cancelled then
        .ok (t.updTab (fun v => { v with queues := v.queues.filter (fun x => x.num != q.num) }))
      else .fail t stInUse)

def queueRehomeSpec : CmdSpec :=
  { code := 0x0046, len := some 0x18, reserved := [(0x02, 1, 15), (0x04, 0, 32)]
    range := fun b => firstSome [failIf (leAt b 8 8 % 4096 != 0) 0x08, failIf (leAt b 0x10 8 % 4096 != 0) 0x10] }

/-- The queue under its new home. Rings that move hold no entry and no record yet, and are served from the next doorbell; rings
that stay in device memory stand as they are (R347). -/
def Queue.rehome (q : Queue) (p : Port) (farRings : Bool) (sq cq : Nat) : Queue :=
  if q.farRings && farRings && sq == q.sqBase && cq == q.cqBase then { q with home := .port p }
  else { q with home := .port p, farRings := farRings, sqBase := sq, cqBase := cq
                sqTail := q.sqFetch, cqHead := q.cqIndex, rehomed := true, copies := [] }

/-- QUEUE_REHOME: the issuing port is the queue's home and its rings are where it says (R347). -/
def execQueueRehome (rq : MbxReq) (s : State) : Result :=
  mailbox s queueRehomeSpec rq (fun t b =>
    match findQueue t (leAt b 0 2) with
    | none => .fail t stNotFound 0
    | some q =>
      if bit (leAt b 2 1) 0 && !ringsGranted t q.job q.log2depth (leAt b 8 8) (leAt b 0x10 8) then .fail t stOutsideGrant
      else
        .okWith (fetchAll (updQueue t q.num (fun q => q.rehome rq.port (bit (leAt b 2 1) 0) (leAt b 8 8) (leAt b 0x10 8))) q.num)
          (leBytes 2 q.sqFetch ++ leBytes 2 q.cqIndex ++ leBytes 4 (if q.phase then 1 else 0)))

end Sys2Proof.Machine
end

