-- ==== Sys2Proof/Machine/Slices.lean ====
section
/-! DEFINITION. Ports going down and up (R346), interrupting slices (R386, R409 to R411) and what each does: takeover
(R397, R420), a root's source (R161, R399, R419), a far stack, island or die lost (R307, R384, R417), a protection change
(R424, R445, R455). -/

namespace Sys2Proof.Machine

open Sys2Proof

/-! Ports (R346). -/

/-- A port goes down: the other port receives PORT_DOWN; what its ring owes is held (R346). -/
def portGoesDown (s : State) (p : Port) : State :=
  if !(s.port p).linkUp then s
  else
    let s := s.updPort p (fun ps => { ps with linkUp := false, linkGen := 0, linkLanes := 0, ide := false })
    postBoth (noteFault s 0x0E p.num) { code := 0x0003, arg0 := p.num }

/-- A port returns, its link at the rate and width it trained to (R313): PORT_UP posts, held events and records follow (R344, R346). Its queues fetch again. -/
def portComesUp (s : State) (l : PortLink) : State :=
  let p := l.port
  let back := (s.port p).wasUp
  let s := s.updPort p (fun ps => { ps with linkUp := true, wasUp := true, linkGen := l.gen, linkLanes := l.lanes })
  let s := if back then postBoth s { code := 0x0004, arg0 := p.num } else s
  let s := flushPort s p
  (s.tab.queues.map (·.num)).foldl fetchAll s

/-! Measurements (R443, R508). -/

/-- GEN adds 1 before a change of the digests and 1 after it (R508). -/
def HubState.changed (h : HubState) : HubState := { h with measGen := h.measGen + 2 }

/-- MEAS3 over PROT_CTRL, PROT_LOCK and PROT_REGION_BASE, MEAS4 over MIN_SVN, HUB.CFG_DIGEST over MEAS2 to MEAS4. -/
def HubState.measure (h : HubState) (minSvn : Nat) : HubState :=
  let m3 := sha3Digest (leBytes 4 h.protCtrl.toNat ++ leBytes 4 h.protLock.toNat ++ leBytes 8 h.protRegionBase.toNat)
  let m4 := sha3Digest (leBytes 4 minSvn)
  ({ h with meas3 := m3, meas4 := m4,
            cfgDigest := sha3Digest (digestBytes h.meas2 ++ digestBytes m3 ++ digestBytes m4) }).changed

/-! What each kind of slice does. -/

def inService (s : State) (h : Hub) : Bool := (s.hub h).svc == .inService

/-- Doorbells latched during a takeover apply in order at Resume (R420, R512). -/
def applyLatched (s : State) : State :=
  s.dev.latched.foldl (fun s l => ringQueue s (.port l.1) l.1 l.2.1 l.2.2) (s.updDev (fun d => { d with latched := [] }))

/-- The other hub takes the lead: the copied records are written again, LEAD_CHANGE posts, fetch goes on, latched doorbells apply
(R397, R420). -/
def giveLead (s : State) (h : Hub) : State :=
  let s := s.updDev (fun d => { d with lead := some h, noLeadSince := none })
  let s := updLife s (fun l => { l with takeovers := lifeInc l.takeovers })
  let s := s.tab.queues.foldl rewriteRecords s
  let s := postBoth (noteRepair s 10 h.num 0) { code := 0x0005, arg0 := h.num }
  applyLatched ((s.tab.queues.map (·.num)).foldl fetchAll s)

/-- A near root out of service: its two stacks' pieces come from the library, then from the survivors (R399). -/
def rootLeaves (s : State) (h : Hub) : State :=
  s.updNear (fun n => { n with
    rootOut := if n.rootOut.contains h then n.rootOut else n.rootOut ++ [h], rootBack := n.rootBack.filter (· != h), toPlace := true })

/-- A rejoined hub's root takes back its stacks; pieces are placed again in the background (R419). -/
def rootReturns (s : State) (h : Hub) : State :=
  s.updNear (fun n => { n with
    rootOut := n.rootOut.filter (· != h), rootBack := if n.rootBack.contains h then n.rootBack else n.rootBack ++ [h], toPlace := true })

/-- The blocks of granted extents that lie in a group, and those of the hub tables that have been written. -/
def grantedBlocks (s : State) (grp : Nat) : List Nat :=
  let per := extentBytes / blockBytes
  (s.far.owners.flatMap (fun o => (List.range per).map (fun i => o.1 * per + i)) ++
    (s.far.tags.map (·.1)).filter (fun b => decide (hubTablesBase ≤ b * blockBytes))).filter (fun b => b % 2 == grp)

/-- The bytes on a stack are lost; what its row can still give stays readable. -/
def eraseStack (f : FarTier) (grp stack : Nat) : FarTier :=
  let g := f.group grp
  { f with mem := f.mem.filter (fun c => !(c.1 / blockBytes % 2 == grp && (g.place (c.1 / blockBytes / 2)).stack == stack)) }

/-- Each block in a group that no row can supply any more becomes STALE with its event; with one stack lost every row supplies
its blocks (R307, R517). -/
def loseUnsupplied (s : State) (grp : Nat) : State :=
  if (s.far.group grp).lost.length < 2 then s
  else ((grantedBlocks s grp).filter (fun b => (s.far.bytes b).isNone && (s.far.tag b).st != .stale)).foldl loseBlock s

/-- A far stack lost: NORMAL becomes DEGRADED and the rebuild starts; a second loss during the rebuild stops it; every
further loss makes what lay on lost stacks STALE (R307, R517). -/
def loseFarStack (s : State) (stack : Nat) : State :=
  let grp := stack / 8
  let i := stack % 8
  let g := s.far.group grp
  if g.lost.contains i then s
  else
    let st : GroupSt := if g.st = .normal then .degraded else .exposed
    let s := s.updFar (fun f => (eraseStack f grp i).setGroup grp
      { g with st := st, lost := g.lost ++ [i], stopped := g.stopped || g.st == .degraded })
    let s := updLife s (fun l => { l with stacksLost := lifeInc l.stacksLost })
    let s := postBoth (noteFault s 0x09 stack) { code := 0x000C, arg0 := stack }
    let s := if st = .degraded then noteRepair s 5 grp 0 else s
    refreshState (loseUnsupplied s grp)

/-- A near stack lost: its pieces come from the library, then from the survivors (R161). -/
def loseNearStack (s : State) (n : Nat) : State :=
  if s.near.lost.contains n then s
  else
    let s := s.updNear (fun t => { t with lost := t.lost ++ [n], toPlace := true,
                                          pieces := t.pieces.filter (fun p => p.stack != n) })
    let s := updLife s (fun l => { l with stacksLost := lifeInc l.stacksLost })
    refreshState (postBoth (noteFault s 0x0A (16 + n)) { code := 0x000C, arg0 := 16 + n })

/-- A memory island lost: both its stacks are lost at once, and blocks that no row supplies are lost (R384). -/
def loseIsland (s : State) (d : Nat) : State :=
  let grp := d / 4
  let g := s.far.group grp
  let a := 2 * d % 8
  let s := s.updDie d (fun x => { x with islandLost := true })
  let fresh := [a, a + 1].filter (fun i => !g.lost.contains i)
  let s := s.updFar (fun f => (eraseStack (eraseStack f grp a) grp (a + 1)).setGroup grp
    { g with st := .exposed, lost := g.lost ++ fresh, stopped := true })
  let s := noteFault s 0x08 d
  let s := fresh.foldl (fun s i => postBoth (updLife s (fun l => { l with stacksLost := lifeInc l.stacksLost }))
    { code := 0x000C, arg0 := 8 * grp + i }) s
  refreshState (loseUnsupplied s grp)

/-- The commands that wait for cores of a die whose region goes, its CORE_TESTs, CORE_RETIREs and DIE_UP, end as a planned action does
(R410, log 27). -/
def endDieWork (s : State) (d : Nat) : State :=
  let boxes := (s.die d).testWait.map (fun w => w.2) ++ ((s.die d).upBox.map (fun b => [b])).getD []
  let s := s.updDie d (fun x => { x with testWait := [], upLeft := [], upBox := none })
  let s := boxes.foldl (fun s b => respondTo s b.1 b.2 stAborted 0x07 []) s
  (physOf d).foldl (fun s p => dropRetire s p 0x07) s

/-- The region of a die is powered off: its cores keep their states and take Off, they lose their contents, its logical cores leave
service, its key cache is gone (R417, R464). -/
def powerOffDie (s : State) (d : Nat) : State :=
  let s := s.updDie d (fun x => { x with
    powered := false, netGated := true, cache := [], keep := [], testing := none, testWait := [], upLeft := [], upBox := none })
  let s := (physOf d).foldl (fun s p => s.updPhys p (fun c => { c with
    power := .off, waking := .no, leaving := none, logical := none })) s
  zeroCores s ((List.range 64).map (fun i => 64 * d + i))

/-- The commands with tiles dealt to a die (R384): their queue, serial. -/
def commandsOnDie (s : State) (d : Nat) : List (Nat × Nat) :=
  s.tab.queues.flatMap (fun q => (q.cmds.filter (fun c =>
    c.phase == .running && c.tiles.any (fun t => t.claim.die == d))).map (fun c => (q.num, c.serial.toNat)))

/-- A die's core region lost: its commands are aborted with class 0x07, its region is powered down, the jobs on it lose
full precision (R377, R384, R417). -/
def loseDie (s : State) (d : Nat) : State :=
  let s := noteFault s 0x07 d
  let s := (commandsOnDie s d).foldl (fun s c => abortCmd s c.1 c.2 stAborted 0x07) s
  let s := (powerOffDie (endDieWork s d) d).updDie d (fun x => { x with lost := true })
  let s := ((List.range 64).map (fun i => 64 * d + i)).foldl loseBuddy s
  let s := s.updTab (fun t => { t with
    jobs := updWhere (fun j => j.octets.any (fun o => o / 8 == d)) (fun j => { j with fpLapsed := true }) t.jobs })
  refreshState (noteRepair s 12 d 0)

/-- The bytes of a protection record (R445): lock groups, PROT_CTRL, REGION_BASE. -/
def protRecordBytes (lock : Nat) (ctrl : W32) (base : W64) : List Byte :=
  leBytes 4 lock ++ leBytes 4 ctrl.toNat ++ leBytes 8 base.toNat

/-- Apply, lock and compare on both hubs (R424, R445, R455); the digests of two hubs in service agree. -/
def applyProt (s : State) (ctrl lock : W32) (base : W64) (svn : Option Nat) : State :=
  let minSvn := svn.getD s.record.minSvn
  let f (h : HubState) : HubState := ({ h with protCtrl := ctrl, protLock := lock, protRegionBase := base }).measure minSvn
  ((s.updHub .h0 f).updHub .h1 f).updRecord (fun r => { r with
    minSvn := minSvn
    protRecord := if svn.isNone && r.writable then protRecordBytes lock.toNat ctrl base else r.protRecord })

def bothInService (s : State) : Bool := inService s .h0 && inService s .h1

/-- A rejoin or a firmware update is in progress (R421, R426). -/
def rejoinBusy (s : State) : Bool := s.h0.rejoin.isSome || s.h1.rejoin.isSome || s.dev.fw.isSome

/-- The hub that a planned takeover makes the lead: none unless both hubs are in service and none rejoins or is updated (R421). -/
def swapTo (s : State) : Option Hub := if bothInService s && !rejoinBusy s then s.dev.lead.map Hub.other else none

/-- Run a slice to its end (R409). A HUB_SWAP that has waited is checked again (R421). -/
def runSlice (s : State) (k : Slice) : State :=
  let lead := swapTo s
  let s := match k.kind with
    | .swap => match lead with
      | some h => giveLead s h
      | none => s
    | .takeover h => giveLead s h.other
    | .protChange port box ctrl lock base svn =>
      let t := applyProt s ctrl lock base svn
      respondTo t port box stOk 0 (match svn with
        | some n => leBytes 4 n
        | none => [])
    | .farSwitch st => loseFarStack s st
    | .island d => loseIsland s d
    | .die d => loseDie s d
    | .rootSwitch h => rootLeaves s h
    | .nearSwitch n => loseNearStack s n
    | .takeBack h => rootReturns s h
  let s := match k.kind, k.box with
    | .swap, some b => respondTo s k.port b (if lead.isSome then stOk else stInUse) 0 []
    | _, _ => s
  s.updDev (fun d => { d with lastSliceEnd := some s.now })

/-- A slice may start only 50 µs after the last one ended (R386). -/
def sliceAllowed (s : State) : Bool :=
  match s.dev.lastSliceEnd with
  | none => true
  | some t => decide (50 * usTicks ≤ s.since t)

/-- Fault recovery goes before a planned action (R409). -/
def Slice.planned (k : Slice) : Bool :=
  match k.kind with
  | .swap | .protChange .. | .takeBack _ => true
  | _ => k.byCommand

/-- Add a slice behind those of its kind (R409). -/
def enqueueSlice (l : List Slice) (k : Slice) : List Slice :=
  if k.planned then l ++ [k] else l.filter (fun x => !x.planned) ++ [k] ++ l.filter (·.planned)

/-- The rows of the table Fault classes that a recovery goes on under after its third abandonment: the island of a die whose region is lost, the
stacks of an island; where no later row applies it stays to be run (R410, log 22). -/
def nextRow : SliceKind → List SliceKind
  | .die d => [.island d]
  | .island d => [.farSwitch (2 * d), .farSwitch (2 * d + 1)]
  | k => [k]

/-- A slice that has begun and is not finished after 50 µs is undone and retried at the next permitted slice; on the third abandonment a
planned action ends with ABORTED and class 0x0D, a recovery goes on under the next row (R410). -/
def abandonSlice (s : State) (k : Slice) : State :=
  let s := s.updDev (fun d => { d with lastSliceEnd := some s.now })
  if k.abandons + 1 < 3 then s.updDev (fun d => { d with slices := { k with abandons := k.abandons + 1 } :: d.slices })
  else if k.planned then
    match k.kind, k.box with
    | .protChange port box _ _ _ _, _ => respondTo s port box stAborted 0x0D []
    | _, some b => respondTo s k.port b stAborted 0x0D []
    | _, none => s
  else s.updDev (fun d => { d with slices := (nextRow k.kind).map (fun n => { kind := n }) ++ d.slices })

/-- A slice runs now when the spacing allows it and none waits, else it waits (R386); one that is not to end within its bound is
abandoned (R410). -/
def requestSlice (s : State) (k : Slice) : State :=
  if s.dev.slices.isEmpty && sliceAllowed s then
    if s.dev.late = 0 then runSlice s k else abandonSlice (s.updDev (fun d => { d with late := d.late - 1 })) k
  else s.updDev (fun d => { d with slices := enqueueSlice d.slices k })

/-- The lead starts the slice that is first in order (R386, R409). -/
def execInterruptingSliceStart (s : State) : Result :=
  .next (match s.dev.slices with
    | k :: r => if sliceAllowed s then runSlice (s.updDev (fun d => { d with slices := r })) k else s
    | [] => s)

/-- SLICE_ABANDON: the slice first in order begins and is abandoned; with none waiting, the next held step that a command begins is
(R410, log 22). -/
def execSliceAbandon (s : State) : Result :=
  .next (match s.dev.slices with
    | [] => s.updDev (fun d => { d with late := d.late + 1 })
    | k :: r => if sliceAllowed s then abandonSlice (s.updDev (fun d => { d with slices := r })) k else s)

/-! Hubs leaving service (R388, R398, R423, R488). -/

/-- The loads a port issued are cancelled and release their tags: its hub is reset or lost (R155). -/
def cancelLoads (s : State) (p : Port) : State :=
  s.updTab (fun t => { t with caddies := t.caddies.filter (fun c => !(c.st == .loading && c.loadPort == p)) })

/-- A slice answers a mailbox of a port. -/
def Slice.ofPort (p : Port) (k : Slice) : Bool :=
  match k.kind with
  | .protChange port _ _ _ _ _ => port == p
  | _ => k.box.isSome && k.port == p

/-- What waits on a die to answer a mailbox of a port; the DIE_UP itself goes on and answers none (box 64 is none). -/
def dropBoxes (p : Port) (d : DieState) : DieState :=
  { d with testWait := d.testWait.filter (fun w => w.2.1 != p)
           upBox := d.upBox.map (fun b => if b.1 = p then (p, 64) else b) }

/-- The mailbox commands of a port are lost with it: loads are cancelled, nothing of it waits for the lead, for a slice or for a core,
every mailbox but that of a FW_LOAD in progress is FREE (R155, R398, R426). -/
def loseMailboxes (s : State) (p : Port) : State :=
  let kept := match s.dev.fw with
    | some f => if f.port = p then [(f.box, getMailbox s p f.box)] else []
    | none => []
  let s := s.updPort p (fun ps => { ps with mailboxes := kept })
  let s := s.updDev (fun d => { d with
    mbxOrder := d.mbxOrder.filter (fun m => m.1 != p), slices := d.slices.filter (fun k => !k.ofPort p)
    retiring := d.retiring.filter (fun r => r.2.1 != p) })
  cancelLoads (mapDies s (dropBoxes p)) p

/-- The request pages a reset of the port's hub restores: that of a FW_LOAD in progress (R426). -/
def keptPages (fw : Option FwUpdate) (p : Port) (pages : Memory) : Memory :=
  match fw with
  | some f => if f.port = p then memRange pages (4096 * f.box) (4096 * f.box + 4096) else []
  | none => []

/-- The port of a hub that is reset: every register of it takes its reset value, its mailbox commands are lost; events that may
not be dropped stay (R344, R505, R509). -/
def resetPort (s : State) (p : Port) : State :=
  (loseMailboxes (portGoesDown s p) p).updPort p (fun ps => { ps with
    reqPages := keptPages s.dev.fw p ps.reqPages, farWindow := 0, windowMiss := 0, errSummary := 0, gcShadow := none, evtBase := 0,
    evtLog2 := 0, evtSet := false, evtHead := 0, evtTail := 0, evtPhase := true, evtIntr := false, evtDiscarded := 0,
    held := ps.held.filter (fun e => !droppable e.ev.code), msix := [], msixPending := 0 })

/-- A firmware update ends with its response, the device state being refreshed first (R426, R427). -/
def endUpdate (s : State) (status detail : Nat) : State :=
  match s.dev.fw with
  | some f => respondTo (refreshState (s.updDev (fun d => { d with fw := none }))) f.port f.box status detail []
  | none => s

/-- A hub leaves service: the commands of its port's mailboxes are lost (R398); the lead's role passes by an unplanned takeover, a
standby's root stops streaming; with no other hub in service no hub leads (R384, R399, R408, R420, R423). A firmware update that loses a hub it needs ends (R427). -/
def hubLeaves (s : State) (h : Hub) (fault : Bool) : State :=
  let led := s.dev.lead = some h
  let was := inService s h
  let s := loseMailboxes (s.updHub h (fun x => { x with svc := .out })) h.port
  if !was then s
  else
    let s := if fault then endUpdate (noteFault s 0x0D h.num) stAborted 0x0D else s
    let s := if led then
        if inService s h.other then requestSlice s { kind := .takeover h }
        else s.updDev (fun d => { d with lead := none, noLeadSince := some (s.hub h).gcount })
      else s
    refreshState (requestSlice s { kind := .rootSwitch h, byCommand := !fault })

/-- Boot step 1 on a hub (R440): control state and lock bits cleared, measurements zero but MEAS0. The AON domain keeps
its state; GCOUNT counts on from its AON PLL. -/
def HubState.clear (h : HubState) (phase : BootPhase) : HubState :=
  { h with phase := phase, image := none, offered := none, offerBox := none, protCtrl := 0, protLock := 0,
           protRegionBase := 0, meas0 := Config.romDigest, meas1 := 0, meas2 := 0, meas3 := 0, meas4 := 0, cfgDigest := 0,
           measGen := 0, lockedAt := none, isolated := false, halted := false, steps := 0, rejoin := none, big := {} }

/-- The Worgon ports of a hub carry nothing until they train again; a worker's link moves to its second UP port (R358). -/
def dropWorgons (s : State) (h : Hub) : State :=
  ((List.range 12).filter (fun k => worgonHub k == h)).foldl (fun s k =>
    moveLink (s.updWorgon k (fun w => { w with trained := false })) k) s

/-- A reset of a hub (R422, R488): its port, its registers and its lock bits; a hub in service leaves service. The registers of its port
stand at their reset values, whatever its loss noted (R11). -/
def resetHub (s : State) (h : Hub) (phase : BootPhase) (fault : Bool) : State :=
  let fresh := s.dev.lead.isNone
  let s := hubLeaves (dropWorgons (resetPort s h.port) h) h fault
  let s := updLife s (fun l => { l with hubResets := lifeInc l.hubResets })
  (s.updPort h.port (fun p => { p with errSummary := 0 })).updHub h (fun x => { x.clear phase with
    powerUp := fresh, svc := if fresh then .rejoining else .out })

end Sys2Proof.Machine
end

