-- ==== Sys2Proof/Machine/Boot.lean ====
section
/-! DEFINITION. Reset and start-up (R346, R348, R349, R435 to R443, R485 to R499): images, the boot chain, the join, the
power-up of the compute dies, board configurations and their delivery, reset inputs, ports, the debug port. -/

namespace Sys2Proof.Machine

open Sys2Proof

/-! Firmware images (R438, R439). -/

def imageInfo (b : List Byte) : ImageInfo :=
  { iface := leAt b 4 2, stateFmt := leAt b 6 2, svn := leAt b 8 4, digest := sha3Digest b, code := b }

/-- The checks of R439: the DETAIL of INVALID_IMAGE, 1 for checks 1 to 5 and 2 for check 6. -/
def imageFault (minSvn : Nat) (b : List Byte) : Option Nat :=
  firstSome
    [ failIf (decide (b.length < 4096) || leAt b 0 2 != 0x5746 || leAt b 2 1 != 1 || leAt b 3 1 != 0 ||
        !allZero ((b.drop 0x10).take 16) || !allZero ((b.drop 0xB44).take 1212)) 1,
      failIf (b.length != 4096 + leAt b 0x0C 4 || decide (0x4000000 < b.length)) 1,
      failIf (!Config.firmwareSignatureOk (b.take 0x40) ((b.drop 0x40).take 2820)) 1,
      failIf ((b.drop 0x20).take 32 != sha3_256 (b.drop 4096)) 1,
      failIf (decide (leAt b 8 4 < minSvn)) 1,
      failIf (leAt b 4 2 / 256 != 1) 2 ]

/-! Board configurations (R471, R492, R493). -/

def cfgGeneration (c : List Byte) : Nat := leAt c 8 8

/-- Check 1 (R493). -/
def cfgFormOk (c : List Byte) : Bool :=
  leAt c 0 2 == 0x4342 && leAt c 2 1 == 1 && leAt c 3 1 == 0 && leAt c 4 4 == 256 && decide (1 ≤ cfgGeneration c) &&
    leAt c 0x1B 1 == 0 && leAt c 0x1C 4 == 0 && field (leAt c 0x25 1) 4 4 == 0 && leAt c 0x28 8 == 0 &&
    field (leAt c 0x34 4) 4 28 == 0 && allZero ((c.drop 0x40).take 64)

/-- Check 3: the enrolled key, a valid point, verifies r and s over the first 160 bytes. -/
def cfgSigned (key c : List Byte) : Bool :=
  match pointOf key with
  | none => false
  | some k => ecdsaVerify k (c.take 0xA0) (leAt c 0xA0 48) (leAt c 0xD0 48)

/-- Check 4: the power block (R471). -/
def cfgPowerOk (c : List Byte) : Bool :=
  let capW := leAt c 0x20 2
  let phases := leAt c 0x22 1
  let amps := leAt c 0x23 1
  let tt := leAt c 0x24 1
  let wake := field (leAt c 0x25 1) 0 4
  decide (600 ≤ capW) && decide (capW ≤ 1500) && decide (1 ≤ phases) && decide (phases ≤ 64) && decide (1 ≤ amps) &&
    decide (85 ≤ tt) && decide (tt ≤ 100) && decide (1 ≤ wake) && decide (wake ≤ 8) &&
    decide (15000 ≤ 9 * (phases - 2) * amps)

def portRoles (c : List Byte) : List Nat := (List.range 12).map (fun p => field (leAt c 0x18 3) (2 * p) 2)

/-- Check 5: PORT_ROLE agrees with the strap: 0 UNUSED, 1 UP, 2 DOWN, 3 PEER (R348, R351). -/
def cfgRolesOk (role : Nat) (c : List Byte) : Bool :=
  let rs := portRoles c
  let ups := (rs.filter (· == 1)).length
  decide ((rs.filter (· == 3)).length ≤ 1) &&
    (match role with
     | 0 => rs.all (fun r => r == 3 || r == 0)
     | 1 => ups == 0
     | 2 => (ups == 1 || ups == 2) && rs.all (· != 3)
     | _ => false)

/-- REGION_BASE is 4 KiB-aligned in the hub tables (R443). -/
def regionBaseOk (base : Nat) : Bool :=
  base % 4096 == 0 && decide (hubTablesBase ≤ base) && decide (base ≤ 0x8FFFFFDFFF)

/-- Check 6 (R493). -/
def cfgProtOk (c : List Byte) : Bool :=
  let ctrl := leAt c 0x30 4
  let base := leAt c 0x38 8
  field ctrl 7 25 == 0 && field ctrl 2 2 != 3 && (if bit ctrl 4 || bit (leAt c 0x34 4) 2 then regionBaseOk base else base == 0)

/-- A copy is valid when it passes checks 1 to 3 (R492). -/
def cfgValid (s : State) (c : List Byte) : Bool :=
  c.length == 256 && cfgFormOk c && (c.drop 0x80).take 32 == sha3_256 (c.take 0x80) && cfgSigned s.record.integratorKey c

/-- The number of the first check of R493 that fails, 1 to 6. -/
def cfgFault (s : State) (c : List Byte) : Option Nat :=
  firstSome
    [ failIf (!cfgFormOk c) 1, failIf ((c.drop 0x80).take 32 != sha3_256 (c.take 0x80)) 2,
      failIf (!cfgSigned s.record.integratorKey c) 3, failIf (!cfgPowerOk c) 4, failIf (!cfgRolesOk s.dev.role.val c) 5,
      failIf (!cfgProtOk c) 6 ]

/-- The valid copy with the higher GENERATION, copy 0 on a tie (R492): its number and bytes. -/
def selectedCopy (s : State) : Option (Nat × List Byte) :=
  let a := s.record.copy0
  let b := s.record.copy1
  match cfgValid s a, cfgValid s b with
  | true, true => if cfgGeneration a < cfgGeneration b then some (1, b) else some (0, a)
  | true, false => some (0, a)
  | false, true => some (1, b)
  | false, false => none

/-! The boot chain (R440). -/

/-- A CONFIG entry: digest, hub, 0 loaded, 1 locked, 2 mismatch (R430). -/
def noteConfig (s : State) (h : Hub) (digest : List Byte) (what : Nat) : State :=
  append s 5 (padTo 32 digest ++ leBytes 1 h.num ++ leBytes 1 what)

/-- A FIRMWARE entry (R430). -/
def noteFirmware (s : State) (h : Hub) (digest : Digest) (iface status : Nat) : State :=
  append s 6 (digestBytes digest ++ leBytes 2 iface ++ leBytes 1 h.num ++ leBytes 1 0 ++ leBytes 2 status)

/-- A BOOT entry: hub, cause (R430). -/
def noteBoot (s : State) (h : Hub) (cause status : Nat) : State :=
  append s 0x0A (leBytes 1 h.num ++ leBytes 1 cause ++ leBytes 2 0 ++ leBytes 2 status)

/-- Step 7: the values of the configuration, then those of the protection record for its groups; the locks both require;
the measurements. -/
def HubState.lock (h : HubState) (c rec : List Byte) (minSvn at_ : Nat) : HubState :=
  let cmask := field (leAt c 0x34 4) 0 4
  let rmask := leAt rec 0 4
  let pick (g mask a b : Nat) : Nat := if bit rmask g then b &&& mask else a &&& mask
  let ca := leAt c 0x30 4
  let cb := leAt rec 4 4
  let ctrl := pick 0 0x3 ca cb ||| pick 1 0xC ca cb ||| pick 2 0x10 ca cb ||| pick 3 0x60 ca cb
  let base := if bit rmask 2 then leAt rec 8 8 else leAt c 0x38 8
  ({ h with meas2 := sha3Digest c, protCtrl := BitVec.ofNat 32 ctrl, protLock := BitVec.ofNat 32 (cmask ||| rmask)
            protRegionBase := BitVec.ofNat 64 base, phase := .locked, lockedAt := some at_ }).measure minSvn

/-- Steps 6 and 7: the configuration of the record die is selected and checked, the hub locks, or enters CONFIG_WAIT
(R440, R495). A record die that cannot be read leaves the hub in CONFIG_WAIT (R408); one that stops while the other leads does
not join at power-up any more (R442). -/
def configureHub (s : State) (h : Hub) : State :=
  let wait (x : HubState) : HubState := { x with phase := .configWait, powerUp := x.powerUp && s.dev.lead.isNone }
  match selectedCopy s with
  | some (_, c) =>
    if (cfgFault s c).isSome || !s.record.writable then
      noteConfig (s.updHub h wait) h ((c.drop 0x80).take 32) 0
    else
      let s := s.updHub h (fun x => x.lock c s.record.protRecord s.record.minSvn s.record.aonTicks)
      noteConfig s h (digestBytes (s.hub h).cfgDigest) 1
  | none => noteConfig (s.updHub h wait) h (zeros 32) 0

/-- At a hub boot an entry named by the write-ahead marker stands if it is whole and carries the marker's SEQ, else its slot is
zeroed (R431). -/
def RecordDie.settleMarker (r : RecordDie) : RecordDie :=
  match r.marker with
  | none => r
  | some (seq, slot) =>
    let stands := match r.log[slot]? with
      | some e => e.seq == seq && e.ecrc == crc32c e.head
      | none => false
    { r with marker := none, log := if stands then r.log else r.log.eraseIdx slot }

/-- Step 5: MEAS1 takes the image digest and the firmware starts, which finds whether the record die can be written (log 117);
then steps 6 and 7. -/
def startImage (s : State) (h : Hub) (b : List Byte) : State :=
  let i := imageInfo b
  let s := noteFirmware s h i.digest i.iface stOk
  let ok := s.record.writable
  let s := s.updHub h (fun x => ({ x with image := some i, meas1 := i.digest, offered := none, recordOk := ok }).changed)
  let s := configureHub (s.updRecord RecordDie.settleMarker) h
  if (s.hub h).phase = .configWait && s.dev.lead.isNone then s.updDev (fun d => { d with dstate := 0 }) else s

/-- Step 3: the first image offered is taken; while one is under verification other offers are refused. The other hub
offers the image it has itself verified, a parent offers to a worker over an UP port that is up (R350, R436, R440). -/
def execImageOffer (hub : Hub) (source : OfferSource) (image : List Byte) (s : State) : Result :=
  let h := s.hub hub
  let fits := match source with
    | .ownPort => false
    | .otherHub => (s.hub hub.other).image.map (·.digest) == some (sha3Digest image)
    | .parent => s.dev.role.val == 2 && (List.range 12).any (fun k => (s.worgon k).role == 1 && (s.worgon k).up)
  .next (if h.phase = .obtain && h.offered.isNone && fits then
      s.updHub hub (fun h => { h with offered := some (image, source), phase := .verify })
    else s)

/-- BOOT_IMAGE offers an image on the hub's own port; its response posts when the image has been verified (R440, R454). -/
def execBootImage (rq : MbxReq) (s : State) : Result :=
  mailbox s { code := 0x0100, states := [1], len := some 16, reserved := [(0x0C, 0, 32)], sizes := [(0x08, 4)] } rq
    (fun t b =>
      let hub := rq.port.hub
      if (t.hub hub).phase != .obtain then .fail t stInUse
      else match hostRead t rq.port (leAt b 0 8) (leAt b 8 4) with
        | none => .fail t stHostAccess
        | some img => .stay (t.updHub hub (fun h =>
            { h with offered := some (img, .ownPort), offerBox := some rq.box, phase := .verify })))

/-- The outcome of a verification in a rejoin or an update (R422, R427): the status and DETAIL of a failure. -/
def rejoinFault (s : State) (h : Hub) (r : Rejoin) (b : List Byte) : Option (Nat × Nat) :=
  match imageFault s.record.minSvn b with
  | some d => some (stInvalidImage, d)
  | none =>
    match (s.hub h.other).image with
    | none => some (stInvalidImage, 4)
    | some lead =>
      if r.fwStep = 1 then (if leAt b 6 2 != lead.stateFmt then some (stInvalidImage, 2) else none)
      else if sha3Digest b != lead.digest then some (stInvalidImage, 4) else none

/-- A rejoining hub's verification and configuration, its digest compared with the lead's (R422 steps 1 to 3). -/
def verifyRejoin (s : State) (h : Hub) (r : Rejoin) (b : List Byte) : State :=
  match rejoinFault s h r b with
  | some f =>
    noteFirmware (s.updHub h (fun x =>
      { x with phase := .out, svc := .out, offered := none, rejoin := some { r with failed := some f } }))
      h (sha3Digest b) (leAt b 4 2) f.1
  | none =>
    let s := startImage s h b
    if (s.hub h).phase = .configWait then
      s.updHub h (fun x => { x with phase := .out, svc := .out, rejoin := some { r with failed := some (stInvalidImage, 1) } })
    else if (s.hub h).cfgDigest = (s.hub h.other).cfgDigest then s.updHub h (fun x => { x with rejoin := some r })
    else noteConfig (s.updHub h (fun x =>
        { x with phase := .out, svc := .mismatch, rejoin := some { r with failed := some (stInvalidImage, 3), mismatch := true } }))
        h (digestBytes (s.hub h).cfgDigest) 2

/-- Step 4 and on: a verified image starts, a rejected one is discarded whole and the ROM returns to step 3 (R439, R440). -/
def execImageVerified (hub : Hub) (s : State) : Result :=
  let h := s.hub hub
  .next (match h.offered with
    | none => s
    | some (b, src) =>
      if h.phase != .verify then s
      else match h.rejoin with
        | some r => verifyRejoin s hub r b
        | none =>
          let answer (t : State) (st d : Nat) : State := match src, h.offerBox with
            | .ownPort, some box => respondTo t hub.port box st d []
            | _, _ => t
          match imageFault s.record.minSvn b with
          | some d =>
            answer (noteFirmware (s.updHub hub (fun x => { x with phase := .obtain, offered := none, offerBox := none })) hub
              (sha3Digest b) (leAt b 4 2) stInvalidImage) stInvalidImage d
          | none => (answer (startImage s hub b) stOk 0).updHub hub (fun x => { x with offerBox := none }))

/-! The join (R442). -/

/-- The tables and counters of a power-up, the held events of the hub tables among them (R204, R327, R344, R442, R471, R489,
R511). -/
def powerUpTables (s : State) : State :=
  { s with
    tab := {}, cores := [], key := {}
    near := { s.near with pieces := [], rootOut := [], rootBack := [], toPlace := false }
    far := { s.far.settled with owners := [], watches := [], windows := [] }
    dev := { s.dev with loadSerial := 1, corrStack := 0, corrSram := 0, corrPath := 0, resent := 0, dataLoss := 0
                        slices := [], retiring := [], late := 0, lastSliceEnd := none, latched := [], fw := none, ready := false, pathRetries := []
                        rebuildShare := 1 }
    pwr := { s.pwr with powerW := 0, samples := [] }
    pa := { s.pa with held := [], evtLostDue := 0 }
    pb := { s.pb with held := [], evtLostDue := 0 } }

/-- The port roles of a configuration (R351). -/
def loadRoles (s : State) (c : List Byte) : State :=
  s.updFab (fun f => { f with worgon := (portRoles c).zipIdx.foldl (fun t r =>
    tabPut {} t r.2 { tabGet {} t r.2 with role := r.1 }) f.worgon })

/-- The power block and port roles of the configuration in force (R351, R471). -/
def loadBoard (s : State) : State :=
  match selectedCopy s with
  | none => s
  | some (_, c) =>
    let s := s.updPwr (fun w => { w with
      capW := leAt c 0x20 2, cfgCap := leAt c 0x20 2, corePhases := leAt c 0x22 1, phaseAmps := leAt c 0x23 1
      tThrottle := leAt c 0x24 1, wakeRate := field (leAt c 0x25 1) 0 4, sleepAfter := leAt c 0x26 2
      phases := leAt c 0x22 1, kCap := 16, byCap := false, byCurrent := false, belowSince := none })
    loadRoles s c

/-- The boot ROM of a worker trains its Worgon ports: those that its own record die names (R350, R440; log 150). -/
def romRoles (s : State) : State :=
  match selectedCopy s with
  | some (_, c) => if s.dev.role.val = 2 then loadRoles s c else s
  | none => s

/-- A hub takes the lead at power-up (R442): the device boots once, the power-up of the compute dies may start. The other hub, where it
has stopped in CONFIG_WAIT, does not join any more. -/
def firstLead (s : State) (h : Hub) : State :=
  let s := powerUpTables s
  let s := s.updDev (fun d => { d with lead := some h, noLeadSince := none, cpu := .railCheck, dstate := 1 })
  let s := updLife s (fun l => { l with boots := lifeInc l.boots })
  let s := s.updHub h (fun x => { x with phase := .joined, svc := .inService })
  let s := s.updHub h.other (fun x => if x.phase = .configWait then { x with powerUp := false } else x)
  noteBoot (loadBoard s) h 0 stOk

/-- The other hub joins at power-up, its GCOUNT the lead's (R368): standby when its digest equals the lead's, else MISMATCH (R442). -/
def joinOther (s : State) (h : Hub) : State :=
  if (s.hub h).cfgDigest = (s.hub h.other).cfgDigest then
    let g := s.now
    refreshState (noteBoot (s.updHub h (fun x => { x with phase := .joined, svc := .inService, gcount := g })) h 0 stOk)
  else
    refreshState (noteConfig (s.updHub h (fun x => { x with phase := .out, svc := .mismatch })) h
      (digestBytes (s.hub h).cfgDigest) 2)

/-- H0 leads if it locks no later than 100 ms after H1 does (R442). -/
def h0InTime (s : State) : Bool :=
  match s.h0.lockedAt, s.h1.lockedAt with
  | some a, some b => decide (a ≤ b + 100 * msTicks)
  | some _, none => true
  | none, _ => false

def execHubJoin (s : State) : Result :=
  .next (match s.dev.lead with
    | none =>
      if s.h0.phase = .locked && h0InTime s then firstLead s .h0
      else if s.h0.phase = .locked && s.h1.phase = .locked then firstLead s .h1
      else s
    | some l =>
      let o := l.other
      if (s.hub o).phase = .locked && (s.hub o).powerUp && (s.hub o).rejoin.isNone then joinOther s o else s)

/-- H1 has waited 100 ms for H0, which has not locked: H1 leads (R442). -/
def execJoinTimeout (s : State) : Result :=
  .next (match s.dev.lead, s.h1.lockedAt with
    | none, some t =>
      if s.h1.phase = .locked && s.h0.phase != .locked && decide (t + 100 * msTicks ≤ s.record.aonTicks) then firstLead s .h1
      else s
    | _, _ => s)

/-! The power-up of the compute dies (R490, R491). -/

/-- Self-test results of a power-up (R491): a core that fails is FAILED, every other is SPARE until it is mapped. -/
def selfTestAll (s : State) (failed : List Nat) : State :=
  (List.range 576).foldl (fun s p => s.updPhys p (fun c =>
    { c with st := if c.st == .failed || failed.contains p then .failed else .spare, logical := none
             power := if c.st == .failed || failed.contains p then .off else .sleep
             waking := .no, leaving := none, fencing := false })) s

/-- What the black box and the lifetime counters note of the tests of a power-up: a core FAILED, a RETIRED core back to SPARE (R430). -/
def noteTests (before : State) (failed : List Nat) (s : State) : State :=
  (List.range 576).foldl (fun s p => match (before.physCore p).st, failed.contains p with
    | .failed, _ => s
    | _, true => noteRepair s 4 p 0
    | .retired, false => updLife (noteRepair s 3 p 0) (fun l => { l with coresReturned := lifeInc l.coresReturned })
    | _, false => s) s

/-- Logical core 64d + j is served by the passing core with the (j + 1)-th lowest index (R491). -/
def mapDie (s : State) (d : Nat) : State :=
  (((physOf d).filter (fun p => (s.physCore p).st == .spare)).take 64).zipIdx.foldl (fun s pj =>
    s.updPhys pj.1 (fun c => { c with st := .serving, logical := some (64 * d + pj.2) })) s

def mapAll (s : State) : State := (List.range 8).foldl mapDie s

/-- READY or DEGRADED after the mapping; a standalone device's GCOUNT starts at 0 at its first READY (R368, R385, R490). -/
def enterReady (s : State) : State :=
  let s := if s.dev.role.val < 2 && !s.dev.counted then (s.updHub .h0 (fun h => { h with gcount := 0 })).updHub .h1 (fun h => { h with gcount := 0 })
    else s
  let d := if degraded s then 3 else 2
  postBoth (s.updDev (fun v => { v with dstate := d, ready := true, counted := true, cpu := .up, lastSliceEnd := none })) { code := 0x0002, arg0 := d }

def powerRegions (s : State) : State :=
  (List.range 8).foldl (fun s d => s.updDie d (fun x => { x with
    powered := true, lost := false, testing := none, netGated := false, kTherm := 16 })) s

/-- One phase of the table Compute die power-up (R486, R490): `failed` names the stacks that fail three trainings, or the
cores that fail self-test. Which rail is out and what it reads the row does not say: free values (log 2). -/
def execComputePowerUpStep (railsOk : Bool) (failed : List Nat) (s : State) : Result :=
  .next (if s.dev.lead.isNone then s
    else match s.dev.cpu with
    | .railCheck =>
      if railsOk then s.updDev (fun d => { d with cpu := .islands })
      else
        let (f, s) := freeBytes (s.updDev (fun d => { d with cpu := .railFail })) 8
        postBoth (append s 4 (f.take 2 ++ zeros 2 ++ f.drop 4)) { code := 0x0002, arg0 := 1 }
    | .islands => s.updDev (fun d => { d with cpu := .training })
    | .training =>
      let s := (failed.filter (fun k => decide (k < 16))).foldl loseFarStack s
      let s := (failed.filter (fun k => decide (16 ≤ k) && decide (k < 20))).foldl (fun s k => loseNearStack s (k - 16)) s
      (s.updNear (fun n => { n with trained := true })).updDev (fun d => { d with cpu := .regions })
    | .regions => (powerRegions s).updDev (fun d => { d with cpu := .selfTest })
    | .selfTest => (noteTests s failed (selfTestAll s failed)).updDev (fun d => { d with cpu := .mapping })
    | .mapping => enterReady (mapAll s)
    | .idle | .up | .railFail => s)

/-! Delivery of a configuration (R445, R493, R496 to R498). -/

/-- The outcome of a delivery: checks 1 to 8 in order (R493). -/
def deliveryFault (s : State) (c : List Byte) : Option Nat :=
  match cfgFault s c with
  | some n => some n
  | none =>
    if [s.record.copy0, s.record.copy1].any (fun k => cfgValid s k && decide (cfgGeneration c ≤ cfgGeneration k)) then some 7
    else if !s.record.writable then some 8 else none

/-- Written to the copy not selected, or to copy 0 when neither is valid; the protection record is erased; both hubs in
CONFIG_WAIT repeat step 6 (R445, R496). -/
def applyConfig (s : State) (c : List Byte) : State :=
  let one := match selectedCopy s with
    | some (0, _) => true
    | _ => false
  let s := s.updRecord (fun r => { r with protRecord := [], copy0 := if one then r.copy0 else c, copy1 := if one then c else r.copy1 })
  let s := if s.dev.lead.isNone then s.updDev (fun d => { d with dstate := 1 }) else s
  let again (s : State) (h : Hub) : State := if (s.hub h).phase = .configWait then configureHub s h else s
  again (again s .h0) .h1

/-- CONFIG_LOAD in CONFIG_WAIT (R325, R349, R496): a device strapped 0b11 answers BAD_STATE. -/
def execConfigLoad (rq : MbxReq) (s : State) : Result :=
  mailbox s { loadSpec 0x0002 with states := [0] } rq (fun t body =>
    if t.dev.role.val = 3 then .fail t stBadState (portDstate t rq.port)
    else if leAt body 8 6 != 256 then .fail t stBadField 8
    else match hostImage t rq.port body with
    | none => .fail t stHostAccess
    | some c =>
      match deliveryFault t c with
      | some n => .fail t stInvalidImage n
      | none => .ok (applyConfig t c))

/-- SB.CFG_DATA: the byte goes to the buffer at CFG_PTR, which advances; ignored at 256 (R498). -/
def writeCfgData (s : State) (hub : Hub) (value : W32) : State :=
  s.updHub hub (fun h => if h.cfgPtr < 256 then
    { h with cfgBuf := splice h.cfgBuf h.cfgPtr (leBytes 1 value.toNat), cfgPtr := h.cfgPtr + 1 } else h)

def execCfgData (hub : Hub) (value : W32) (s : State) : Result :=
  .next (if (s.hub hub).phase = .porHeld then s else writeCfgData s hub value)

/-- CFG_PTR of SB.CFG_CTRL: writes above 256 are ignored (R498). -/
def writeCfgPtr (s : State) (hub : Hub) (value : W32) : State :=
  s.updHub hub (fun h => if field value.toNat 0 9 ≤ 256 then { h with cfgPtr := field value.toNat 0 9 } else h)

def execCfgPtr (hub : Hub) (value : W32) (s : State) : Result :=
  .next (if (s.hub hub).phase = .porHeld then s else writeCfgPtr s hub value)

/-- A write of SB.CFG_CTRL. GO delivers the buffer as a CONFIG_LOAD; outside CONFIG_WAIT the result is BAD_STATE (R498). -/
def writeCfgCtrl (s : State) (hub : Hub) (value : W32) : State :=
  let s := writeCfgPtr s hub value
  if !bit value.toNat 31 then s
  else
    let c := padTo 256 (s.hub hub).cfgBuf
    let ds := portDstate s hub.port
    let fin (t : State) (st d : Nat) : State :=
      t.updHub hub (fun h => { h with cfgDone := true, cfgStatus := st, cfgDetail := d })
    if (s.hub hub).phase != .configWait || s.dev.role.val = 3 then fin s stBadState ds
    else match deliveryFault s c with
      | some n => fin s stInvalidImage n
      | none => fin (applyConfig s c) stOk 0

def execGo (hub : Hub) (value : W32) (s : State) : Result :=
  .next (if (s.hub hub).phase = .porHeld then s else writeCfgCtrl s hub value)

/-- A write of SB.STATUS: CFG_DONE and THERM_ALERT clear where a 1 is written (R10, R498). -/
def writeSbStatus (s : State) (hub : Hub) (v : Nat) : State :=
  s.updHub hub (fun h => { h with cfgDone := h.cfgDone && !bit v 6, thermAlert := h.thermAlert && !bit v 7 })

/-- A sideband transfer writes 4 bytes at a register's offset; every other register of the table is read-only (R10, R498). -/
def sidebandWrite (s : State) (hub : Hub) (offset : Nat) (data : List Byte) : State :=
  let v := leNat data
  if (s.hub hub).phase = .porHeld || data.length != 4 then s
  else if offset = 0x00 then writeSbStatus s hub v
  else if offset = 0x08 then writeCfgData s hub (BitVec.ofNat 32 v)
  else if offset = 0x0C then writeCfgCtrl s hub (BitVec.ofNat 32 v)
  else s

/-- REGISTER_WRITE: a write to a register by its access code (R10, R498, R501). -/
def execRegisterWrite (path : RegPath) (offset : Nat) (data : List Byte) (s : State) : Result :=
  match path with
  | .bar0 p => if 2 ^ 21 < offset + data.length then .fault .noSuchUnit else .next (bar0Access s p offset data)
  | .sideband h => if 256 ≤ offset then .fault .noSuchUnit else .next (sidebandWrite s h offset data)

/-! Reset inputs and power (R433, R481, R485 to R489). -/

/-- The rails have fallen after PWRFAIL_N: memory contents are lost, the record die is not (R487). -/
def losePower (s : State) : State :=
  if !s.record.stopped then s
  else { s with
    far := { s.far with mem := [], tags := [], parity := [], parityTags := [], deltas := [], unreadable := [] }
    near := { s.near with pieces := [] }
    cores := []
    record := { s.record with stopped := false } }

/-- Both hubs in POR: THERMTRIP_N is released, the board's roles and the power controller stand at reset (R348, R471, R499,
R506). -/
def bothHeld (s : State) : State :=
  ((s.updDev (fun d => { d with thermTrip := false, counted := false })).updPwr (fun _ => {})).updFab (fun f => { f with worgon := [] })

/-- POR of a hub: as HRST, and its AON domain and GCOUNT (R488). Both in POR together release THERMTRIP_N (R499). -/
def execPorAssert (hub : Hub) (s : State) : Result :=
  .next (if (s.hub hub).phase = .porHeld then s
    else
      let s := (resetHub s hub .porHeld true).updHub hub (fun h => { h with
        gcount := 0, pwrfail := false, recordOk := false, thermLevel := 0, sris := false, hrstCount := 0, cfgBuf := [], cfgPtr := 0
        cfgDone := false, cfgStatus := 0, cfgDetail := 0, thermAlert := false })
      if (s.hub hub.other).phase = .porHeld then
        losePower (bothHeld s) else s)

/-- A release that ends the hold of both hubs samples the straps; rails outside tolerance hold the hub inside (R481,
R485, R486). -/
def execPorRelease (hub : Hub) (strap : Straps) (railsOk sris : Bool) (s : State) : Result :=
  .next (if (s.hub hub).phase != .porHeld then s
    else
      let s := if (s.hub hub.other).phase = .porHeld then
          romRoles (s.updDev (fun d => { d with role := strap.role, sbAddr := strap.sbAddr })) else s
      s.updHub hub (fun h => { h with phase := if railsOk then .obtain else .railHold, sris := sris, railsOk := railsOk }))

/-- The four monitored rails have been within tolerance for 1 ms: the hub starts step 1 (R486). -/
def execRailSettle (hub : Hub) (s : State) : Result :=
  .next (if (s.hub hub).phase = .railHold then s.updHub hub (fun h => { h with phase := .obtain, railsOk := true }) else s)

/-- HRST of a hub: its AON domain and sideband are kept, HRST_COUNT counts (R488, R506). The release follows at once. -/
def execHrst (hub : Hub) (s : State) : Result :=
  .next (if (s.hub hub).phase = .porHeld || (s.hub hub).phase = .railHold then s
    else (resetHub s hub .obtain true).updHub hub (fun h => { h with hrstCount := satInc h.hrstCount }))

/-- PWRFAIL_N: both hubs note it; no black-box entry is started any more (R487, R506). -/
def execPwrfail (s : State) : Result :=
  .next (((s.updHub .h0 (fun h => { h with pwrfail := true })).updHub .h1 (fun h => { h with pwrfail := true })).updRecord
    (fun r => { r with stopped := true, marker := none }))

/-- No hub has led for 10 ms: placement stops, the compute dies power down, every job, queue and scratchpad is lost (R489). -/
def execLeadAbsentTimeout (s : State) : Result :=
  .next (match s.dev.lead, s.dev.noLeadSince with
    | none, some t =>
      if 10 * msTicks ≤ s.since t then
        (powerUpTables ((List.range 8).foldl powerOffDie s)).updDev (fun d => { d with cpu := .idle, dstate := 1 })
      else s
    | _, _ => s)

/-! Ports and the debug port. -/

def execPortDown (port : Port) (s : State) : Result := .next (portGoesDown s port)

/-- A port's link trains: its hub is out of reset, the device is no worker, and it comes to a rate
and width of R313 (R346, R350, R440). -/
def execPortUp (link : PortLink) (s : State) : Result :=
  .next (if (s.port link.port).linkUp || !(s.hub link.port.hub).counting || s.dev.role.val = 2 || !trainsTo link.gen link.lanes then s
    else portComesUp s link)

/-- PERST resets the link and IDE state of the port and nothing else (R488). -/
def execPerst (port : Port) (s : State) : Result := .next (portGoesDown s port)

/-- A fault of class HUB in a hub in service (R384, R423). -/
def execHubFault (hub : Hub) (s : State) : Result :=
  .next (if inService s hub then (hubLeaves (portGoesDown s hub.port) hub true).updHub hub (fun h => { h with phase := .out }) else s)

/-- The heartbeat of a hub was missed for 10 µs: it is isolated and leaves service (R384, R420). -/
def execHeartbeatTimeout (hub : Hub) (s : State) : Result :=
  .next (if inService s hub then
      (hubLeaves (portGoesDown s hub.port) hub true).updHub hub (fun h => { h with phase := .out, isolated := true })
    else s)

/-- The debug port halts or steps the control processors while DEBUG is HALT, and is inert otherwise (R443, R444). -/
def execDebugPortHalt (hub : Hub) (step : Bool) (s : State) : Result :=
  .next (if debugHalt (s.hub hub) then
      s.updHub hub (fun h => { h with halted := true, steps := if step then h.steps + 1 else h.steps })
    else s)

end Sys2Proof.Machine
end

