-- ==== Sys2Proof/Machine/Container.lean ====
section
/-! DEFINITION. Program containers as bytes: the header, entries, descriptors, presence descriptors, key lists and range
pairs (R176, R189, R205, R206). -/

namespace Sys2Proof.Machine

open Sys2Proof

/-! Names of the operations (R208) and of the element types (R176). -/

def opAdd : Nat := 0x01
def opSub : Nat := 0x02
def opNeg : Nat := 0x03
def opMulPt : Nat := 0x04
def opMulCt : Nat := 0x05
def opRelin : Nat := 0x06
def opRotate : Nat := 0x07
def opConjugate : Nat := 0x08
def opLinear : Nat := 0x09
def opRescale : Nat := 0x0A
def opLevelDrop : Nat := 0x0B
def opNttFwd : Nat := 0x0C
def opNttInv : Nat := 0x0D
def opMatmul : Nat := 0x0E
def opMap : Nat := 0x0F
def opGather : Nat := 0x10
def opScatter : Nat := 0x11
def opScatterAdd : Nat := 0x12
def opCopy : Nat := 0x13
def opRemoteAdd : Nat := 0x14
def opBootstrap : Nat := 0x15
def opSwitchOut : Nat := 0x16
def opLut : Nat := 0x17
def opRepack : Nat := 0x18
def opExport : Nat := 0x19

def tyRes32 : Nat := 0
def tyInt32 : Nat := 1
def tyUint32 : Nat := 2
def tyFp32 : Nat := 3
def tyIdx32 : Nat := 4

def isGatherOp (op : Nat) : Bool := op == opGather || op == opScatter || op == opScatterAdd

/-- The header of a container (R205). -/
structure Container where
  chainId : Nat
  numEntries : Nat
  numDesc : Nat
  numPres : Nat
  numRpair : Nat
  numBind : Nat
  entryOff : Nat
  descOff : Nat
  presOff : Nat
  rpairOff : Nat
  bodyOff : Nat
  bodyLen : Nat
  totalLen : Nat
  minCores : Nat
deriving DecidableEq, Repr

def containerOf (b : List Byte) : Container :=
  { chainId := leAt b 6 2, numEntries := leAt b 8 2, numDesc := leAt b 0x0A 2, numPres := leAt b 0x0C 2
    numRpair := leAt b 0x0E 1, numBind := leAt b 0x0F 1, entryOff := leAt b 0x10 4, descOff := leAt b 0x14 4
    presOff := leAt b 0x18 4, rpairOff := leAt b 0x1C 4, bodyOff := leAt b 0x20 4, bodyLen := leAt b 0x24 4
    totalLen := leAt b 0x28 4, minCores := leAt b 0x2C 2 }

/-- A key name (R206). -/
def keyNameOf (w : Nat) : KeyName :=
  { bind := field w 0 4, kkind := field w 4 8, galois := field w 12 18, resv := field w 30 34 != 0 }

/-- An entry from its 64 bytes; its key list from the container (R205). -/
def progEntryOf (b e : List Byte) : Entry :=
  let m := leAt e 9 1
  { opcode := leAt e 0 2, numDst := leAt e 2 1, numSrc := leAt e 3 1, descFirst := leAt e 4 2, pres := leAt e 6 2
    numKeys := leAt e 8 1, hoist := bit m 0, accum := bit m 1, exact := bit m 2, keysOff := leAt e 0x0C 4
    bodyEntry := leAt e 0x10 4, wScale := leAt e 0x14 3, arg := leAt e 0x18 1, firstSlot := leAt e 0x19 1
    resv := m / 8 != 0 || leAt e 0x0A 2 != 0 || leAt e 0x17 1 != 0 || !allZero ((e.drop 0x1A).take 38)
    keys := (List.range (leAt e 8 1)).map (fun i => keyNameOf (leAt b (leAt e 0x0C 4 + 8 * i) 8)) }

/-- A dimension from its 16 bytes (R176). -/
def dimOf (d : List Byte) (k : Nat) : Dim :=
  let w := leAt d (0x40 + 16 * k) 8
  { extent := field w 0 32, src := field w 32 3, arg := field w 35 5, lvlStride := bit w 40
    stride := signed 32 (leAt d (0x48 + 16 * k) 4), alloc := leAt d (0x4C + 16 * k) 4 }

/-- A descriptor from its 160 bytes (R176). -/
def descOf (d : List Byte) : Desc :=
  let t := leAt d 1 1
  let l := leAt d 2 1
  { handle := leAt d 0 1, etype := field t 0 3, form := bit t 3, twoWord := bit t 4, hdr := bit t 5
    limbDim := field l 0 3, tUntied := bit l 3, tagBind := field l 4 4, tDomain := field (leAt d 3 1) 0 1
    tKind := leAt d 4 1, tLog2n := leAt d 5 1, tLevel := leAt d 6 1, tLayout := leAt d 7 1, tChain := leAt d 8 2
    tSlotsLog2 := leAt d 0x0A 1, tScale := leAt d 0x0C 3, hdrOffset := leAt d 0x10 5, dataOffset := leAt d 0x18 5
    ltw := leAt d 0x20 8, bstride0 := signed 64 (leAt d 0x28 8), bstride1 := signed 64 (leAt d 0x30 8)
    dims := (List.range 6).map (dimOf d)
    resv := field t 6 2 != 0 || field (leAt d 3 1) 1 7 != 0 || leAt d 0x0B 1 != 0 || leAt d 0x0F 1 != 0 ||
      leAt d 0x15 3 != 0 || leAt d 0x1D 3 != 0 || leAt d 0x38 8 != 0 ||
      (List.range 6).any (fun k => field (leAt d (0x40 + 16 * k) 8) 41 23 != 0) }

/-- A presence descriptor from its 32 bytes (R189). -/
def presOf (p : List Byte) : Pres :=
  { pkind := field (leAt p 0 1) 0 2, countA := leAt p 4 4, countB := leAt p 8 4, blkRows := leAt p 0x0C 2
    blkCols := leAt p 0x0E 2, addr := leAt p 0x10 8, resv := field (leAt p 0 4) 2 30 != 0 || leAt p 0x18 8 != 0 }

def rpairOf (w : Nat) : RangePair :=
  { srcFirst := field w 0 8, srcCount := field w 8 8, dstFirst := field w 16 8, dstCount := field w 24 8 }

def containerEntries (b : List Byte) : List Entry :=
  let c := containerOf b
  (List.range c.numEntries).map (fun i => progEntryOf b ((b.drop (c.entryOff + 64 * i)).take 64))

def containerDescs (b : List Byte) : List Desc :=
  let c := containerOf b
  (List.range c.numDesc).map (fun i => descOf ((b.drop (c.descOff + 160 * i)).take 160))

def containerPres (b : List Byte) : List Pres :=
  let c := containerOf b
  (List.range c.numPres).map (fun i => presOf ((b.drop (c.presOff + 32 * i)).take 32))

def containerRpairs (b : List Byte) : List RangePair :=
  let c := containerOf b
  (List.range c.numRpair).map (fun i => rpairOf (leAt b (c.rpairOff + 4 * i) 4))

/-! Descriptors (R176 to R186). -/

end Sys2Proof.Machine

namespace Sys2Proof

def Desc.dim (d : Desc) (k : Nat) : Dim :=
  d.dims.getD k { extent := 1, src := 0, arg := 0, lvlStride := false, stride := 0, alloc := 1 }

/-- Bytes of an element (R179). -/
def Desc.width (d : Desc) : Nat := if d.twoWord then 8 else 4

/-- The pad granule of a dimension; `row` says that an MXA instruction uses it as its row extent (R186). -/
def Desc.granule (d : Desc) (k : Nat) (row : Bool) : Nat :=
  let block := if k = 0 && !d.hdr && (d.dim 0).stride == 1 then (if d.twoWord then 512 else 1024) else 1
  if row then max block 64 else block

end Sys2Proof

namespace Sys2Proof.Machine

open Sys2Proof

/-- The bound of the indices touched along a dimension (R187). -/
def paddedExtent (e g : Nat) : Nat := ceilDiv e g * g

/-- The template of a descriptor as a header, under a template tag (R44). -/
def templateOf (d : Desc) (tag : Nat) : Hdr :=
  { kind := d.tKind, log2n := d.tLog2n, level := d.tLevel, state := hValid, cause := cNone, domain := d.tDomain, bcmode := 1
    tag := tag, chain := d.tChain, layout := d.tLayout, slotsLog2 := d.tSlotsLog2, scale := d.tScale }

/-- The load transform word's fields (R100). -/
def ltwGalois (w : Nat) : Nat := field w 0 2
def ltwElt (w : Nat) : Nat := field w 2 18
def ltwPerm (w : Nat) : Nat := field w 20 2
def ltwLogA (w : Nat) : Nat := field w 22 5
def ltwLogB (w : Nat) : Nat := field w 27 5
def ltwBcast (w : Nat) : Bool := bit w 32
def ltwRun (w : Nat) : Nat := field w 33 5
def ltwConvert (w : Nat) : Bool := bit w 38

/-- A load that passes through a reorder buffer (R106, R111). -/
def ltuBuffered (ltw : Nat) : Bool := (ltwGalois ltw != 0 && ltwElt ltw != 1) || ltwPerm ltw == 1 || ltwPerm ltw == 2

/-! Header effects seen from the templates or at run time (table Header effects by operation class). -/

/-- The operation class of each operation with a primary header effect: LEVEL, SCALE, DOMAIN and KIND of the result, the
causes its operands originate (R36 to R38, R47, R50, R98). `ops` are the effective headers in order; `level` is that of the
payload, which a template gives where a header of KIND 4 names none (R184). -/
structure Effect where
  hdr : Hdr
  level : Nat
  causes : List Nat
deriving DecidableEq, Repr

def isCipher (h : Hdr) : Bool := h.kind == 1 || h.kind == 2 || h.kind == 4

/-- R47 among the operands: two ciphertext tags that differ, a tied plaintext under another tag, a ciphertext tag of
zero. -/
def tagsClash (ops : List Hdr) : Bool :=
  let cts := ops.filter isCipher
  let pts := ops.filter (fun h => !isCipher h && h.tag != 0)
  cts.any (fun c => c.tag == 0 || cts.any (fun x => x.tag != c.tag) || pts.any (fun p => p.tag != c.tag))

/-- R50 among the operands of a binary operation. -/
def shapesClash (ops : List Hdr) : Bool :=
  match ops with
  | [] => false
  | a :: r => r.any (fun b => b.log2n != a.log2n || b.chain != a.chain || b.domain != a.domain || b.slotsLog2 != a.slotsLog2)

def scalesClash (ops : List Hdr) : Bool :=
  match ops with
  | [] => false
  | a :: r => r.any (fun b => b.scale != a.scale)

/-- The source whose template is the first of a ciphertext KIND, else the first source (R209). -/
def leadSource (templates : List Hdr) : Nat := (templates.findIdx? isCipher).getD 0

def minLevel (ops : List Hdr) : Nat := (minList (ops.map (·.level))).getD 0

/-- DROP_EXP of pair l - 1 (R36). -/
def Chain.dropExp (c : Chain) (l : Nat) : Nat := ((c.pairs[l - 1]?).map (·.2.2)).getD 0

/-- The result header of a primary-scheme operation from its operands' effective headers, and the causes it originates
but for the tags (R36 to R38, R50, R98): KEYSET_TAG and SLOTS_LOG2 come from `lead` (R209), the rest from the first
operand. A result of KIND 4 carries LEVEL 0 (R38). EXPORT originates none of these (R271); a LINEAR's operands are A and then its diagonals. -/
def effectOf (chains : List Chain) (op arg wScale : Nat) (lead : Hdr) (ops : List Hdr) : Effect :=
  match ops with
  | [] => { hdr := default, level := 0, causes := [] }
  | f :: _ =>
    let l := minLevel ops
    let chain := chains.find? (fun c => c.id == f.chain)
    let total : Int := ((ops.take 2).map (fun h => (h.scale : Int))).foldl (· + ·) 0
    let (level, scale, lvlCause) : Nat × Int × Bool :=
      if op = opMulPt || op = opMulCt || op = opLinear then (l, total, false)
      else if op = opMatmul then (l, (f.scale : Int) + wScale, false)
      else if op = opRescale then
        (if l ≤ 1 then (1, (f.scale : Int), true)
         else (l - 1, (f.scale : Int) - ((chain.map (fun c => c.dropExp l)).getD 0 : Nat), false))
      else if op = opLevelDrop then (if l ≤ arg then (1, (f.scale : Int), true) else (l - arg, (f.scale : Int), false))
      else (l, (f.scale : Int), false)
    let (sc, clamped) := clampScale scale
    let kind := if op = opMulCt then 2
      else if op = opRelin || op = opRotate || op = opConjugate || op = opLinear then 1 else f.kind
    let needsEval := op = opMulPt || op = opMulCt || op = opRelin || op = opRotate || op = opConjugate || op = opLinear ||
      op = opMatmul
    let wrongDomain := (needsEval && ops.any (fun h => h.domain != 1)) ||
      (op = opNttFwd && (f.domain != 0 || f.kind == 4)) || (op = opNttInv && (f.domain != 1 || f.kind == 4))
    let domain := if f.kind = 4 then 0 else if op = opNttFwd then 1 else if op = opNttInv then 0 else f.domain
    let terms := if op = opLinear then ops.drop 1
      else if op = opAdd || op = opSub || op = opMatmul || op = opScatterAdd then ops else []
    let overCap := kind != 4 && overCapacity chains f.chain level sc
    { hdr := { f with level := if kind = 4 then 0 else level, scale := sc, kind := kind, domain := domain
                      state := hValid, cause := cNone, bcmode := 1, tag := lead.tag, slotsLog2 := lead.slotsLog2 }
      level := level
      causes := if op = opExport then [] else
        (if wrongDomain || shapesClash ops then [cShape] else []) ++ (if lvlCause then [cLevel] else []) ++
        (if clamped || overCap || scalesClash terms then [cScale] else []) }

end Sys2Proof.Machine
end

