-- ==== Sys2Proof/Machine/Ring.lean ====
section
/-! DEFINITION. Exact ring arithmetic on represented values (R23, R24, R89 to R92, R109 to R112, R121, R122, R140, R516):
the transform, automorphisms, base conversion, rescale, reductions. A limb is a list of N residues, a polynomial a list
of limbs. -/

namespace Sys2Proof.Machine

open Sys2Proof

abbrev Limb := List Nat

/-! Roots (R89). -/

/-- The prime factors of n found by trial division from d, with fuel. -/
def primeFactors : Nat → Nat → Nat → List Nat
  | 0, _, n => if 1 < n then [n] else []
  | f + 1, d, n =>
    if n < 2 then []
    else if n < d * d then [n]
    else if n % d = 0 then d :: primeFactors f d (n / d)
    else primeFactors f (d + 1) n

/-- g is a primitive root modulo q. -/
def isPrimitiveRoot (factors : List Nat) (q g : Nat) : Bool := factors.all (fun p => powMod g ((q - 1) / p) q != 1)

/-- The smallest primitive root modulo a prime q of a chain. -/
def primitiveRoot (q : Nat) : Nat :=
  let fs := primeFactors 65536 2 (q - 1)
  ((List.range 1000).find? (fun g => decide (2 ≤ g) && isPrimitiveRoot fs q g)).getD 0

/-- ψ for ring dimension n and prime q; a prime that does not serve the ring has none (log 32). -/
def psi (n q : Nat) : Nat :=
  if (q - 1) % (2 * n) = 0 then powMod (primitiveRoot q) ((q - 1) / (2 * n)) q else Config.rootless n q % q

/-! The transform (R90). -/

/-- The m low bits of n reversed. -/
def brev : Nat → Nat → Nat
  | 0, _ => 0
  | m + 1, n => (n % 2) * 2 ^ m + brev m (n / 2)

/-- The evaluation exponent of index n. -/
def evalExp (m n : Nat) : Nat := 2 * brev m n + 1

/-- The value of a polynomial at a point, modulo q. -/
def polyEval (q x : Nat) (a : Limb) : Nat := a.foldr (fun c acc => (c + x * acc) % q) 0

/-- NTT.FWD of a limb of 2^m residues under q. -/
def nttForward (m q : Nat) (a : Limb) : Limb :=
  let w := psi (2 ^ m) q
  (List.range (2 ^ m)).map (fun n => polyEval q (powMod w (evalExp m n) q) a)

/-- Σ over n of x[n] w^(e(n)), Horner by position: the terms in their order. -/
def dotPow (m q w : Nat) (a : Limb) : Nat :=
  (a.zipIdx.foldl (fun acc x => (acc + x.1 * powMod w (evalExp m x.2) q) % q) 0)

/-- NTT.INV, the inverse of the forward transform. -/
def nttInverse (m q : Nat) (a : Limb) : Limb :=
  let winv := invMod (psi (2 ^ m) q) q
  let ninv := invMod (2 ^ m % q) q
  (List.range (2 ^ m)).map (fun i => (ninv * dotPow m q (powMod winv i q) a) % q)

/-! Limb arithmetic under one prime. -/

def limbZip (f : Nat → Nat → Nat) (a b : Limb) : Limb := List.zipWith f a b
def limbAdd (q : Nat) (a b : Limb) : Limb := limbZip (fun x y => (x + y) % q) a b
def limbSub (q : Nat) (a b : Limb) : Limb := limbZip (fun x y => (x + (q - y % q)) % q) a b
def limbMul (q : Nat) (a b : Limb) : Limb := limbZip (fun x y => (x * y) % q) a b
def limbNeg (q : Nat) (a : Limb) : Limb := a.map (fun x => (q - x % q) % q)
def limbScale (q k : Nat) (a : Limb) : Limb := a.map (fun x => (k * x) % q)
def limbZero (n : Nat) : Limb := List.replicate n 0

/-- The element-wise operation on polynomials of one list of primes. -/
def polyZip (f : Nat → Limb → Limb → Limb) (qs : List Nat) (a b : List Limb) : List Limb :=
  (qs.zip (a.zip b)).map (fun x => f x.1 x.2.1 x.2.2)

def polyMap (f : Nat → Limb → Limb) (qs : List Nat) (a : List Limb) : List Limb := (qs.zip a).map (fun x => f x.1 x.2)

/-! Automorphisms (R109 to R112). -/

/-- π_g in the evaluation domain. -/
def galoisIndex (m g n : Nat) : Nat := brev m (((g * evalExp m n) % 2 ^ (m + 1) - 1) / 2)

def galoisEval (m g : Nat) (a : Limb) : Limb :=
  if g = 1 then a else (List.range (2 ^ m)).map (fun n => a.getD (galoisIndex m g n) 0)

/-- The inverse of an odd g modulo 2^k, by Newton steps. -/
def invPow2 (k g : Nat) : Nat := (List.range 6).foldl (fun x _ => (x * (2 ^ (k + 6) + 2 - (g * x) % 2 ^ k)) % 2 ^ k) (g % 2 ^ k)

/-- The signed permutation of the coefficient domain. -/
def galoisCoeff (m q g : Nat) (a : Limb) : Limb :=
  if g = 1 then a
  else
    let ginv := invPow2 (m + 1) g
    (List.range (2 ^ m)).map (fun t =>
      let u := (ginv * t) % 2 ^ (m + 1)
      if u < 2 ^ m then a.getD u 0 else (q - a.getD (u - 2 ^ m) 0 % q) % q)

/-- The Galois element of a rotation by k slots (R112). -/
def rotationElement (n k : Nat) : Nat := powMod 5 (k % (n / 2)) (2 * n)

/-! Base conversion (R122). -/

/-- Π of a list modulo q. -/
def prodMod (q : Nat) (l : List Nat) : Nat := l.foldl (fun acc x => (acc * x) % q) (1 % q)

/-- y_i of one coefficient: x_i × (Q/q_i)^-1 mod q_i. -/
def bconvY (src : List Nat) (xs : List Nat) : List Nat :=
  (src.zip xs).map (fun p => (p.2 % p.1 * invMod (prodMod p.1 (src.filter (· != p.1))) p.1) % p.1)

/-- v of BCONV.EXACT. -/
def bconvV (src ys : List Nat) : Nat :=
  ((src.zip ys).foldl (fun acc p => acc + p.2 * (2 ^ 64 / p.1)) (2 ^ 63)) / 2 ^ 64

/-- One output residue under prime p. -/
def bconvOut (src ys : List Nat) (v p : Nat) : Nat :=
  let sum := (src.zip ys).foldl (fun acc y => (acc + y.2 * prodMod p (src.filter (· != y.1))) % p) 0
  (sum + (p - (v * prodMod p src) % p)) % p

/-- The coefficients of a polynomial, each as its residues in the order of the limbs. -/
def columns (n : Nat) (a : List Limb) : List (List Nat) := (List.range n).map (fun i => a.map (fun l => l.getD i 0))

/-- BCONV of limbs under the source primes onto the target primes, on represented values. -/
def bconv (exact : Bool) (n : Nat) (src dst : List Nat) (a : List Limb) : List Limb :=
  let ys := (columns n a).map (bconvY src)
  dst.map (fun p => ys.map (fun y => bconvOut src y (if exact then bconvV src y else 0) p))

/-! Rescale (R516). -/

/-- The integer r in (-Q_d/2, Q_d/2] with the residues xa and xb, modulo q. -/
def centredMod (qa qb xa xb q : Nat) : Nat :=
  let d := qa * qb
  let t := (xa % qa + qa * (((xb % qb + (qb - xa % qa % qb)) * invMod (qa % qb) qb) % qb)) % d
  if t ≤ d / 2 then t % q else (q - (d - t) % q) % q

/-- The kept limbs of one component in the coefficient domain. -/
def rescaleCoeff (qs : List Nat) (qa qb : Nat) (a : List Limb) (la lb : Limb) : List Limb :=
  polyMap (fun q l => limbZip (fun x ab => ((x + (q - centredMod qa qb (ab / qb) (ab % qb) q)) * invMod (qa * qb % q) q) % q)
    l (limbZip (fun xa xb => xa % qa * qb + xb % qb) la lb)) qs a

/-- R516 on one component of 2l limbs in either domain. -/
def rescalePoly (m : Nat) (evalDomain : Bool) (qs : List Nat) (a : List Limb) : List Limb :=
  let k := qs.length - 2
  let qa := qs.getD k 3
  let qb := qs.getD (k + 1) 5
  let inv (q : Nat) (l : Limb) : Limb := if evalDomain then nttInverse m q l else l
  let fwd (q : Nat) (l : Limb) : Limb := if evalDomain then nttForward m q l else l
  polyMap fwd (qs.take k)
    (rescaleCoeff (qs.take k) qa qb (polyMap inv (qs.take k) (a.take k)) (inv qa (a.getD k [])) (inv qb (a.getD (k + 1) [])))

/-! Montgomery words (R32 to R34, R121, R131). -/

/-- The Montgomery form of a represented value. -/
def toMont (q v : Nat) : Nat := v % q * 2 ^ 32 % q

/-- The represented value of a Montgomery word. -/
def fromMont (q w : Nat) : Nat := w % q * invMod (2 ^ 32 % q) q % q

/-! Reductions (R140). -/

/-- One level of the tree. -/
def pairUp {α : Type} (op : α → α → α) : List α → List α
  | x :: y :: r => op x y :: pairUp op r
  | l => l

/-- The tree of R140, with fuel for its levels. -/
def reduceTree {α : Type} (op : α → α → α) : Nat → List α → Option α
  | _, [] => none
  | _, [x] => some x
  | 0, x :: _ => some x
  | f + 1, l => reduceTree op f (pairUp op l)

def treeSum {α : Type} (op : α → α → α) (l : List α) : Option α := reduceTree op l.length l

end Sys2Proof.Machine
end

