-- ==== Sys2Proof/Machine/Operands.lean ====
section
/-! DEFINITION. Operands: views of memory through handles (R68 to R74, R83), the addresses a descriptor touches (R179 to
R187), the load transforms (R101, R109, R110), objects with headers as components, limbs and coefficients (R182 to
R185). -/

namespace Sys2Proof.Machine

open Sys2Proof

/-! Views. -/

/-- A handle as an instruction uses it (R68, R69): place 0 LOCAL, 1 REMOTE, 2 NEAR, 3 FAR. `core` is the core whose
scratchpad a LOCAL or REMOTE handle names. -/
structure View where
  place : Nat
  core : Nat
  base : Nat
  length : Nat
deriving DecidableEq, Repr, Inhabited

/-- A handle that is not valid behaves as one of length 0 (R71). -/
def noView : View := { place := 3, core := 0, base := 0, length := 0 }

/-- What a tile's coordinates add to BASE (R65, R224). -/
def stepOf (h : HandleBind) (key limb blk item : Nat) : Nat :=
  h.step.key * key + h.step.limb * limb + h.step.blk * blk + h.step.item * item

/-- BASE of a binding: fixed, plus the 64-bit value of two bound-block words, plus what the tile adds (R65, R68). -/
def handleBase (h : HandleBind) (bound : List Nat) (step : Nat := 0) : Nat :=
  h.base + step + (match h.word with
    | some w => bound.getD w 0 + 2 ^ 32 * bound.getD (w + 1) 0
    | none => 0)

def viewOfBind (core : Nat) (bound : List Nat) (h : HandleBind) : View :=
  { place := h.place, core := if h.place = 1 then h.peer else core, base := handleBase h bound, length := h.length }

def viewOfHandle (core : Nat) (h : Handle) : View :=
  if h.valid then
    { place := h.place, core := if h.place = 1 then h.peer else core, base := h.base, length := h.length }
  else noView

/-- The address a report names for a byte at an offset of a view (R518): modulo 2^64. -/
def View.addr (v : View) (off : Int) : Nat :=
  ((if v.place < 2 then (scratchAddr v.core 0 : Int) else 0) + v.base + off).toNat % 2 ^ 64

/-! Near memory (R158, R294): where a piece lies on its stack is the hub firmware's (log 31), within the part of the stack
that holds pieces. -/

def nearBase : Nat := 0x100000000000
def nearStackBytes : Nat := 0x600000000
/-- Bytes of a near stack for resident pieces; the hub tables lie above them (R294). -/
def nearPieceBytes : Nat := 0x580000000

/-- The offset of a piece on its stack: a block boundary at which it ends below the hub tables. -/
def NearPiece.offset (p : NearPiece) : Nat :=
  Config.nearPlace p.caddy p.number % ((nearPieceBytes - p.data.length) / blockBytes + 1) * blockBytes

/-- The piece that covers an offset of a near stack. -/
def nearPieceAt (s : State) (stack off : Nat) : Option NearPiece :=
  s.near.pieces.find? (fun p => p.stack == stack && decide (p.offset ≤ off) && decide (off < p.offset + p.data.length))

/-- A block of the near tier and whether its check passes: of the piece that covers it (R171, R200, R292); where no piece
lies nothing has been written. -/
def nearBlock (s : State) (blk : Nat) : List Byte × Bool :=
  let a := blk * blockBytes - nearBase
  let off := a % nearStackBytes
  match nearPieceAt s (a / nearStackBytes) off with
  | some p => (padTo blockBytes ((p.data.drop (off - p.offset)).take blockBytes), p.passes ((off - p.offset) / blockBytes))
  | none => (zeros blockBytes, false)

/-- A near range covered by resident pieces of the caddies a job binds (R70). -/
def nearGranted (s : State) (binds : List Nat) (base len : Nat) : Bool :=
  (List.range (len / blockBytes)).all (fun i =>
    let a := base + i * blockBytes - nearBase
    decide (nearBase ≤ base) &&
      ((nearPieceAt s (a / nearStackBytes) (a % nearStackBytes)).map (fun p => binds.contains p.caddy)).getD false)

/-! Fetching and storing elements. -/

/-- A block behind a view by its block number in the view's place, and whether its check passes. -/
def View.block (s : State) (v : View) (blk : Nat) : List Byte × Bool :=
  if v.place < 2 then scratchBlock (s.core v.core) blk
  else if v.place = 2 then nearBlock s blk
  else s.far.readBlock blk

/-- The whole bytes of an element lie inside the handle. -/
def View.inside (v : View) (off : Int) (w : Nat) : Bool := decide (0 ≤ off) && decide (off + w ≤ v.length)

/-- What a fetch gives: the words in order, whether a block read fails, the lowest byte touched outside the handle. -/
structure Fetch where
  words : List Nat
  bad : Bool
  out : Option Int
deriving Repr, Inhabited

def lowest : List Int → Option Int
  | [] => none
  | x :: r => some (r.foldl min x)

/-- The lowest byte outside the handle that an element touches (R518). -/
def View.outside (v : View) (w : Nat) (off : Int) : Option Int :=
  if v.inside off w then none else some (if off < 0 ∨ (v.length : Int) ≤ off then off else v.length)

/-- The blocks that elements touch inside the handle, as block numbers of the place. -/
def View.blocks (v : View) (w : Nat) (offs : List Int) : List Nat :=
  (offs.flatMap (fun o =>
    if v.inside o w then [(v.base + o.toNat) / blockBytes, (v.base + o.toNat + w - 1) / blockBytes]
    else ((List.range w).filter (fun i : Nat => v.inside (o + (i : Int)) 1)).map (fun i : Nat => (v.base + (o + (i : Int)).toNat) / blockBytes))).eraseDups

def tableByte (t : List (Nat × Array Byte)) (a : Nat) : Byte :=
  match t.find? (fun b => b.1 == a / blockBytes) with
  | some b => b.2.getD (a % blockBytes) 0
  | none => 0

/-- Elements of w bytes at offsets of a view (R71): bytes outside read as zero; `ok` tells whether a block's check
passes. -/
def View.fetchBy (s : State) (v : View) (ok : Nat → Bool) (w : Nat) (offs : List Int) : Fetch :=
  let blks := v.blocks w offs
  let t := blks.map (fun b => (b, (v.block s b).1.toArray))
  { words := offs.map (fun o => leNat ((List.range w).map (fun i : Nat =>
      if v.inside (o + (i : Int)) 1 then tableByte t (v.base + (o + (i : Int)).toNat) else 0)))
    bad := blks.any (fun b => !ok b)
    out := lowest (offs.filterMap (v.outside w)) }

def View.fetch (s : State) (v : View) (w : Nat) (offs : List Int) : Fetch := v.fetchBy s (fun b => (v.block s b).2) w offs

/-! Repair under a consumer (R387, R388). -/

/-- A resident piece as its library copy has it. -/
def libraryCopy (s : State) (p : NearPiece) : Option NearPiece :=
  (findCaddy s p.caddy).bind (fun c => (c.pieceOffsets[p.number]?).map (fun o => nearCopy s c p.number p.stack o))

/-- The near copy of a piece with failing blocks is written again from its library copy (R171, R387). -/
def repairNear (s : State) (blk : Nat) : State :=
  if (nearBlock s blk).2 then s
  else
    let a := blk * blockBytes - nearBase
    match nearPieceAt s (a / nearStackBytes) (a % nearStackBytes) with
    | none => s
    | some p =>
      match libraryCopy s p with
      | some q => s.updNear (fun n => { n with pieces := n.pieces.map (fun x => if x = p then q else x) })
      | none => s

/-- The mirrored buffer that holds a block whole. -/
def mirrorOf (c : CoreCtx) (blk : Nat) : Option MirrorBuf :=
  c.mirrors.find? (fun m => !m.lost && decide (m.base ≤ blk * blockBytes) && decide ((blk + 1) * blockBytes ≤ m.base + m.length))

/-- The good copy of a scratchpad block on the buddy (R83). -/
def scratchCopy (s : State) (core blk : Nat) : Option (List Byte) :=
  (mirrorOf (s.core core) blk).bind (fun m =>
    let b := scratchBlock (s.core m.buddy) ((blk * blockBytes - m.base + m.buddyBase) / blockBytes)
    if b.2 then some b.1 else none)

/-- A scratchpad block that was written whole fails its check and has no good copy (R387). -/
def scratchLost (s : State) (core blk : Nat) : Bool :=
  !(scratchBlock (s.core core) blk).2 && (scratchCopy s core blk).isNone && (tabGet? (s.core core).sideBad blk).isNone &&
    tabGet 0 (s.core core).side blk != 0

/-- A scratchpad block that fails its check: rewritten from its copy where the buffer is mirrored; one that was whole and
has no good copy is lost, with its event (R83, R387, R388). A block written in part has no check to repair it by (R74). -/
def repairScratch (s : State) (job core blk : Nat) : State :=
  if (scratchBlock (s.core core) blk).2 then s
  else match scratchCopy s core blk with
    | some b => s.updCore core (fun c => c.store [(blk * blockBytes, b)])
    | none => if scratchLost s core blk then postLoss s job (scratchAddr core (blk * blockBytes)) else s

/-- The repair of a block behind a view. -/
def repairBehind (job : Nat) (v : View) (s : State) (blk : Nat) : State :=
  if v.place < 2 then repairScratch s job v.core blk
  else if v.place = 2 then repairNear s blk
  else repairFar s blk

/-- A read of blocks behind a view wakes the stacks they lie on (R312). -/
def View.wake (s : State) (v : View) (blks : List Nat) : State :=
  if v.place = 2 then ((blks.map (fun b => (b * blockBytes - nearBase) / nearStackBytes)).eraseDups).foldl (fun s n => touchStack s (16 + n)) s
  else if v.place = 3 then touchBlocks s false blks
  else s

/-- Every block that elements touch inside a handle, repaired before its consumer has it. -/
def View.repair (s : State) (job : Nat) (v : View) (w : Nat) (offs : List Int) : State :=
  (v.blocks w offs).foldl (repairBehind job v) (v.wake s (v.blocks w offs))

/-- Consecutive bytes joined into runs. -/
def addRun (a : Nat) (bs : List Byte) : List (Nat × List Byte) → List (Nat × List Byte)
  | (b, cs) :: r => if b + cs.length = a then (b, cs ++ bs) :: r else (a, bs) :: (b, cs) :: r
  | [] => [(a, bs)]

/-- The bytes of elements that fall inside the handle, as runs in their order. -/
def View.runs (v : View) (w : Nat) (items : List (Int × Nat)) : List (Nat × List Byte) :=
  (items.foldl (fun acc x =>
    let bs := leBytes w x.2
    if v.inside x.1 w then addRun (v.base + x.1.toNat) bs acc
    else bs.zipIdx.foldl (fun acc b =>
      if v.inside (x.1 + b.2) 1 then addRun (v.base + (x.1 + b.2).toNat) [b.1] acc else acc) acc)
    []).reverse

/-- Runs of bytes stored behind a view (R71, R83, R298). Nothing writes the near tier. -/
def View.storeRuns (s : State) (v : View) (runs : List (Nat × List Byte)) : State :=
  if v.place < 2 then s.storeScratch v.core runs
  else if v.place = 3 then runs.foldl (fun s r => deviceWrite s r.1 r.2) s
  else s

/-- Elements written through a view: the state, and the lowest byte outside the handle (R71). -/
def View.put (s : State) (v : View) (w : Nat) (items : List (Int × Nat)) : State × Option Int :=
  (v.storeRuns s (v.runs w items), lowest (items.filterMap (fun x => v.outside w x.1)))

/-! Addresses of a descriptor (R179, R180, R187). -/

/-- Offsets of loops given by their own offsets from the innermost, in flat order. -/
def loopOffsets : List (List Int) → List Int
  | [] => [0]
  | l :: r => (loopOffsets r).flatMap (fun o => l.map (fun x => o + x))

/-- Byte stride of a dimension: m_k is 2ℓ where LVL_STRIDE is set (R179). -/
def dimStride (d : Desc) (lvl2 k : Nat) : Int :=
  (d.dim k).stride * (d.width : Int) * (if (d.dim k).lvlStride then (lvl2 : Int) else 1)

/-! Load transforms (R101, R109, R110). -/

/-- β then τ then π: the source position along d0 of a delivered position along d0 (R101). An automorphism whose innermost
extent, read at issue, is no whole number of limbs is mapped position by position all the same, within limbs of N (DESIGN
CHOICE, log 101: R102 asks for whole limbs and states no outcome at run time). -/
def ltuSource (d : Desc) (p : Nat) : Nat :=
  let w := d.ltw
  let p := if ltwBcast w then p % 2 ^ ltwRun w else p
  let p := if ltwPerm w = 1 then
      let a := 2 ^ ltwLogA w
      let b := 2 ^ ltwLogB w
      p / (a * b) * (a * b) + (p % (a * b) % a) * b + p % (a * b) / a
    else p
  let n := 2 ^ d.tLog2n
  if ltwGalois w = 1 ∧ ltwElt w ≠ 1 then p / n * n + galoisIndex d.tLog2n (ltwElt w) (p % n)
  else if ltwGalois w = 2 ∧ ltwElt w ≠ 1 then
    p / n * n + (invPow2 (d.tLog2n + 1) (ltwElt w) * (p % n)) % 2 ^ (d.tLog2n + 1) % n
  else p

/-- A COEFF automorphism negates the element at a delivered position (R110). -/
def ltuNegates (d : Desc) (p : Nat) : Bool :=
  let w := d.ltw
  let n := 2 ^ d.tLog2n
  let q := if ltwPerm w = 1 then
      let a := 2 ^ ltwLogA w
      let b := 2 ^ ltwLogB w
      p / (a * b) * (a * b) + (p % (a * b) % a) * b + p % (a * b) / a
    else p
  ltwGalois w == 2 && ltwElt w != 1 && decide (n ≤ (invPow2 (d.tLog2n + 1) (ltwElt w) * (q % n)) % 2 ^ (d.tLog2n + 1))

/-- The words of a load with the elements a COEFF automorphism marks negated under the prime of their position (R101,
R110); `row` is the innermost extent delivered. The conversion of form is apart. -/
def ltuNegated (d : Desc) (row : Nat) (prime : Nat → Nat) (xs : List Nat) : List Nat :=
  if ltwGalois d.ltw = 2 then
    xs.zipIdx.map (fun x => if ltuNegates d (x.2 % row) then (prime x.2 - x.1 % prime x.2) % prime x.2 else x.1)
  else xs

/-- The positions along d0 that a load reads together: the limb of an automorphism, the run of a STRIDE (R103, R107). -/
def ltuRun (d : Desc) : Nat :=
  if ltwGalois d.ltw ≠ 0 ∧ ltwElt d.ltw ≠ 1 then 2 ^ d.tLog2n
  else if ltwPerm d.ltw = 1 then 2 ^ (ltwLogA d.ltw + ltwLogB d.ltw)
  else 1

/-- The offsets along one dimension of an item. The load transforms choose the source position along d0 (R101, R103); a
TRANSPOSE load exchanges the strides of d0 and d1. -/
def dimOffsets (d : Desc) (lvl2 k e : Nat) : List Int :=
  let st := dimStride d lvl2 (if ltwPerm d.ltw = 2 ∧ k < 2 then 1 - k else k)
  (List.range e).map (fun i : Nat => ((if k = 0 then ltuSource d i else i : Nat) : Int) * st)

/-- A descriptor whose elements stand at their indices: a TRANSPOSE or BCAST load keeps its own order, an automorphism or a STRIDE load
takes its limb or run whole (R101, R107). -/
def indexDesc (d : Desc) : Desc := { d with ltw := if ltwPerm d.ltw = 2 ∨ ltwBcast d.ltw then d.ltw else 0 }

/-- The loops of an item for six extents. -/
def itemLoops (d : Desc) (lvl2 : Nat) (ext : List Nat) : List (List Int) :=
  (List.range 6).map (fun k => dimOffsets d lvl2 k (ext.getD k 1))

/-- Offset of the item (b0, b1) (R179, R182). -/
def itemOffset (d : Desc) (b0 b1 : Nat) : Int := (b0 : Int) * d.bstride0 + (b1 : Int) * d.bstride1

/-- The offsets of an item's elements in flat order. -/
def elemOffsets (d : Desc) (lvl2 : Nat) (ext : List Nat) (b0 b1 : Nat) : List Int :=
  (loopOffsets (itemLoops d lvl2 ext)).map (fun o => (d.dataOffset : Int) + itemOffset d b0 b1 + o)

/-- A batch item by its flat index: b1-major (R180, R224). -/
def itemAt (n0 m : Nat) : Nat × Nat := if n0 = 0 then (0, 0) else (m % n0, m / n0)

/-! Extents (R176 to R178). -/

/-- A count by its source (R180, R211). -/
def countOf (sregs : Tab W64) (bound : List Nat) (lvl2 : Nat) : CountSrc → Nat
  | .fixed n => n
  | .sreg r => (tabGet 0 sregs r).toNat % 2 ^ 32
  | .bound w => bound.getD w 0
  | .level => lvl2

/-- The extent read at issue, before ALLOC (table EXT_SRC encoding). -/
def Dim.read (x : Dim) (sregs : Tab W64) (bound : List Nat) (lvl2 : Nat) : Nat :=
  match x.src with
  | 0 => x.extent
  | 1 => countOf sregs bound lvl2 (.sreg x.arg)
  | 2 => countOf sregs bound lvl2 (.bound x.arg)
  | _ => lvl2

/-- The six extents held to ALLOC, and the dimensions that were held (R178). -/
def extentsOf (d : Desc) (sregs : Tab W64) (bound : List Nat) (lvl2 : Nat) : List Nat × List Nat :=
  let raw := (List.range 6).map (fun k => (k, Dim.read (d.dim k) sregs bound lvl2))
  (raw.map (fun x => min x.2 (d.dim x.1).alloc), (raw.filter (fun x => decide ((d.dim x.1).alloc < x.2))).map (·.1))

/-- Extents rounded up to their pad granules (R186, R187), but for the k innermost that a REDUCE combines. -/
def padded (d : Desc) (rows : List Nat) (reduced : Nat) (ext : List Nat) : List Nat :=
  ext.zipIdx.map (fun e => if e.2 < reduced then e.1 else paddedExtent e.1 (d.granule e.2 (rows.contains e.2)))

/-! Objects as components × limbs × coefficients. -/

abbrev Poly := List (List Limb)

/-- Components and coefficients of a descriptor's template (R183): samples and words of an LWE batch. -/
def tmplComps (d : Desc) : Nat := if d.tKind = 4 then 2 ^ (d.tSlotsLog2 + 1) else components d.tKind
def tmplN (d : Desc) : Nat := if d.tKind = 4 then 1024 else 2 ^ d.tLog2n
/-- Limbs at a level: two for an LWE batch. -/
def limbsAt (d : Desc) (level : Nat) : Nat := if d.tKind = 4 then 2 else 2 * level

/-- Exactly n words. -/
def fitLimb (n : Nat) (l : Limb) : Limb := l.take n ++ List.replicate (n - l.length) 0

/-- Component j, limb i, fitted to n words; absent ones are zero (R50, R187). -/
def Poly.limb (p : Poly) (j i n : Nat) : Limb := fitLimb n ((p.getD j []).getD i [])

/-- The extents of an object's payload for a number of limbs (R183). -/
def objectExtents (d : Desc) (limbs : Nat) : List Nat :=
  if d.tKind = 4 then [1024, min limbs 2, tmplComps d, 1, 1, 1]
  else if d.tLayout = 1 then [tmplN d, limbs, tmplComps d, 1, 1, 1]
  else [1024, limbs, tmplN d / 1024, tmplComps d, 1, 1]

def isTiled (d : Desc) : Bool := d.tKind != 4 && d.tLayout != 1

/-- A payload in flat order as components, limbs, coefficients. -/
def unflatten (d : Desc) (limbs : Nat) (xs : List Nat) : Poly :=
  let n := tmplN d
  if isTiled d then
    (chunks (limbs * n) (tmplComps d) xs).map (fun c =>
      let blocks := (chunks (limbs * 1024) (n / 1024) c).map (chunks 1024 limbs)
      (List.range limbs).map (fun i => blocks.flatMap (fun b => b.getD i [])))
  else (chunks (limbs * n) (tmplComps d) xs).map (chunks n limbs)

/-- A payload in flat order from components, limbs, coefficients. -/
def flatten (d : Desc) (limbs : Nat) (p : Poly) : List Nat :=
  let n := tmplN d
  if isTiled d then
    (List.range (tmplComps d)).flatMap (fun j => (List.range (n / 1024)).flatMap (fun b =>
      (List.range limbs).flatMap (fun i => ((Poly.limb p j i n).drop (1024 * b)).take 1024)))
  else (List.range (tmplComps d)).flatMap (fun j => (List.range limbs).flatMap (fun i => Poly.limb p j i n))

/-- The limb index of a flat position of a payload. -/
def limbAt (d : Desc) (limbs p : Nat) : Nat := p / (if isTiled d then 1024 else tmplN d) % limbs

end Sys2Proof.Machine
end

