-- ==== Sys2Proof/Machine/Strainer.lean ====
section
/-! DEFINITION. The strainer (R181, R208, R210, R217): each check by its rejection code, in the order of the codes. The
private body reaches the model decoded (R207). -/

namespace Sys2Proof.Machine

open Sys2Proof

/-- A rejection: code, entry index, descriptor index, 0xFFFF where none applies (R202). -/
structure Rejection where
  code : Nat
  entry : Nat := 0xFFFF
  desc : Nat := 0xFFFF
deriving DecidableEq, Repr

/-- What the strainer looks at. -/
structure Strained where
  bytes : List Byte
  c : Container
  chains : List Chain
  entries : List Entry
  descs : List Desc
  press : List Pres
  rpairs : List RangePair
  decodes : Bool
  codes : List (Option BodyEntry)

def Strained.desc (x : Strained) (i : Nat) : Desc := x.descs.getD i default

/-- An entry's descriptors in order, destinations first. -/
def Strained.descsOf (x : Strained) (e : Entry) : List Desc :=
  (List.range (e.numDst + e.numSrc)).map (fun i => x.desc (e.descFirst + i))

def Strained.bodyOf (x : Strained) (i : Nat) : BodyEntry := ((x.codes[i]?).bind id).getD default

/-- BODY_ENTRY of this entry is an entry point of the body; where it does not, BODY (0x0F) answers, not the checks before it. -/
def Strained.described (x : Strained) (i : Nat) : Bool := ((x.codes[i]?).bind id).isSome

/-- The chain the program is compiled for: the one chain the verdict depends on (R203). -/
def Strained.chain (x : Strained) : Chain := (x.chains.find? (fun c => c.id == x.c.chainId)).getD default

/-- The first element with a rejection. -/
def firstRej {α : Type} (f : α → Option Rejection) : List α → Option Rejection
  | [] => none
  | a :: r => match f a with
    | some x => some x
    | none => firstRej f r

/-! 0x01 CONTAINER. -/

/-- Sections (offset, length) in rising order: aligned to 64, inside the container, disjoint. -/
def sectionsOk (total : Nat) (secs : List (Nat × Nat)) : Bool :=
  let s := sortBy (·.1) (secs.filter (fun x => x.2 != 0))
  s.all (fun x => x.1 % 64 == 0 && decide (x.1 + x.2 ≤ total)) &&
    (s.zip (s.drop 1)).all (fun p => decide (p.1.1 + p.1.2 ≤ p.2.1))

/-- The distinct key lists (R205). -/
def keySections (es : List Entry) : List (Nat × Nat) :=
  es.foldl (fun acc e => if e.numKeys = 0 || acc.contains (e.keysOff, 8 * e.numKeys) then acc
    else acc ++ [(e.keysOff, 8 * e.numKeys)]) []

def headerFault (b : List Byte) (c : Container) : Bool :=
  leAt b 0 2 != 0x5043 || leAt b 2 1 != 1 || leAt b 3 1 != 1 || decide (c.numEntries < 1) || decide (4096 < c.numEntries) ||
    decide (c.numDesc < 1) || decide (4096 < c.numPres) || decide (64 < c.numRpair) || decide (16 < c.numBind) ||
    decide (2 ^ 30 < c.totalLen) || decide (b.length < 128) || c.minCores % 8 != 0 || decide (c.minCores < 8) ||
    decide (512 < c.minCores) || leAt b 0x2E 2 != 0 || !allZero ((b.drop 0x50).take 48) ||
    (c.numPres == 0 && c.presOff != 0) || (c.numRpair == 0 && c.rpairOff != 0)

def fixedSections (c : Container) : List (Nat × Nat) :=
  [(0, 128), (c.entryOff, 64 * c.numEntries), (c.descOff, 160 * c.numDesc), (c.presOff, 32 * c.numPres),
   (c.rpairOff, 4 * c.numRpair), (c.bodyOff, c.bodyLen)]

def checkContainer (x : Strained) : Option Rejection :=
  failIf (headerFault x.bytes x.c || !sectionsOk x.c.totalLen (fixedSections x.c) ||
    x.entries.any (fun e => decide (64 < e.numKeys)) ||
    !sectionsOk x.c.totalLen (fixedSections x.c ++ keySections x.entries)) { code := 1 }

/-! 0x02 to 0x04. -/

def checkDigest (x : Strained) : Option Rejection :=
  failIf (sha3_256 (x.bytes.take 0x30 ++ zeros 32 ++ x.bytes.drop 0x50) != (x.bytes.drop 0x30).take 32) { code := 2 }

def checkFirmware (iface : Nat) (x : Strained) : Option Rejection := failIf (decide (iface < leAt x.bytes 4 2)) { code := 3 }

def checkChain (x : Strained) : Option Rejection :=
  failIf ((x.chains.find? (fun c => c.id == x.c.chainId)).isNone) { code := 4 }

/-! 0x05 ENTRY. -/

/-- What an operand of an operation must be (R208). -/
inductive OperandSort where
  | any
  | objects (kinds : List Nat)
  | index
  | flat
  | weights
deriving DecidableEq, Repr

def sortFits (d : Desc) : OperandSort → Bool
  | .any => true
  | .objects ks => d.hdr && ks.contains d.tKind
  | .index => !d.hdr && d.etype == tyIdx32
  | .flat => !d.hdr
  | .weights => !d.hdr && d.etype == tyRes32

/-- The operands of an operation: fewest and most sources, destination, sources, the presence kind it may name (R208). -/
def opShape (op : Nat) : Option (Nat × Nat × OperandSort × List OperandSort × Nat) :=
  let prim := OperandSort.objects [1, 2, 3]
  let obj := OperandSort.objects [1, 2, 3, 4]
  if op = opAdd || op = opSub then some (2, 2, obj, [obj, obj], 0)
  else if op = opNeg then some (1, 1, obj, [obj], 0)
  else if op = opMulPt then some (2, 2, prim, [.objects [1, 2], .objects [3]], 0)
  else if op = opMulCt then some (2, 2, prim, [.objects [1], .objects [1]], 0)
  else if op = opRelin then some (1, 1, prim, [.objects [2]], 0)
  else if op = opRotate || op = opConjugate then some (1, 1, prim, [.objects [1]], 0)
  else if op = opLinear then some (2, 2, prim, [.objects [1], .objects [3]], 1)
  else if op = opRescale || op = opLevelDrop then some (1, 1, obj, [obj], 0)
  else if op = opNttFwd || op = opNttInv then some (1, 1, obj, [obj], 0)
  else if op = opMatmul then some (2, 2, prim, [prim, .weights], 2)
  else if op = opMap then some (1, 3, .flat, [.flat, .flat, .flat], 0)
  else if op = opGather || op = opScatter then some (2, 2, .any, [.any, .index], 0)
  else if op = opScatterAdd then some (2, 3, .any, [.any, .index, .index], 0)
  else if op = opCopy || op = opRemoteAdd then some (1, 1, .any, [.any], 0)
  else if op = opBootstrap || op = opSwitchOut || op = opRepack || op = opExport then some (1, 1, obj, [obj], 0)
  else if op = opLut then some (2, 2, obj, [obj, obj], 0)
  else none

/-- A precondition of R208 the templates break: the domain, and the shapes of a sum. -/
def preconditionBroken (op : Nat) (srcs : List Desc) : Bool :=
  let a := srcs.getD 0 default
  let b := srcs.getD 1 default
  if op = opMulPt || op = opMulCt then srcs.any (fun d => d.tDomain != 1)
  else if op = opNttFwd then a.tDomain != 0
  else if op = opNttInv then a.tDomain != 1
  else if op = opAdd || op = opSub then
    a.tKind != b.tKind || a.tLog2n != b.tLog2n || a.tChain != b.tChain || a.tDomain != b.tDomain ||
      a.tSlotsLog2 != b.tSlotsLog2
  else false

/-- The AOP of REMOTE.ADD and SCATTER.ADD by the source's type (R195, R277, R283). -/
def aopOf (d : Desc) : Option Nat :=
  if d.etype = tyRes32 then (if d.twoWord then none else some 1)
  else if d.etype = tyFp32 then some (if d.twoWord then 4 else 3)
  else if d.etype = tyIdx32 then (if d.twoWord then some 2 else none)
  else some (if d.twoWord then 2 else 6)

def bindOf (l : List HandleBind) (h : Nat) : Option HandleBind := l.find? (fun b => b.handle == h)

/-- The destination of an EXPORT is bound to memory that no host sees: a scratchpad or the near tier (R208). -/
def exportHidden (b : BodyEntry) (d : Desc) : Bool := ((bindOf b.binds d.handle).map (fun h => h.place != 3)).getD false

/-- DEDUCED: a presence descriptor of the other valid kind breaks the entry; a reserved PKIND is left to 0x0C (R189). A
destination of an EXPORT that no host sees breaks it too (DESIGN CHOICE, log 102: R208 has the precondition reject and names
no code). -/
def entryBroken (x : Strained) (e : Entry) : Bool :=
  match opShape e.opcode with
  | none => true
  | some (lo, hi, dst, srcs, pk) =>
    let ds := x.descsOf e
    let d0 := ds.getD 0 default
    let a := ds.getD 1 default
    e.numDst != 1 || decide (e.numSrc < lo) || decide (hi < e.numSrc) ||
      decide (x.c.numDesc < e.descFirst + e.numDst + e.numSrc) || !sortFits d0 dst ||
      !((ds.drop 1).zip srcs).all (fun p => sortFits p.1 p.2) ||
      (e.pres != 0 && (decide (x.c.numPres < e.pres) || pk == 0 ||
        (x.press.getD (e.pres - 1) default).pkind == 3 - pk)) ||
      e.resv || (e.numKeys == 0 && e.keysOff != 0) || (e.wScale != 0 && e.opcode != opMatmul) ||
      (if e.opcode = opLevelDrop then decide (e.arg < 1) || decide (31 < e.arg) else e.arg != 0) ||
      ((isGatherOp e.opcode || e.opcode == opCopy) && d0.hdr != a.hdr) ||
      (e.opcode == opRemoteAdd && ((aopOf a).isNone || d0.hdr != a.hdr)) || preconditionBroken e.opcode (ds.drop 1)

def checkEntry (x : Strained) : Option Rejection :=
  firstRej (fun ei => failIf (entryBroken x ei.1 ||
      (ei.1.opcode == opExport && x.described ei.2 && exportHidden (x.bodyOf ei.2) (x.desc ei.1.descFirst)))
    { code := 5, entry := ei.2 }) x.entries.zipIdx

/-! 0x06 DESCRIPTOR. -/

def srcFixed : Nat := 0
def srcLevel : Nat := 3

/-- The LOG2N a template KIND allows (R40, R43). -/
def templateRingOk (d : Desc) : Bool :=
  log2nOk (templateOf d 0)

/-- What a dimension of an HDR 1 descriptor must be: source, extent, stride, LVL_STRIDE. -/
def dimIs (d : Desc) (k src extent : Nat) (stride : Int) (lvl : Bool) : Bool :=
  let x := d.dim k
  x.src == src && x.extent == extent && x.stride == stride && x.lvlStride == lvl &&
    (src != srcFixed || decide (extent ≤ x.alloc))

def unusedFrom (d : Desc) (k : Nat) : Bool :=
  (List.range 6).all (fun i => decide (i < k) || (dimIs d i srcFixed 1 0 false && (d.dim i).alloc == 1))

/-- The row dimensions of an MXA have their pad (R186). -/
def rowsPadded (d : Desc) (rows : List Nat) : Bool := rows.all (fun k => (d.dim k).alloc % d.granule k true == 0)

/-- R182 and R183 (table Layout strides). -/
def hdrDescOk (d : Desc) : Bool :=
  let n := 2 ^ d.tLog2n
  let c := components d.tKind
  !d.form && !d.twoWord && d.etype == tyRes32 && d.limbDim == 1 && d.hdrOffset % 64 == 0 && d.dataOffset % 4096 == 0 &&
    d.bstride0 % 4096 == 0 && d.bstride1 % 4096 == 0 && templateRingOk d && layoutOk (templateOf d 0) &&
    (if d.tKind = 4 then
      d.tDomain == 0 && dimIs d 0 srcFixed 1024 1 false && dimIs d 1 srcFixed 2 1024 false &&
        dimIs d 2 srcFixed (2 ^ (d.tSlotsLog2 + 1)) 2048 false && unusedFrom d 3 &&
        (List.range 3).all (fun k => (d.dim k).alloc == (d.dim k).extent)
    else if d.tLayout = 1 then
      dimIs d 0 srcFixed n 1 false && dimIs d 1 srcLevel 0 n false && dimIs d 2 srcFixed c n true && unusedFrom d 3 &&
        decide (2 * d.tLevel ≤ (d.dim 1).alloc)
    else
      dimIs d 0 srcFixed 1024 1 false && dimIs d 1 srcLevel 0 1024 false && dimIs d 2 srcFixed (n / 1024) 1024 true &&
        dimIs d 3 srcFixed c n true && unusedFrom d 4 && decide (2 * d.tLevel ≤ (d.dim 1).alloc))

/-- R186 and the rest of R176 on a header-less descriptor; `rows` are its dimensions an MXA uses as row extent. -/
def flatDescOk (d : Desc) (rows : List Nat) : Bool :=
  d.hdrOffset == 0 && d.dataOffset % 4 == 0 && ((d.dim 0).stride != 1 || d.dataOffset % 4096 == 0) &&
    (List.range 6).all (fun k =>
      let x := d.dim k
      x.alloc % d.granule k (rows.contains k) == 0 && (x.src != srcFixed || decide (x.extent ≤ x.alloc)))

/-- Zero destination strides outside fixed extents of 1 and reduced dimensions (R181). -/
def zeroStrideBad (d : Desc) (reduced : Nat) : Bool :=
  (List.range 6).any (fun k => let x := d.dim k
    x.stride == 0 && decide (reduced ≤ k) && !(x.src == srcFixed && x.extent == 1))

/-- Index differences within the terms (bound, step) that bring two bytes ranges closer than w: the search of R181, each
term's difference from -bound to bound, with the reach of the terms left to cut it. -/
def aliasSearch (w : Int) : List (Nat × Nat) → Int → Bool → Bool
  | [], acc, moved => moved && decide (acc.natAbs < w.natAbs)
  | (m, s) :: r, acc, moved =>
    let reach : Int := (r.map (fun t => ((t.1 * t.2 : Nat) : Int))).foldl (· + ·) 0 + w - 1
    let lo := max (-(m : Int)) (-((reach + acc) / (s : Int)))
    let hi := min (m : Int) ((reach - acc) / (s : Int))
    (List.range (hi - lo + 1).toNat).any (fun i =>
      let e : Int := lo + i
      aliasSearch w r (acc + e * s) (moved || e != 0))

/-- Two distinct index vectors of a destination within its fixed extents and batch counts reach overlapping bytes, with so many bytes
written to an element (R121, R181). -/
def aliases (d : Desc) (written : Nat) (batch : CountSrc × CountSrc) (reduced : Nat) : Bool :=
  let w := written
  let dims := ((List.range 6).filter (fun k => decide (reduced ≤ k) && (d.dim k).src == srcFixed && !(d.dim k).lvlStride)).map
    (fun k => ((d.dim k).extent, ((d.dim k).stride * d.width).natAbs))
  let loops := ([(batch.1, d.bstride0), (batch.2, d.bstride1)]).filterMap (fun p => match p.1 with
    | .fixed n => some (n, p.2.natAbs)
    | _ => none)
  let terms := dims ++ loops
  if terms.any (fun t => t.1 == 0) then false
  else
    let live := (terms.filter (fun t => decide (1 < t.1))).map (fun t => (t.1 - 1, t.2))
    live.any (fun t => t.2 == 0) || aliasSearch w (sortBy (fun t => 2 ^ 64 - t.2) live) 0 false

def descOk (d : Desc) (isDst : Bool) (rows : List Nat) (reduced : Nat) : Bool :=
  !d.resv && decide (d.etype ≤ 4) && d.limbDim != 6 && d.dims.all (fun x => decide (x.src ≤ 3)) &&
    d.dims.all (fun x => x.src == srcFixed || x.extent == 0) && !(isDst && d.ltw != 0) && (d.tKind != 4 || d.tDomain == 0) &&
    !(isDst && zeroStrideBad d reduced) && (if d.hdr then hdrDescOk d && rowsPadded d rows else flatDescOk d rows)

/-- The dimensions a closing REDUCE of a MAP combines (R140). -/
def reducedDims (b : BodyEntry) : Nat := (b.chain.map (·.reduce)).getD 0

def batchAt (b : BodyEntry) (i : Nat) : CountSrc × CountSrc := b.batch.getD i (.fixed 1, .fixed 1)

/-- A descriptor as an instruction or an entry uses it: as its destination or a source, under its batch counts, with the
dimensions an MXA takes as row extent and those a REDUCE combines; as the source of an inbound DMA transfer or not; `used` the
dimensions that are used, `written` the bytes written to an element of a destination. -/
structure DescUse where
  d : Desc
  dst : Bool
  batch : CountSrc × CountSrc
  rows : List Nat
  reduced : Nat
  inbound : Bool
  used : Nat := 6
  written : Nat := d.width
deriving DecidableEq, Repr

/-- R176, R177, R181 to R183 and R186 on one use of a descriptor. -/
def useOk (u : DescUse) : Bool :=
  descOk u.d u.dst u.rows u.reduced && (u.d.hdr || unusedFrom u.d u.used) && !(u.dst && aliases u.d u.written u.batch u.reduced)

/-- The k-th descriptor of an entry as its operation uses it. -/
def entryUse (b : BodyEntry) (d : Desc) (k : Nat) : DescUse :=
  { d := d, dst := k == 0, batch := batchAt b k, rows := b.rowDims, reduced := if k = 0 then reducedDims b else 0, inbound := false }

/-- The dimensions a header-less operand of an operation uses: of MATMUL's W the column and the item (R125, R177). -/
def usedDims (op k : Nat) : Nat := if op = opMatmul ∧ k = 2 then 2 else 6

/-- The entries that name a descriptor, each with the descriptor's place in it. -/
def namers (x : Strained) (k : Nat) : List (Nat × Nat) :=
  (x.entries.zipIdx.filter (fun e => decide (e.1.descFirst ≤ k) && decide (k < e.1.descFirst + e.1.numDst + e.1.numSrc))).map
    (fun e => (e.2, k - e.1.descFirst))

/-- The first entry that names a descriptor. -/
def ownerEntry (x : Strained) (k : Nat) : Nat := ((namers x k).head?.map (·.1)).getD 0xFFFF

/-- Every use of the k-th descriptor of a container; one that no entry names is held to what holds of any source. -/
def usesOf (x : Strained) (d : Desc) (k : Nat) : List DescUse :=
  if (namers x k).isEmpty then [entryUse default d 1] else (namers x k).map (fun n =>
    { entryUse (x.bodyOf n.1) d n.2 with used := usedDims (((x.entries[n.1]?).map (·.opcode)).getD 0) n.2 })

def checkOneDesc (x : Strained) (d : Desc) (k : Nat) : Option Rejection :=
  failIf (!(usesOf x d k).all useOk) { code := 6, entry := ownerEntry x k, desc := k }

/-! The instructions of an entry: the rules on descriptors hold for those they carry (R207). -/

def codeOf (b : BodyEntry) : List CoreInstr := b.phases.flatMap (·.code)

def fixedCount : CountSrc → Option Nat
  | .fixed n => some n
  | _ => none

/-- The descriptors and dimensions that carry the row extent, the summed extent and the column extent of a MATMUL or an INNER;
the B of a key switch comes from the key stream. -/
def mxaRows (inner : Bool) (o : MxaOp) : List (Desc × Nat) :=
  [(o.a, 1), (o.dst, 1)] ++ (if inner && o.key.isNone then [(o.b, 1)] else [])
def mxaSummed (inner : Bool) (o : MxaOp) : List (Desc × Nat) :=
  if inner then (o.a, 2) :: (if o.key.isNone then [(o.b, 2)] else []) else (o.a, 0) :: (if o.key.isNone then [(o.b, 1)] else [])
def mxaCols (inner : Bool) (o : MxaOp) : List (Desc × Nat) :=
  [(o.dst, 0)] ++ (if o.key.isNone then [(o.b, 0)] else []) ++ (if inner then [(o.a, 0)] else [])

/-- Words an accumulator drains into an element (R121). -/
def drainWords : Drain → Nat
  | .res | .low32 => 1
  | .low64 => 2
  | .raw96 => 3

/-- The uses of an MXA's operands: an INNER's take rows, columns and the summed dimension, every other two dimensions (R117, R177). -/
def mxaUses (inner : Bool) (o : MxaOp) : List DescUse :=
  let use (d : Desc) (dst : Bool) (rows : List Nat) : DescUse :=
    { d := d, dst := dst, batch := (o.batch0, o.batch1), rows := rows, reduced := 0, inbound := false
      used := if inner && !dst then 3 else 2, written := if dst then 4 * drainWords o.drain else d.width }
  [use o.dst true [1], use o.a false [1]] ++ (if o.key.isNone then [use o.b false (if inner then [1] else [])] else [])

def bconvUses (o : BconvOp) : List DescUse :=
  [o.dst, o.src].zipIdx.map (fun d =>
    { d := d.1, dst := d.2 == 0, batch := (o.batch0, o.batch1), rows := [0], reduced := 0, inbound := false, used := 2 })

/-- The operand stream of an NTT instruction as a descriptor: d0 the coefficient, d1 the limb; CONVERT is for canonical words
(R99, R104). -/
def nttStream (o : NttOp) : Desc :=
  { (default : Desc) with
    handle := o.src, etype := tyRes32, form := !ltwConvert o.ltw, tKind := 1, tLog2n := o.log2n, limbDim := 1, ltw := o.ltw
    dims := [{ extent := 2 ^ o.log2n, src := srcFixed, arg := 0, lvlStride := false, stride := 1, alloc := 2 ^ o.log2n },
             { extent := 80, src := srcFixed, arg := 0, lvlStride := false, stride := (2 ^ o.log2n : Nat), alloc := 80 }] }

/-- A DMA transfer on the inbound path: from a NEAR, FAR or REMOTE handle into a LOCAL one (R99). -/
def inboundDma (binds : List HandleBind) (o : DmaOp) : Bool :=
  ((bindOf binds o.dst.handle).map (fun b => b.place == 0)).getD false &&
    ((bindOf binds o.src.handle).map (fun b => b.place != 0)).getD false

/-- The descriptors an instruction carries, its destination first. -/
def instrUses (binds : List HandleBind) : CoreInstr → List DescUse
  | .matmul o => mxaUses false o
  | .inner o => mxaUses true o
  | .bconvFast o | .bconvExact o => bconvUses o
  | .vxe o => ([o.dst] ++ o.srcs).zipIdx.map (fun d =>
      { d := d.1, dst := d.2 == 0, batch := (o.batch0, o.batch1), rows := [], reduced := if d.2 = 0 then o.reduce else 0
        inbound := false })
  | .dma o => [o.dst, o.src].zipIdx.map (fun d =>
      { d := d.1, dst := d.2 == 0, batch := (o.batch0, o.batch1), rows := [], reduced := 0
        inbound := d.2 == 1 && inboundDma binds o })
  | _ => []

/-- Every instruction of an entry with its phase's binding list. -/
def instrsOf (b : BodyEntry) : List (List HandleBind × CoreInstr) := b.phases.flatMap (fun p => p.code.map (fun i => (p.binds, i)))

def usesLevel (d : Desc) : Bool := d.dims.any (fun x => x.src == srcLevel || x.lvlStride)

def isRuntimeKnown : CountSrc → Bool
  | .fixed _ | .bound _ => true
  | _ => false

def batchUsesLevel (p : CountSrc × CountSrc) : Bool := p.1 == .level || p.2 == .level

/-- An index tensor: one dimension of stride 1, the others unused, nothing taken from a level (R177, R193). -/
def indexOk (d : Desc) (p : CountSrc × CountSrc) : Bool :=
  (d.dim 0).stride == 1 && !usesLevel d && !batchUsesLevel p && unusedFrom d 1

/-- Fixed extents along a set of dimensions that differ. -/
def fixedDiffer (xs : List (Desc × Nat)) : Bool :=
  let es := (xs.filter (fun x => (x.1.dim x.2).src == srcFixed)).map (fun x => (x.1.dim x.2).extent)
  es.any (fun e => some e != es.head?)

/-- Operands of one instruction whose fixed extents differ; the destination does not count along reduced dimensions (R177). -/
def extentsDiffer (dst : Desc) (srcs : List Desc) (reduced : Nat) : Bool :=
  (List.range 6).any (fun k => fixedDiffer ((srcs ++ (if reduced ≤ k then [dst] else [])).map (fun d => (d, k))))

/-- The header-less operands of an operation that share their extents: of MAP all, of a copy, gather, scatter or REMOTE.ADD
the tensors moved (R135, R177). -/
def entryExtentsDiffer (op : Nat) (ds : List Desc) (reduced : Nat) : Bool :=
  let d := ds.getD 0 default
  let moved := if op = opMap then ds.drop 1 else (ds.drop 1).take 1
  (!d.hdr && (op == opMap || op == opCopy || op == opRemoteAdd || isGatherOp op) && extentsDiffer d moved reduced) ||
    (isGatherOp op && fixedDiffer ((ds.drop 2).map (fun x => (x, 0))))

/-- Fixed counts and fixed extents of an MXA instruction that differ, along one set of dimensions. -/
def mxaDiffer (c : CountSrc) (xs : List (Desc × Nat)) : Bool :=
  let es := (fixedCount c).toList ++ ((xs.filter (fun x => (x.1.dim x.2).src == srcFixed)).map (fun x => (x.1.dim x.2).extent))
  es.any (fun e => some e != es.head?)

/-- R177 on one instruction. -/
def instrExtentsDiffer : CoreInstr → Bool
  | .matmul o => mxaDiffer o.rows (mxaRows false o) || mxaDiffer o.inner (mxaSummed false o) || mxaDiffer o.cols (mxaCols false o)
  | .inner o => mxaDiffer o.rows (mxaRows true o) || mxaDiffer o.inner (mxaSummed true o) || mxaDiffer o.cols (mxaCols true o)
  | .bconvFast o | .bconvExact o => mxaDiffer o.rows [(o.src, 0), (o.dst, 0)] ||
      mxaDiffer (.fixed o.pair.srcCount) [(o.src, 1)] || mxaDiffer (.fixed o.pair.dstCount) [(o.dst, 1)]
  | .vxe o => extentsDiffer o.dst o.srcs o.reduce
  | .dma o => extentsDiffer o.dst [o.src] 0
  | _ => false

/-- The counts an instruction reads at issue. -/
def instrCounts : CoreInstr → List CountSrc
  | .matmul o | .inner o => [o.rows, o.inner, o.cols, o.batch0, o.batch1]
  | .bconvFast o | .bconvExact o => [o.rows, o.batch0, o.batch1]
  | .vxe o => [o.batch0, o.batch1]
  | .dma o => [o.batch0, o.batch1]
  | .nttFwd o | .nttInv o => [o.limbs]
  | .scalar (.loopBegin c) => [c]
  | _ => []

/-- An instruction takes an extent, a stride or a count from a level (R179). -/
def instrUsesLevel (binds : List HandleBind) (i : CoreInstr) : Bool :=
  (instrUses binds i).any (fun u => usesLevel u.d) || (instrCounts i).contains .level

/-- The item count of a descriptor, where fixed. -/
def fixedItems (p : CountSrc × CountSrc) : Option Nat :=
  match fixedCount p.1, fixedCount p.2 with
  | some a, some b => some (a * b)
  | _, _ => none

/-- Two counts that are both fixed differ. -/
def countsClash (a b : Option Nat) : Bool := a.isSome && b.isSome && a != b

/-- The fixed batch counts of ROTATE, CONJUGATE and LINEAR place D's items elsewhere than R519 does: its batch loop 0 runs over the
amounts, loop 1 over A's items; of LINEAR it has an item for each of A's. -/
def itemsMisplaced (e : Entry) (b : BodyEntry) : Bool :=
  let d := batchAt b 0
  let a := fixedItems (batchAt b 1)
  ((e.opcode == opRotate || e.opcode == opConjugate) &&
    (countsClash (fixedCount d.1) (some e.keys.length) || countsClash (fixedCount d.2) a)) ||
  (e.opcode == opLinear && countsClash (fixedItems d) a)

def checkEntryDescs (x : Strained) (e : Entry) (i : Nat) : Option Rejection :=
  let ds := x.descsOf e
  let b := x.bodyOf i
  let rej (k : Nat) : Rejection := { code := 6, entry := i, desc := e.descFirst + k }
  let idx := (ds.zipIdx.drop 2).find? (fun d => !indexOk d.1 (batchAt b d.2))
  firstSome
    [ failIf (!ds.any (·.hdr) && (ds.any usesLevel || b.batch.any batchUsesLevel)) (rej 0),
      if isGatherOp e.opcode then idx.map (fun d => rej d.2) else none,
      failIf (e.opcode == opScatterAdd && (ds.getD 0 default).etype == tyIdx32) (rej 0),
      failIf (e.opcode == opScatterAdd && (ds.getD 1 default).etype == tyIdx32) (rej 1),
      failIf (entryExtentsDiffer e.opcode ds (reducedDims b)) (rej 0),
      failIf (x.described i && itemsMisplaced e b) (rej 0),
      failIf (!(instrsOf b).all (fun i => (instrUses i.1 i.2).all useOk && !instrExtentsDiffer i.2 &&
        (ds.any (·.hdr) || !instrUsesLevel i.1 i.2))) { code := 6, entry := i },
      failIf (e.opcode == opLinear && e.pres == 0 && !(isRuntimeKnown (batchAt b 1).1 && isRuntimeKnown (batchAt b 1).2)) (rej 1),
      failIf (e.opcode == opLinear && e.pres == 0 && !(isRuntimeKnown (batchAt b 2).1 && isRuntimeKnown (batchAt b 2).2)) (rej 2) ]

def checkDescriptor (x : Strained) : Option Rejection :=
  match firstRej (fun d => checkOneDesc x d.1 d.2) x.descs.zipIdx with
  | some r => some r
  | none => firstRej (fun e => checkEntryDescs x e.1 e.2) x.entries.zipIdx

/-! 0x07 TRANSFORM (R100 to R104). -/

/-- R100 and R102 on a load word. A TWO_WORD operand takes no GALOIS, STRIDE, TRANSPOSE, BCAST (DESIGN CHOICE, log 103: R102
has "any 32-bit type" and says nothing of two-word elements). -/
def ltwOk (d : Desc) : Bool :=
  let w := d.ltw
  let n := 2 ^ d.tLog2n
  let gm := ltwGalois w
  let pm := ltwPerm w
  let la := ltwLogA w
  let lb := ltwLogB w
  w / 2 ^ 39 == 0 && gm != 3 && pm != 3 && decide (ltwRun w ≤ 17) && (ltwBcast w || ltwRun w == 0) &&
    (if gm = 0 then ltwElt w == 0
     else decide (10 ≤ d.tLog2n) && decide (d.tLog2n ≤ 17) && ltwElt w % 2 == 1 && decide (ltwElt w < 2 * n)) &&
    (if pm = 0 then la == 0 && lb == 0 else if pm = 1 then decide (la + lb ≤ 17) else decide (la ≤ 6) && decide (lb ≤ 6)) &&
    ((gm == 0 && !ltwConvert w) || d.etype == tyRes32) && (!d.twoWord || (gm == 0 && pm == 0 && !ltwBcast w)) &&
    !(gm != 0 && (pm == 2 || ltwBcast w)) && !(pm != 0 && ltwBcast w) &&
    (gm == 0 || ((d.dim 0).stride == 1 && ((d.dim 0).src != srcFixed || (d.dim 0).extent % n == 0))) &&
    !(gm != 0 && pm == 1 && n % 2 ^ (la + lb) != 0) && !(ltwConvert w && d.form)

/-- One load: on the inbound path without TRANSPOSE and BCAST (R102). -/
def loadOk (u : DescUse) : Bool := u.d.ltw == 0 || (ltwOk u.d && !(u.inbound && (ltwPerm u.d.ltw == 2 || ltwBcast u.d.ltw)))

/-- The load words of an instruction. -/
def instrLoadsOk (binds : List HandleBind) : CoreInstr → Bool
  | .nttFwd o | .nttInv o => o.ltw == 0 || ltwOk (nttStream o)
  | i => (instrUses binds i).all loadOk

def checkTransform (x : Strained) : Option Rejection :=
  match firstRej (fun d => failIf (d.1.ltw != 0 && !ltwOk d.1) ({ code := 7, entry := ownerEntry x d.2, desc := d.2 } : Rejection))
      x.descs.zipIdx with
  | some r => some r
  | none => firstRej (fun e => failIf (!(instrsOf (x.bodyOf e.2)).all (fun i => instrLoadsOk i.1 i.2)) { code := 7, entry := e.2 })
      x.entries.zipIdx

/-! 0x08 SLOT. -/

/-- Every slot from s, n of them, names a prime (R93). -/
def slotsNamed (c : Chain) (s n : Nat) : Bool := (List.range n).all (fun i => (c.slotPrime (s + i)).isSome)

def pairOk (c : Chain) (r : RangePair) : Bool :=
  slotsNamed c r.srcFirst r.srcCount && slotsNamed c r.dstFirst r.dstCount &&
    (decide (r.srcFirst + r.srcCount ≤ r.dstFirst) || decide (r.dstFirst + r.dstCount ≤ r.srcFirst))

/-- FIRST_SLOT of an entry (R206): the slots of its header-less res32 operands. An entry that uses none has FIRST_SLOT 0
(DESIGN CHOICE, log 104: the table Entry asks for zero, no rule names the code of the rejection; it is SLOT). -/
def firstSlotOk (x : Strained) (e : Entry) : Bool :=
  let uses := (isGatherOp e.opcode || e.opcode == opMap || e.opcode == opRemoteAdd)
  let flat := (x.descsOf e).filter (fun d => !d.hdr && d.etype == tyRes32)
  if uses && !flat.isEmpty then
    flat.all (fun d => slotsNamed x.chain e.firstSlot
      (if d.limbDim < 6 && (d.dim d.limbDim).src == srcFixed then max 1 (d.dim d.limbDim).extent else 1))
  else e.firstSlot == 0

/-- The slots the fixed limb extents of residue operands reach from a first slot (R136): at least one. -/
def limbsFixed (ds : List Desc) : Nat :=
  ds.foldl (fun m d => if d.limbDim < 6 && (d.dim d.limbDim).src == srcFixed then max m (d.dim d.limbDim).extent else m) 1

/-- The fixed slots of an instruction name primes (R93, R118, R136). An instruction names its first slot whatever its counts.
A res32 fold names its slot under the program's chain. -/
def instrSlotsOk (x : Strained) (binds : List HandleBind) : CoreInstr → Bool
  | .nttFwd o | .nttInv o => o.chain != x.c.chainId || slotsNamed x.chain o.slot0 (max 1 ((fixedCount o.limbs).getD 1))
  | .matmul o | .inner o =>
    o.a.etype != tyRes32 || slotsNamed x.chain o.slot0 (if o.seq then max 1 ((fixedCount o.cols).getD 1) else 1)
  | .vxe o =>
    let res := (o.dst :: o.srcs).filter (fun d => d.etype == tyRes32)
    res.isEmpty || slotsNamed x.chain o.slot0 (limbsFixed (o.dst :: o.srcs))
  | .dma o => o.src.etype != tyRes32 || slotsNamed x.chain o.slot0 (limbsFixed [o.dst, o.src])
  | .fold o => ((bindOf binds o.acc).map (·.accOp)).getD 0 != 1 || (o.chain == x.c.chainId && (x.chain.slotPrime o.slot).isSome)
  | _ => true

def checkSlot (x : Strained) : Option Rejection :=
  match failIf (!x.rpairs.all (pairOk x.chain)) ({ code := 8 } : Rejection) with
  | some r => some r
  | none => firstRej (fun e => failIf (!firstSlotOk x e.1 || !(instrsOf (x.bodyOf e.2)).all (fun i => instrSlotsOk x i.1 i.2))
      { code := 8, entry := e.2 }) x.entries.zipIdx

/-! 0x09 ENGINE. -/

/-- R95; the chain an instruction names is the program's, whose table alone decides (R203). -/
def nttOk (x : Strained) (o : NttOp) : Bool :=
  o.chain == x.c.chainId && decide (10 ≤ o.log2n) && decide (o.log2n ≤ 17) && decide (o.log2n ≤ x.chain.log2nMax)

def isIntType (t : Nat) : Bool := t == tyInt32 || t == tyUint32

/-- A fixed count lies within a limit. -/
def withinLimit (m : Nat) (c : CountSrc) : Bool := ((fixedCount c).map (fun n => decide (n ≤ m))).getD true

/-- R119 to R121: residues alone, drained by RES into residues; integers, drained as words into integers. The limits of the
table MXA operations reject with ENGINE (DESIGN CHOICE, log 105: R117 states them, R217 names no code for them). -/
def mxaOk (o : MxaOp) : Bool :=
  let b := if o.key.isSome then o.a else o.b
  ((o.a.etype == tyRes32 && b.etype == tyRes32 && o.dst.etype == tyRes32 && !o.a.twoWord && !b.twoWord && !o.dst.twoWord &&
      o.drain == .res) ||
    (isIntType o.a.etype && isIntType b.etype && isIntType o.dst.etype && o.drain != .res && o.key.isNone)) &&
    withinLimit (2 ^ 24) o.rows && withinLimit 4096 o.inner && withinLimit 80 o.cols

/-- R119, R122 and R124 on a base conversion, with the limits of R117 (log 105). -/
def bconvOk (x : Strained) (o : BconvOp) : Bool :=
  x.rpairs.contains o.pair && o.src.etype == tyRes32 && o.dst.etype == tyRes32 && !o.src.twoWord && !o.dst.twoWord &&
    withinLimit (2 ^ 17) o.rows && decide (o.pair.srcCount ≤ 80) && decide (o.pair.dstCount ≤ 80)

/-- Operands of a stage operation. -/
def stageArity : VOp → Nat
  | .neg | .redAdd | .redMin | .redMax => 1
  | .fma | .sel => 3
  | _ => 2

def isCmp : VOp → Bool
  | .cmpEq | .cmpNe | .cmpLt | .cmpLe | .cmpGt | .cmpGe => true
  | _ => false

def isReduce : VOp → Bool
  | .redAdd | .redMin | .redMax => true
  | _ => false

/-- The combinations of the table VXE stage operations that are not rejected. -/
def stageTypeOk (ty : Nat) : VOp → Bool
  | .cmpLt | .cmpLe | .cmpGt | .cmpGe | .min | .max | .redMin | .redMax => ty != tyRes32
  | _ => true

/-- idx32 is computed as uint32 (R131). -/
def plainType (t : Nat) : Nat := if t = tyIdx32 then tyUint32 else t

/-- The first input stream that a chain takes other than as a mask. -/
def dataInput (o : VxeOp) : Option Nat :=
  (o.stages.flatMap (fun st => st.args.zipIdx.filterMap (fun a =>
    if st.op = .sel ∧ a.2 = 0 then none
    else match a.1 with
      | .input i => some i
      | _ => none))).head?

def closesInCmp (o : VxeOp) : Bool := ((o.stages.getLast?).map (fun st => isCmp st.op)).getD false

/-- The one element type of a chain: the output's, or what a closing CMP tests (R137 rule 5). -/
def chainType (o : VxeOp) : Nat :=
  if closesInCmp o then plainType (((dataInput o).bind (fun i => (o.srcs[i]?).map (·.etype))).getD tyUint32)
  else plainType o.dst.etype

/-- A stage operand exists and has the type its place asks (R137 rules 3 and 5). -/
def argOk (o : VxeOp) (at_ : Nat) (mask : Bool) : VArg → Bool
  | .input i => decide (i < o.srcs.length) && (mask || plainType ((o.srcs.map (·.etype)).getD i 9) == chainType o)
  | .scalar i => decide (i < o.scalars.length)
  | .stage i => decide (i < at_) &&
      (mask || !((o.stages.map (fun s => isCmp s.op)).getD i false) || chainType o == tyUint32)

def stageOk (o : VxeOp) (st : VStage) (at_ : Nat) : Bool :=
  st.args.length == stageArity st.op && stageTypeOk (chainType o) st.op &&
    st.args.zipIdx.all (fun a => argOk o at_ (st.op == .sel && a.2 == 0) a.1) &&
    (!isReduce st.op || (at_ + 1 == o.stages.length && decide (1 ≤ o.reduce) && decide (o.reduce ≤ 5)))

/-- R132, R133 and R137. A GALOIS load with element 1 counts for none of the two loads of R137 rule 7: R111 treats it as
GALOIS_MODE NONE and lets it cost no buffer (DEDUCED, log 126: R137 itself does not say). -/
def vxeOk (o : VxeOp) : Bool :=
  decide (1 ≤ o.stages.length) && decide (o.stages.length ≤ 8) && decide (o.srcs.length ≤ 3) && decide (o.scalars.length ≤ 4) &&
    o.stages.zipIdx.all (fun s => stageOk o s.1 s.2) &&
    decide ((o.srcs.filter (fun d => ltuBuffered d.ltw)).length ≤ 2) && (!closesInCmp o || plainType o.dst.etype == tyUint32) &&
    (o.dst :: o.srcs).all (fun d => !d.twoWord) &&
    (o.reduce == 0 || (o.stages.getLast?.map (fun s => isReduce s.op)).getD false)

def instrEngineOk (x : Strained) : CoreInstr → Bool
  | .nttFwd o | .nttInv o => nttOk x o
  | .matmul o => mxaOk o && o.key.isNone
  | .inner o => mxaOk o
  | .bconvFast o | .bconvExact o => bconvOk x o
  | .vxe o => vxeOk o
  | _ => true

/-- R95 seen from the templates of an NTT entry. -/
def entryRingOk (x : Strained) (e : Entry) : Bool :=
  !(e.opcode == opNttFwd || e.opcode == opNttInv) || decide ((x.desc (e.descFirst + 1)).tLog2n ≤ x.chain.log2nMax)

/-- The chain of a MAP over the entry's own descriptors. -/
def entryChain (x : Strained) (e : Entry) (i : Nat) : Option VxeOp :=
  (x.bodyOf i).chain.map (fun o => { o with srcs := (x.descsOf e).drop 1, dst := (x.descsOf e).getD 0 default, slot0 := e.firstSlot })

def checkEngine (x : Strained) : Option Rejection :=
  firstRej (fun e => failIf (!entryRingOk x e.1 || !(codeOf (x.bodyOf e.2)).all (instrEngineOk x) ||
      (e.1.opcode == opMap && x.described e.2 && !((entryChain x e.1 e.2).map vxeOk).getD false)) { code := 9, entry := e.2 }) x.entries.zipIdx

/-! 0x0A HANDLE. -/

/-- The handle an instruction writes, if any. -/
def writtenHandle : CoreInstr → Option Nat
  | .nttFwd o | .nttInv o => some o.dst
  | .matmul o | .inner o => some o.dst.handle
  | .bconvFast o | .bconvExact o => some o.dst.handle
  | .vxe o => some o.dst.handle
  | .dma o => some o.dst.handle
  | _ => none

/-- The handles an instruction reads. -/
def readHandles : CoreInstr → List Nat
  | .nttFwd o | .nttInv o => [o.src]
  | .matmul o | .inner o => [o.a.handle, o.b.handle] ++ (if o.accum then [o.dst.handle] else [])
  | .bconvFast o | .bconvExact o => [o.src.handle]
  | .vxe o => o.srcs.map (·.handle)
  | .dma o => [o.src.handle]
  | .fold o => [o.src]
  | _ => []

def foldHandle : CoreInstr → Option Nat
  | .fold o => some o.acc
  | _ => none

/-- Two bindings that name one buffer, or buffers that meet: the same unknown part of BASE, and ranges that overlap at the tile
whose coordinates are all 0. A LOCAL buffer of the core that another binding names REMOTE is the same one, since any core of the
group may run the tile (R78). -/
def buffersMeet (a b : HandleBind) : Bool :=
  (a.place == b.place && (a.place != 1 || a.peer == b.peer) || decide (a.place < 2) && decide (b.place < 2) && a.place != b.place) &&
    a.word == b.word && decide (a.base < b.base + b.length) && decide (b.base < a.base + a.length)

/-- The buffers an entry folds into, each with its phase. -/
def foldedBuffers (b : BodyEntry) : List (HandleBind × Nat) :=
  b.phases.zipIdx.flatMap (fun p => ((p.1.code.filterMap foldHandle).filterMap (bindOf p.1.binds)).map (fun h => (h, p.2)))

/-- The loop whose end stands at a place, by the depth of loops seen on the way back: where its body starts and its count. -/
def loopOf (code : List CoreInstr) (at_ : Nat) : Option (Nat × CountSrc) :=
  ((code.take at_).zipIdx.reverse.foldl (fun (acc : Nat × Option (Nat × CountSrc)) i =>
    match acc.2 with
    | some _ => acc
    | none => match i.1 with
      | .scalar .loopEnd => (acc.1 + 1, none)
      | .scalar (.loopBegin c) => if acc.1 = 0 then (0, some (i.2 + 1, c)) else (acc.1 - 1, none)
      | _ => acc) (0, none)).2

/-- Past the end of a loop whose body starts at a place, by the depth of the loops inside it. -/
def skipLoop : Nat → List CoreInstr → Nat → Nat
  | _, [], at_ => at_
  | d, .scalar (.loopBegin _) :: r, at_ => skipLoop (d + 1) r (at_ + 1)
  | 0, .scalar .loopEnd :: _, at_ => at_ + 1
  | d + 1, .scalar .loopEnd :: r, at_ => skipLoop d r (at_ + 1)
  | d, _ :: r, at_ => skipLoop d r (at_ + 1)

/-- Where a task may go on after an instruction. -/
def nextPlaces (code : List CoreInstr) (at_ : Nat) : List Nat :=
  match code[at_]? with
  | some (.scalar (.branch t)) => [t]
  | some (.scalar (.loopBegin c)) =>
    let past := skipLoop 0 (code.drop (at_ + 1)) (at_ + 1)
    if fixedCount c = some 0 then [past] else if (fixedCount c).isSome then [at_ + 1] else [at_ + 1, past]
  | some (.scalar .loopEnd) =>
    (at_ + 1) :: (match loopOf code at_ with
      | some (start, c) => if ((fixedCount c).getD 2) ≤ 1 then [] else [start]
      | none => [])
  | _ => [at_ + 1]

/-- The places a task may reach from some places, with fuel. -/
def reached (code : List CoreInstr) : Nat → List Nat → List Nat
  | 0, l => l
  | n + 1, l =>
    let m := (l ++ l.flatMap (nextPlaces code)).eraseDups
    if m.length = l.length then l else reached code n m

/-- A task may fold into one buffer twice (R78). -/
def foldsTwice (p : Phase) : Bool :=
  let folds := p.code.zipIdx.filterMap (fun i => ((foldHandle i.1).bind (bindOf p.binds)).map (fun h => (i.2, h)))
  folds.any (fun a =>
    let after := reached p.code p.code.length (nextPlaces p.code a.1)
    folds.any (fun b => after.contains b.1 && buffersMeet a.2 b.2))

/-- R65 and R78 on one phase; `folded` are the buffers the entry folds into. -/
def phaseHandlesOk (folded : List HandleBind) (p : Phase) : Bool :=
  let isFolded (h : HandleBind) : Bool := folded.any (buffersMeet h)
  p.binds.all (fun b => decide (b.handle ≤ 255)) &&
    p.code.all (fun i => match writtenHandle i with
      | some h => ((bindOf p.binds h).map (fun b => b.owner != 4 && b.place != 2 && !b.accum && !isFolded b)).getD false
      | none => true) &&
    p.code.all (fun i => (readHandles i).all (fun h => ((bindOf p.binds h).map (fun b => !isFolded b)).getD true)) &&
    (p.code.filterMap foldHandle).all (fun h => ((bindOf p.binds h).map (fun b => b.accum && b.owner != 4 && decide (b.place < 2))).getD false) &&
    !foldsTwice p

/-- One phase alone folds into each accumulator buffer (R78). -/
def foldPhasesOk (b : BodyEntry) : Bool :=
  let fs := foldedBuffers b
  fs.all (fun x => fs.all (fun y => x.2 == y.2 || !buffersMeet x.1 y.1))

/-- The buffers of an entry that satisfy a condition and that a core may hold: those named LOCAL, and those named REMOTE on it. -/
def heldBuffers (b : BodyEntry) (core : Option Nat) (f : HandleBind → Bool) : Nat :=
  (((b.phases.flatMap (·.binds)).filter (fun h => f h && (h.place == 0 || (h.place == 1 && some h.peer == core)))).map
    (fun h => (h.base, h.word, h.step))).eraseDups.length

/-- No core holds more accumulator buffers or mirrored buffers than it may (R78, R83). -/
def buffersFit (b : BodyEntry) : Bool :=
  (none :: ((b.phases.flatMap (·.binds)).filter (fun h => h.place == 1)).map (fun h => some h.peer)).all (fun c =>
    decide (heldBuffers b c (·.accum) ≤ 16) && decide (heldBuffers b c (·.mirror) ≤ 32))

/-- The handle numbers of every slot's binding list exist, and no two lists of a phase give one entry to different handles (R65,
R68). -/
def slotHandlesOk (p : Phase) : Bool :=
  let entries := p.binds.flatMap (fun b => (List.range (if b.owner = 4 then 1 else p.slots)).map (fun k => b.handle + k * p.slotStep))
  p.slotStep == 0 || (entries.all (fun h => decide (h ≤ 255)) && nodupNat entries)

def handlesOk (b : BodyEntry) : Bool :=
  let folded := (foldedBuffers b).map (·.1)
  b.binds.all (fun h => decide (h.handle ≤ 255)) && b.phases.all (phaseHandlesOk folded) && foldPhasesOk b &&
    buffersFit b && b.phases.all slotHandlesOk

/-- Each descriptor of an entry names a handle of its binding list, a destination none of the near tier (R65). -/
def descHandleOk (b : BodyEntry) (d : Desc) (k : Nat) : Bool :=
  match bindOf b.binds d.handle with
  | none => false
  | some h => decide (0 < k) || (h.place != 2 && h.owner != 4)

def checkHandle (x : Strained) : Option Rejection :=
  firstRej (fun e =>
    let b := x.bodyOf e.2
    if !x.described e.2 then none
    else if !handlesOk b then some { code := 0x0A, entry := e.2 }
    else ((x.descsOf e.1).zipIdx.find? (fun d => !descHandleOk b d.1 d.2)).map
      (fun d => { code := 0x0A, entry := e.2, desc := e.1.descFirst + d.2 })) x.entries.zipIdx

/-! 0x0B KEY. -/

/-- A key name breaks the table Key kind encoding (R144, R206). -/
def keyNameBad (numBind n : Nat) (k : KeyName) : Bool :=
  k.resv || decide (numBind ≤ k.bind) || k.kkind == 0 || decide (5 < k.kkind) ||
    (if k.kkind = 2 then k.galois % 2 == 0 || decide (k.galois < 3) || decide (2 * n - 1 < k.galois) else k.galois != 0)

def countKind (ks : List KeyName) (k : Nat) : Nat := (ks.filter (fun x => x.kkind == k)).length

/-- The key list of BT-16 and of RP-16: one RELIN key, distinct GALOIS keys with the conjugation key once among them; `most`
GALOIS keys at most, the 16 of BT-16 and the conjugation key at least (R253; DEDUCED, log 106: "As BT-16" takes these 17 into
RP-16). -/
def bootKeysOk (n most repack : Nat) (ks : List KeyName) : Bool :=
  let g := (ks.filter (fun k => k.kkind == 2)).map (·.galois)
  countKind ks 1 == 1 && countKind ks 4 == repack && ks.length == 1 + repack + g.length && nodupNat g &&
    g.contains (2 * n - 1) && decide (17 ≤ g.length) && decide (g.length ≤ most)

/-- The key list an operation takes (R163, R208, R252, R253). -/
def keyListOk (op preset n : Nat) (ks : List KeyName) : Bool :=
  if op = opRelin then ks.map (·.kkind) == [1]
  else if op = opRotate then !ks.isEmpty && ks.all (fun k => k.kkind == 2)
  else if op = opConjugate then ks.map (fun k => (k.kkind, k.galois)) == [(2, 2 * n - 1)]
  else if op = opLinear then ks.all (fun k => k.kkind == 2)
  else if op = opBootstrap then preset == 1 && bootKeysOk n 17 0 ks
  else if op = opRepack then preset == 2 && bootKeysOk n 62 1 ks
  else if op = opSwitchOut then (preset == 3 || preset == 4) && ks.map (·.kkind) == [3]
  else if op = opLut then (preset == 3 || preset == 4) && countKind ks 3 == 1 && countKind ks 5 == 1 && ks.length == 2
  else ks.isEmpty

/-- The preset read into an entry whose body does not say one. -/
def defaultPreset (op : Nat) : Nat := if op = opBootstrap then 1 else if op = opRepack then 2 else 3

def checkKeyEntry (x : Strained) (e : Entry) (i : Nat) : Option Rejection :=
  let a := x.desc (e.descFirst + 1)
  let ring := if e.opcode = opRepack then 2 ^ 16 else 2 ^ a.tLog2n
  let tags := (x.descsOf e).zipIdx.find? (fun d => d.1.hdr && !d.1.tUntied && decide (x.c.numBind ≤ d.1.tagBind))
  firstSome
    [ failIf (e.keys.any (keyNameBad x.c.numBind ring)) { code := 0x0B, entry := i },
      tags.map (fun d => { code := 0x0B, entry := i, desc := e.descFirst + d.2 }),
      failIf (!keyListOk e.opcode (if x.described i then (x.bodyOf i).preset else defaultPreset e.opcode) ring e.keys) { code := 0x0B, entry := i } ]

def checkKey (x : Strained) : Option Rejection := firstRej (fun e => checkKeyEntry x e.1 e.2) x.entries.zipIdx

/-! 0x0C PRESENCE (R189). -/

def presBad (p : Pres) : Bool :=
  p.resv || p.addr % 8 != 0 ||
    (if p.pkind = 1 then p.countB != 0 || p.blkRows != 0 || p.blkCols != 0
     else if p.pkind = 2 then p.blkRows % 64 != 0 || p.blkCols % 16 != 0 else true)

def checkPresence (x : Strained) : Option Rejection :=
  firstRej (fun p => failIf (presBad p.1)
    { code := 0x0C, entry := ((x.entries.zipIdx.find? (fun e => e.1.pres == p.2 + 1)).map (·.2)).getD 0xFFFF }) x.press.zipIdx

/-! 0x0D BUDGET (R210, R252, R253, R255). -/

def tmplTag (d : Desc) : Nat := if d.tUntied then 0 else d.tagBind + 1

/-- log2 N_B and n of a lookup preset (R253). -/
def ltLog2n (preset : Nat) : Nat := if preset = 3 then 11 else 10
def ltDim (preset : Nat) : Nat := if preset = 3 then 800 else 630
def ltDigits (preset : Nat) : Nat := if preset = 3 then 3 else 4
def ltLogBase (preset : Nat) : Nat := if preset = 3 then 20 else 15

/-- Templates of a non-linear operation against its preset (R253, R255, R260). -/
def presetTemplatesOk (x : Strained) (op preset : Nat) (ds : List Desc) : Bool :=
  let d := ds.getD 0 default
  let a := ds.getD 1 default
  let c := x.chain
  let lowPair := decide ((c.primes.getD 0 0) < 2 ^ 30) && decide ((c.primes.getD 1 0) < 2 ^ 30)
  let bt := decide (24 ≤ c.pairs.length) && c.special.length == 16 && decide (16 ≤ c.log2nMax)
  let room := decide ((a.tScale : Int) ≤ (c.capacity 1 : Int) - 2816)
  if op = opBootstrap then
    bt && a.tKind == 1 && a.tDomain == 1 && a.tLog2n == 16 && decide (3 ≤ a.tLevel) && room && d.tKind == 1 &&
      d.tLog2n == 16 && d.tDomain == 1 && d.tLevel == 13 && d.tScale == a.tScale && d.tChain == a.tChain &&
      decide ((a.tScale : Int) ≤ (c.capacity 13 : Int) - 256)
  else if op = opRepack then
    bt && lowPair && a.tKind == 4 && room && d.tKind == 1 && d.tLog2n == 16 && d.tDomain == 1 && d.tLevel == 14 &&
      d.tScale == a.tScale && d.tChain == a.tChain && decide ((a.tScale : Int) ≤ (c.capacity 14 : Int) - 256)
  else if op = opSwitchOut then
    lowPair && decide (1 ≤ c.special.length) && a.tKind == 1 && a.tDomain == 1 && d.tKind == 4 && d.tLog2n == ltLog2n preset &&
      d.tLevel == 0 && d.tScale == a.tScale && d.tChain == a.tChain
  else
    let t := ds.getD 2 default
    lowPair && decide (1 ≤ c.special.length) && a.tKind == 4 && t.tKind == 3 && t.tLog2n == ltLog2n preset && t.tLevel == 1 &&
      t.tDomain == 0 && d.tKind == 4 && d.tLog2n == ltLog2n preset && d.tLevel == 0 && d.tScale == t.tScale &&
      d.tChain == a.tChain

def isNonlinear (op : Nat) : Bool := op == opBootstrap || op == opSwitchOut || op == opLut || op == opRepack

/-- R210 on the templates, under the program's chain, the one table that decides (R203); what an accumulate leaves is held against its
sources' templates. -/
def budgetBroken (x : Strained) (e : Entry) (i : Nat) : Bool :=
  let ds := x.descsOf e
  let d := ds.getD 0 default
  let srcs := (ds.drop 1).filter (·.hdr)
  if isNonlinear e.opcode then x.described i && !presetTemplatesOk x e.opcode (x.bodyOf i).preset ds
  else if !d.hdr || srcs.isEmpty then false
  else
    let hs := srcs.map (fun s => templateOf s (tmplTag s))
    let eff := effectOf [x.chain] e.opcode e.arg e.wScale (hs.getD (leadSource hs) default) hs
    eff.causes.any (fun c => c == cLevel || c == cScale) || eff.hdr.kind != d.tKind || eff.hdr.log2n != d.tLog2n ||
      eff.hdr.chain != d.tChain || eff.hdr.domain != d.tDomain || eff.hdr.level != d.tLevel || eff.hdr.scale != d.tScale

def checkBudget (x : Strained) : Option Rejection :=
  firstRej (fun e => failIf (budgetBroken x e.1 e.2) { code := 0x0D, entry := e.2, desc := e.1.descFirst }) x.entries.zipIdx

/-! 0x0E OVERLAP. -/

/-- The loops of a descriptor that fixed fields fix, with their pad: extent and signed byte step; none where an extent or count is read at
run time, or no element exists. A level is at least 1: of a LEVEL extent 2 limbs are there, of a dimension whose stride the level
scales the first element. -/
def fixedLoops (u : DescUse) : Option (List (Nat × Int)) :=
  match fixedCount u.batch.1, fixedCount u.batch.2 with
  | some b0, some b1 =>
    if u.d.dims.any (fun x => x.src != srcFixed && x.src != srcLevel) then none
    else
      let terms := (List.range 6).map (fun k =>
        let x := u.d.dim k
        let e := if x.lvlStride then min 1 x.extent else if x.src = srcLevel then 2
          else if k < u.reduced then x.extent else paddedExtent x.extent (u.d.granule k (u.rows.contains k))
        (e, x.stride * (u.d.width : Int))) ++ [(b0, u.d.bstride0), (b1, u.d.bstride1)]
      if terms.any (fun t => t.1 == 0) then none else some (terms.filter (fun t => decide (1 < t.1)))
  | _, _ => none

/-- Loops with rising steps from their lowest address: how far below it starts, and the terms. -/
def risingLoops (terms : List (Nat × Int)) : Int × List (Nat × Nat) :=
  terms.foldl (fun acc t => (if t.2 < 0 then acc.1 + ((t.1 : Int) - 1) * t.2 else acc.1, acc.2 ++ [(t.1 - 1, t.2.natAbs)])) (0, [])

/-- Whether acc plus multiples of the terms (bound, step) reaches a value from lo to hi: exact, cut where the terms left
cannot reach. -/
def reachSearch (lo hi : Int) : List (Nat × Nat) → Int → Bool
  | [], acc => decide (lo ≤ acc) && decide (acc ≤ hi)
  | (m, s) :: r, acc =>
    if s = 0 then reachSearch lo hi r acc
    else
      let rest : Int := (r.map (fun t => ((t.1 * t.2 : Nat) : Int))).foldl (· + ·) 0
      let first := max 0 (-((rest + acc - lo) / (s : Int)))
      let last := min (m : Int) ((hi - acc) / (s : Int))
      (List.range (last - first + 1).toNat).any (fun i => reachSearch lo hi r (acc + (first + i) * s))

/-- How far the base of one handle lies above that of another, as fixed fields show it for a tile whose coordinates are all 0: 0 for one
handle; none where they are in different memories or the unknown parts of BASE differ. -/
def baseAbove (binds : List HandleBind) (h k : Nat) : Option Int :=
  if h = k then some 0
  else match bindOf binds h, bindOf binds k with
    | some a, some b =>
      if a.place == b.place && (a.place != 1 || a.peer == b.peer) && a.word == b.word then some ((a.base : Int) - b.base) else none
    | _, _ => none

/-- Two uses touch a common byte, as fixed fields show it; the base of the first lies so far above the second's. -/
def usesMeet (above : Int) (x y : DescUse) : Bool :=
  match fixedLoops x, fixedLoops y with
  | some a, some b =>
    -- distances from an element of y to one of x: x's address rises with its loops, y's falls
    let (l0, t0) := risingLoops (a ++ b.map (fun t => (t.1, -t.2)))
    reachSearch (1 - (x.d.width : Int)) ((y.d.width : Int) - 1) (sortBy (fun t => 2 ^ 64 - t.2) t0)
      ((x.d.dataOffset : Int) - y.d.dataOffset + above + l0)
  | _, _ => false

/-- Source and destination coincide exactly, element for element: a GALOIS or STRIDE load reads its runs whole first (R107),
a TRANSPOSE or BCAST load does not reach the elements of its destination in their order. -/
def usesCoincide (above : Int) (x y : DescUse) : Bool :=
  (x.d.dataOffset : Int) + above == y.d.dataOffset && x.d.width == y.d.width && x.d.hdr == y.d.hdr &&
    x.d.dims.map (fun k => (k.src, k.extent, k.arg, k.stride, k.lvlStride)) == y.d.dims.map (fun k => (k.src, k.extent, k.arg, k.stride, k.lvlStride)) &&
    x.d.bstride0 == y.d.bstride0 && x.d.bstride1 == y.d.bstride1 && ltwPerm y.d.ltw != 2 && !ltwBcast y.d.ltw

/-- Fixed fields show that a destination meets a source: at all, or otherwise than exactly. -/
def overlapFixed (binds : List HandleBind) (strict : Bool) (x y : DescUse) : Bool :=
  match baseAbove binds x.d.handle y.d.handle with
  | some a => usesMeet a x y && (strict || !usesCoincide a x y)
  | none => false

/-- Fixed fields show an overlap an operation may not have: any at all for gathers, matrix products and reductions, a partial
one otherwise (R97, R107, R139, R197); a non-linear operation may not even share the handle, and what it overlaps through another is
left to the run (R256). -/
def overlapShown (op : Nat) (b : BodyEntry) (dst : Desc) (src : Desc) (k : Nat) : Bool :=
  if isNonlinear op || op == opExport then dst.handle == src.handle
  else overlapFixed b.binds (isGatherOp op || op == opMatmul || reducedDims b != 0) (entryUse b dst 0) (entryUse b src k)

/-- An NTT's source and destination, each its limbs from the start of its handle, meet other than exactly (R97). -/
def nttOverlapShown (binds : List HandleBind) (o : NttOp) : Bool :=
  match fixedCount o.limbs, baseAbove binds o.dst o.src with
  | some n, some a => decide (0 < n) && a != 0 && decide (a.natAbs < 4 * n * 2 ^ o.log2n)
  | _, _ => false

/-- The same on one instruction: an MXA's or a REDUCE's destination meets no source at all. -/
def instrOverlapShown (binds : List HandleBind) (i : CoreInstr) : Bool :=
  let strict := match i with
    | .matmul _ | .inner _ | .bconvFast _ | .bconvExact _ => true
    | .vxe o => o.reduce != 0
    | _ => false
  match i with
  | .nttFwd o | .nttInv o => nttOverlapShown binds o
  | i => match instrUses binds i with
    | x :: srcs => srcs.any (overlapFixed binds strict x)
    | [] => false

def checkOverlap (x : Strained) : Option Rejection :=
  firstRej (fun e =>
    let ds := x.descsOf e.1
    match ((ds.zipIdx.drop 1).find? (fun d => overlapShown e.1.opcode (x.bodyOf e.2) (ds.getD 0 default) d.1 d.2)) with
    | some d => some { code := 0x0E, entry := e.2, desc := e.1.descFirst + d.2 }
    | none => failIf ((instrsOf (x.bodyOf e.2)).any (fun i => instrOverlapShown i.1 i.2)) { code := 0x0E, entry := e.2 })
    x.entries.zipIdx

/-! 0x0F BODY. -/

def countOk : CountSrc → Bool
  | .sreg r => decide (r < 32)
  | .bound w => decide (w < 32)
  | _ => true

/-- The deepest nesting of loops in a body. -/
def loopDepth (code : List CoreInstr) : Nat :=
  (code.foldl (fun (acc : Nat × Nat) i => match i with
    | .scalar (.loopBegin _) => (acc.1 + 1, max acc.2 (acc.1 + 1))
    | .scalar .loopEnd => (acc.1 - 1, acc.2)
    | _ => acc) (0, 0)).2

def instrBodyOk (len : Nat) : CoreInstr → Bool
  | .signal e => decide (e < 16)
  | .wait e _ => decide (e < 16)
  | .dma o => decide (o.pq < 16) && countOk o.batch0 && countOk o.batch1
  | .vxe o => o.scalars.all (fun r => decide (r < 32)) && countOk o.batch0 && countOk o.batch1
  | .matmul o | .inner o => [o.rows, o.inner, o.cols, o.batch0, o.batch1].all countOk
  | .bconvFast o | .bconvExact o => [o.rows, o.batch0, o.batch1].all countOk
  | .nttFwd o | .nttInv o => countOk o.limbs
  | .scalar (.write rd _) => decide (rd < 32)
  | .scalar (.addImm rd rs _) => decide (rd < 32) && decide (rs < 32)
  | .scalar (.loopBegin c) => countOk c
  | .scalar (.branch t) => decide (t ≤ len)
  | .scalar (.queueLimit pq n) => decide (pq < 16) && decide (1 ≤ n) && decide (n ≤ 32)
  | _ => true

def axisOk : AxisDep → Bool
  | .span a b c d => countOk a && countOk b && countOk c && countOk d
  | _ => true

def phaseBodyOk (p : Phase) : Bool :=
  decide (loopDepth p.code ≤ 8) && p.code.all (instrBodyOk p.code.length) && decide (1 ≤ p.slots) && decide (p.slots ≤ 4) &&
    decide (p.prefetchRegion ≤ 0x400000) && p.sregs.all (fun r => decide (r.1 < 32)) &&
    ((p.deps.map (fun d => axisOk d.key && axisOk d.limb && axisOk d.blk && axisOk d.item)).getD true) &&
    ((p.block.map (fun b => countOk b.1)).getD true) && ((p.item.map (fun i => countOk i.1 && countOk i.2)).getD true) &&
    p.binds.all (fun b => decide (b.place < 4) && decide (b.accOp < 5) && ((b.word.map (fun w => decide (w < 31))).getD true))

/-! What tiles write (R391). -/

/-- Bytes of a handle that an instruction of a phase touches, as fixed fields fix them: its binding, from, to, written or
read. -/
structure TileUse where
  phase : Nat
  bind : HandleBind
  lo : Int
  hi : Int
  write : Bool
deriving DecidableEq, Repr

/-- The span of a descriptor from its lowest byte to past its highest, as far as fixed fields fix it. -/
def spanOf (u : DescUse) : Option (Int × Int) :=
  (fixedLoops u).map (fun t =>
    ((u.d.dataOffset : Int) + (risingLoops t).1,
     (u.d.dataOffset : Int) + u.d.width + ((t.filter (fun x => decide (0 ≤ x.2))).map (fun x => ((x.1 : Int) - 1) * x.2)).foldl (· + ·) 0))

/-- What the instructions of a phase touch of far memory, of host memory behind it, and of other cores' scratchpads; folds
do not count. -/
def phaseUses (pi : Nat) (p : Phase) : List TileUse :=
  p.code.flatMap (fun i =>
    let spans : List (Nat × Option (Int × Int) × Bool) := match i with
      | .nttFwd o | .nttInv o => match fixedCount o.limbs with
        | some l => [(o.dst, some ((0 : Int), ((4 * l * 2 ^ o.log2n : Nat) : Int)), true), (o.src, some (0, ((4 * l * 2 ^ o.log2n : Nat) : Int)), false)]
        | none => []
      | i => (instrUses p.binds i).map (fun u => (u.d.handle, spanOf u, u.dst))
    spans.filterMap (fun (x : Nat × Option (Int × Int) × Bool) => match bindOf p.binds x.1, x.2.1 with
      | some b, some sp => if b.place = 1 ∨ b.place = 3 then some { phase := pi, bind := b, lo := sp.1, hi := sp.2, write := x.2.2 } else none
      | _, _ => none))

/-- Positions of a phase's tiles where the templates, the key list and fixed counts fix them, by what they add to a BASE: tiles of
different positions are different tiles. Of BLOCK and ITEM the first two: every further one lies by the same step (log 49). -/
def tilePositions (keys level specials : Nat) (p : Phase) : List TileStep :=
  let two (unit : Nat) (n : Option Nat) : List Nat := if 2 ≤ n.getD 0 then [0, unit] else [0]
  let gran := if p.galois = 0 then 1 else max 1 (2 ^ p.galois / 1024)
  let blocks := p.block.bind (fun b => (fixedCount b.1).map (fun n => ceilDiv (ceilDiv n (max 1 b.2)) gran))
  (List.range (if p.keyAxis then keys else 1)).flatMap (fun k =>
    (List.range (if p.limbAxis then 2 * p.level.getD level + (if p.special then specials else 0) else 1)).flatMap (fun l =>
      (two gran blocks).flatMap (fun b => (two 1 (p.item.bind fixedItems)).map (fun i => { key := k, limb := l, blk := b, item := i }))))

/-- What a tile at a position adds to a BASE. -/
def stepAt (s p : TileStep) : Nat := s.key * p.key + s.limb * p.limb + s.blk * p.blk + s.item * p.item

/-- Two tiles touch a common 4 KiB block, the first writing it. -/
def tilesMeet (x y : TileUse) (px py : TileStep) : Bool :=
  let from_ (u : TileUse) (p : TileStep) : Int := (u.bind.base + stepAt u.bind.step p : Nat)
  let first (u : TileUse) (p : TileStep) : Int := (from_ u p + u.lo) / 4096
  let last (u : TileUse) (p : TileStep) : Int := (from_ u p + u.hi - 1) / 4096
  x.bind.place == y.bind.place && (x.bind.place != 1 || x.bind.peer == y.bind.peer) && x.bind.word == y.bind.word &&
    decide (first x px ≤ last y py) && decide (first y py ≤ last x px)

/-- Two tiles of an entry write one block, or one writes a block another reads (R391), as fixed fields show it (log 49). -/
def tilesClash (keys level specials : Nat) (b : BodyEntry) : Bool :=
  let uses := b.phases.zipIdx.flatMap (fun p => phaseUses p.2 p.1)
  let at_ (u : TileUse) : List TileStep := ((b.phases[u.phase]?).map (tilePositions keys level specials)).getD []
  (uses.filter (·.write)).any (fun x => uses.any (fun y =>
    (at_ x).any (fun px => (at_ y).any (fun py => (x.phase != y.phase || px != py) && tilesMeet x y px py))))

/-- One entry's code: its limits, at most one phase marked for weight prefetch (R247), R391. -/
def bodyOk (x : Strained) (e : Entry) (b : BodyEntry) : Bool :=
  let level := (((x.descsOf e).drop 1).find? (·.hdr)).map (·.tLevel)
  decide (1 ≤ b.phases.length) && decide (b.phases.length ≤ 8) && b.phases.all phaseBodyOk &&
    b.batch.all (fun p => countOk p.1 && countOk p.2) && decide ((b.phases.filter (·.weightPrefetch)).length ≤ 1) &&
    !tilesClash e.keys.length (level.getD 0) x.chain.special.length b

def checkBody (x : Strained) : Option Rejection :=
  if !x.decodes then some { code := 0x0F }
  else firstRej (fun e => failIf (!x.described e.2 || !bodyOk x e.1 (x.bodyOf e.2)) { code := 0x0F, entry := e.2 })
    x.entries.zipIdx

/-! The verdict. -/

/-- The code an entry's BODY_ENTRY names: an entry point of the body (R206, R217). -/
def codeAt (body : Body) (offset : Nat) : Option BodyEntry :=
  if body.decodes then body.entries.find? (fun e => e.offset == offset) else none

def strainedOf (chains : List Chain) (b : List Byte) (body : Body) : Strained :=
  { bytes := b, c := containerOf b, chains := chains, entries := containerEntries b, descs := containerDescs b
    press := containerPres b, rpairs := containerRpairs b
    decodes := body.decodes, codes := (containerEntries b).map (fun e => codeAt body e.bodyEntry) }

/-- The checks of R217 in the order of their codes; `full` is RESOURCE. -/
def strain (chains : List Chain) (iface : Nat) (full : Bool) (b : List Byte) (body : Body) : Option Rejection :=
  let x := strainedOf chains b body
  match checkContainer x with
  | some r => some r
  | none =>
    match firstRej (fun f => f x) [checkDigest, checkFirmware iface, checkChain, checkEntry, checkDescriptor, checkTransform,
        checkSlot, checkEngine, checkHandle, checkKey, checkPresence, checkBudget, checkOverlap, checkBody] with
    | some r => some r
    | none => failIf full { code := 0x10 }

end Sys2Proof.Machine
end

