-- ==== Sys2Proof/Machine/Programs.lean ====
section
/-! DEFINITION. Loading and unloading programs (R202 to R204, R217, R325). -/

namespace Sys2Proof.Machine

open Sys2Proof

/-- The running firmware interface version (R203, R506): that of the lead's image. -/
def runningIface (s : State) : Nat := (((s.hub s.leadOr0).image).map (·.iface)).getD 0x0100

/-- The program store lacks room, or 256 programs are loaded (R202, R217 code RESOURCE, log 12). -/
def storeFull (s : State) (len : Nat) : Bool :=
  (lowestFree 256 (s.tab.programs.map (·.index))).isNone ||
    decide (Config.programStoreBytes < (s.tab.programs.map (·.length)).foldl (· + ·) len)

/-- The lowest free PROGRAM_INDEX (R202). -/
def newProgramIndex (s : State) : Nat := (lowestFree 256 (s.tab.programs.map (·.index))).getD 0

/-- An accepted container as the store holds it, with the load serial of its chain (R202, R204). -/
def programOf (s : State) (b : List Byte) (body : Body) : Program :=
  let c := containerOf b
  { index := newProgramIndex s, chainId := c.chainId, serial := ((findChain s c.chainId).map (·.serial)).getD 0
    marked := false, numBind := c.numBind, minCores := c.minCores, length := b.length
    digest := digestOf ((b.drop 0x30).take 32), entries := containerEntries b, descs := containerDescs b
    press := containerPres b, rpairs := containerRpairs b, body := body, image := b }

def storeProgram (s : State) (b : List Byte) (body : Body) : State :=
  s.updTab (fun t => { t with programs := insertBy (·.index) (programOf s b body) t.programs })

/-- PROGRAM_INDEX, ENTRY_IX, DESC_IX (table Firmware commands). -/
def loadBody (index entry desc : Nat) : List Byte := leBytes 2 index ++ leBytes 2 entry ++ leBytes 2 desc

/-- The bytes of the private body (R205). -/
def bodyBytes (b : List Byte) : List Byte := (b.drop (containerOf b).bodyOff).take (containerOf b).bodyLen

/-- What decoding a private body gives: the same for equal bytes, so that a verdict depends on the container (R203, R207). The
first load of a body brings it (log 97). -/
def decodedBody (s : State) (b : List Byte) (body : Body) : Body :=
  ((s.tab.decoded.find? (fun x => x.1 == bodyBytes b)).map (·.2)).getD body

def noteDecoded (s : State) (b : List Byte) (body : Body) : State :=
  if s.tab.decoded.any (fun x => x.1 == bodyBytes b) then s
  else s.updTab (fun t => { t with decoded := t.decoded ++ [(bodyBytes b, body)] })

/-- PROGRAM_LOAD: LENGTH against TOTAL_LEN, then the strainer's verdict (R202, R325). RESOURCE answers NO_ROOM with
DETAIL 5. -/
def execProgramLoad (rq : MbxReq) (body : Body) (s : State) : Result :=
  mailbox s (loadSpec 0x0028) rq (fun t req =>
    match hostImage t rq.port req with
    | none => .fail t stHostAccess
    | some b =>
      if decide (b.length < 0x2C) || leAt b 0x28 4 != b.length then .fail t stBadField 8
      else
        let code := decodedBody t b body
        let u := noteDecoded t b code
        match strain t.tab.chains (runningIface t) (storeFull t b.length) b code with
        | none => .okWith (storeProgram u b code) (loadBody (newProgramIndex t) 0xFFFF 0xFFFF)
        | some r =>
          if r.code = 0x10 then .fail u stNoRoom 5
          else .done u stStrainer r.code (loadBody 0xFFFF r.entry r.desc))

/-- PROGRAM_UNLOAD is rejected while any live job names the program (R204). -/
def execProgramUnload (rq : MbxReq) (s : State) : Result :=
  mailbox s (nameSpec 0x0029) rq (fun t b =>
    match findProgram t (leAt b 0 2) with
    | none => .fail t stNotFound 0
    | some p =>
      if t.tab.jobs.any (fun j => j.progs.contains p.index) then .fail t stInUse
      else .ok (t.updTab (fun v => { v with programs := v.programs.filter (fun x => x.index != p.index) })))

end Sys2Proof.Machine
end

