-- ==== Sys2Proof/Machine/Launch.lean ====
section
/-! DEFINITION. Dispatch: which queue's front entry the queue engine serves (R333), what a RUN names (R334), its checks
(R70, R148, R163, R191, R212, R218, R232, R254, R281), the key list (R162, R191). -/

namespace Sys2Proof.Machine

open Sys2Proof

/-! Which entry dispatches. -/

def cmdRun : Nat := 1
def cmdFlagSet : Nat := 2
def cmdFlagWait : Nat := 3
def cmdNop : Nat := 4

/-- The entry of a queue that dispatches next, and the commands ahead of it. -/
def Queue.front (q : Queue) : Option Cmd := q.cmds.find? (fun c => c.phase == .fetched)
def Queue.ahead (q : Queue) : List Cmd := q.cmds.takeWhile (fun c => c.phase != .fetched)

/-- Commands dispatched and not completed. -/
def Queue.outstanding (q : Queue) : Nat := (q.cmds.filter (fun c => c.phase == .running || c.phase == .waiting)).length


/-- The five conditions of R333 on a queue's front entry, on a queue that serves entries (R338) of a job whose caddies
are RESIDENT (R159), while a hub leads and the device gives service (R408). A fenced entry waits for the whole drain of those before it, their records
included (R251). -/
def dispatchable (s : State) (q : Queue) : Bool :=
  match q.front, findJob s q.job with
  | some c, some j =>
    leads s && servingSet s && q.st != .cancelled && !q.cancelling && bindsResident s j &&
      q.ahead.all (fun a => a.phase != .waiting) && (!c.entry.fence || q.ahead.isEmpty) &&
      decide (q.outstanding < q.outLimit) && decide (q.unread + q.ahead.length < q.depth - 1)
  | _, _ => false

/-- How far a queue is from its turn: after the queue served last, in ascending number (R333). -/
def turn (robin num : Nat) : Nat := (num + 8192 - (robin + 1) % 8192) % 8192

/-- The queue the queue engine serves: the highest PRIORITY, round robin among equals (R333). -/
def servedQueue (s : State) : Option Queue :=
  let qs := s.tab.queues.filter (dispatchable s)
  let top := qs.foldl (fun m q => max m q.priority) 0
  (sortBy (fun q => turn s.tab.robin q.num) (qs.filter (fun q => q.priority == top))).head?

/-- The served queue's entry, when the row names that queue. -/
def servedEntry (s : State) (num : Nat) : Option (Queue × Cmd × Job) :=
  match servedQueue s with
  | some q => if q.num = num then
      match q.front, findJob s q.job with
      | some c, some j => some (q, c, j)
      | _, _ => none
    else none
  | none => none

/-- The first fetched command of a list changed. -/
def startFirst (f : Cmd → Cmd) : List Cmd → List Cmd
  | [] => []
  | c :: r => if c.phase = .fetched then f c :: r else c :: startFirst f r

def renameReader (num serial : Nat) (r : Nat × Nat × Nat) : Nat × Nat × Nat :=
  if r.1 = num ∧ r.2.1 = boundarySerial then (num, serial, r.2.2) else r

def renamePin (num serial : Nat) (r : Nat × Nat) : Nat × Nat := if r = (num, boundarySerial) then (num, serial) else r

def renameEntry (num serial : Nat) (e : CacheEntry) : CacheEntry :=
  { e with readers := e.readers.map (renameReader num serial), pins := e.pins.map (renamePin num serial) }

/-- Pre-claimed tiles and prefetched keys of a boundary command become the dispatched command's (R245, R250). -/
def renameBoundary (s : State) (num serial prio order : Nat) : State :=
  let s := mapDies s (fun d => { d with cache := d.cache.map (renameEntry num serial) })
  let s := mapCores s (fun c => { c with held := c.held.map (fun h =>
    if h.1 = num ∧ h.2.opSerial = boundarySerial then (num, { h.2 with opSerial := serial }) else h) })
  s.updKey (fun k => { k with sendList := k.sendList.map (fun i =>
    if i.queue = num ∧ i.serial = boundarySerial then { i with serial := serial, cls := min 2 i.cls, prio := prio, order := order } else i) })

/-- Dispatch the front entry: it receives its OP_SERIAL, the job's next one (R235, R333). -/
def beginCmd (s : State) (q : Queue) (j : Job) : State :=
  let n := s.tab.dispatchOrder + 1
  let s := updQueue s q.num (fun x => { x with cmds := startFirst (fun c =>
    { c with phase := .running, serial := j.nextSerial, prio := q.priority, dispatchOrder := n
             tiles := c.tiles.map (fun t => { t with claim := { t.claim with opSerial := j.nextSerial.toNat } }) }) x.cmds })
  let s := updJob s j.id (fun x => { x with nextSerial := x.nextSerial + 1 })
  renameBoundary (s.updTab (fun t => { t with dispatchOrder := n, robin := q.num })) q.num j.nextSerial.toNat q.priority n

/-! What a RUN names. -/

/-- The program, entry and decoded body a RUN names (R334). -/
def runTarget (s : State) (j : Job) (e : QEntry) : Option (Program × Entry × BodyEntry) :=
  match j.progs[e.progSlot]? with
  | none => none
  | some ix =>
    match findProgram s ix with
    | none => none
    | some p => (p.entries[e.entry]?).map (fun en => (p, en, (codeAt p.body en.bodyEntry).getD default))

/-- One command under way, as its operation sees it. `lvl2` is 2ℓ for the operation's level ℓ (R179), `sregs` the scalar registers
its descriptors read (R211). -/
structure OpRun where
  queue : Nat
  serial : Nat
  job : Job
  entry : Entry
  body : BodyEntry
  descs : List Desc
  bound : List Nat
  bitmap : List Bool
  pres : Option Pres
  keys : List KeyName
  cmd : Cmd
  lvl2 : Nat
  sregs : Tab W64 := []
deriving Repr, Inhabited

def OpRun.desc (r : OpRun) (k : Nat) : Desc := r.descs.getD k default
def OpRun.batch (r : OpRun) (k : Nat) : CountSrc × CountSrc := r.body.batch.getD k (.fixed 1, .fixed 1)
def OpRun.cores (r : OpRun) : List Nat := r.job.octets.flatMap octetCores
/-- The core whose LOCAL handles the operation's descriptors name: the group's lowest. -/
def OpRun.core (r : OpRun) : Nat := (minList r.cores).getD 0

/-- Every job memory the handles of a command may reach (R70). -/
def jobOwns (j : Job) (o : Nat) : Bool := o == j.id

def grantedRange (s : State) (j : Job) (addr len : Nat) : Bool := len == 0 || grantedTo s (jobOwns j) addr len

/-- 32-bit words of bytes. -/
def wordsOf (b : List Byte) : List Nat := (List.range (b.length / 4)).map (fun i => leAt b (4 * i) 4)

/-- The bound block: read once, or every word zero with BOUND 0 (R176, R332). -/
def readBound (s : State) (e : QEntry) : List Nat :=
  if e.bound then wordsOf (farRead s.far e.boundAddr 128).1 else List.replicate 32 0

/-- The number of bits of a presence bitmap (R189). -/
def presBits (p : Pres) : Nat := if p.pkind = 1 then p.countA else p.countA * p.countB
def presBytes (p : Pres) : Nat := ceilDiv (presBits p) 64 * 8

def readBitmap (s : State) (p : Pres) : List Bool :=
  let b := (farRead s.far p.addr (presBytes p)).1
  (List.range (presBits p)).map (fun x => bit (b.getD (x / 8) 0).toNat (x % 8))

/-- Scalar registers before a task's first issue: register i holds bound word i (R211). -/
def startSregs (bound : List Nat) : Tab W64 :=
  bound.zipIdx.foldl (fun t w => tabPut 0 t w.2 (BitVec.ofNat 64 w.1)) []

/-- A count of a command at dispatch. -/
def OpRun.count (r : OpRun) (lvl2 : Nat) (c : CountSrc) : Nat := countOf r.sregs r.bound lvl2 c

/-- Batch counts of the k-th descriptor (R180). -/
def OpRun.batchCounts (r : OpRun) (k : Nat) : Nat × Nat := (r.count r.lvl2 (r.batch k).1, r.count r.lvl2 (r.batch k).2)

/-- The template LEVEL the tile plan uses: that of the first source with a header (R226). -/
def OpRun.planLevel (r : OpRun) : Nat := (((r.descs.drop 1).find? (·.hdr)).map (·.tLevel)).getD 0

/-! Keys (R162, R163, R191, R519). -/

/-- Diagonals of a LINEAR: COUNT_A of its presence descriptor, else W's items over A's (R519). -/
def OpRun.diagonals (r : OpRun) : Nat :=
  match r.pres with
  | some p => p.countA
  | none =>
    let a := r.batchCounts 1
    let w := r.batchCounts 2
    if a.1 * a.2 = 0 then 0 else w.1 * w.2 / (a.1 * a.2)

/-- The present diagonals in ascending k. -/
def OpRun.present (r : OpRun) : List Nat :=
  (List.range r.diagonals).filter (fun k => r.pres.isNone || r.bitmap.getD k false)

def OpRun.diagElement (r : OpRun) (k : Nat) : Nat := rotationElement (2 ^ (r.desc 1).tLog2n) k

/-- The key list after R191 removes rotations whose every diagonal is absent. -/
def liveKeys (r : OpRun) : List KeyName :=
  if r.entry.opcode = opLinear ∧ r.pres.isSome then
    let live := r.present.map r.diagElement
    r.entry.keys.filter (fun k => live.contains k.galois)
  else r.entry.keys

/-! Headers of operands. -/

/-- The view of the k-th descriptor's handle. -/
def OpRun.view (r : OpRun) (k : Nat) : View :=
  match bindOf r.body.binds (r.desc k).handle with
  | some b => viewOfBind r.core r.bound b
  | none => noView

/-- The template of a descriptor as a header, under its bound caddy's tag (R44, R176). -/
def OpRun.template (s : State) (r : OpRun) (k : Nat) : Hdr :=
  let d := r.desc k
  let tag := if d.tUntied then 0
    else (((r.job.binds[d.tagBind]?).bind (findCaddy s)).map (·.tag.toNat)).getD 0
  templateOf d tag

/-- A source object: the header as the operation takes it, whether its own was malformed, the causes it originates, the
limbs read, the lowest byte outside the handle. -/
structure Obj where
  hdr : Hdr
  state : HState
  malformed : Bool
  causes : List Nat
  poly : Poly
  limbs : Nat
  held : Bool
  out : Option Int
deriving Repr, Inhabited

/-- A header and its template disagree (R184). -/
def templateDiffers (h t : Hdr) : Bool :=
  h.kind != t.kind || h.log2n != t.log2n || h.layout != t.layout || h.chain != t.chain ||
    (t.kind == 4 && h.slotsLog2 != t.slotsLog2)

/-- The header of an item, read, validated and held against its template (R43, R44, R184). -/
def readHdr (s : State) (r : OpRun) (k b0 b1 : Nat) : Obj :=
  let d := r.desc k
  let v := r.view k
  let f := v.fetch s 64 [(d.hdrOffset : Int) + itemOffset d b0 b1]
  let bytes := leBytes 64 (f.words.getD 0 0)
  let t := r.template s k
  let fault := if f.bad then [cFault] else []
  if malformed s.tab.chains bytes then
    { hdr := t, state := hValid, malformed := true, causes := cMalformed :: fault, poly := [], limbs := 0, held := false, out := f.out }
  else
    let h := hdrOf bytes
    let level := if (h.kind == 4) != (t.kind == 4) then t.level else h.level
    { hdr := { h with level := level }, state := h.state, malformed := false
      causes := (if templateDiffers h t then [cShape] else []) ++ fault, poly := [], limbs := 0, held := false, out := f.out }

/-- Source descriptors of an entry by position. -/
def OpRun.sources (r : OpRun) : List Nat := (List.range r.entry.numSrc).map (· + 1)

/-- A key by name: the caddy it lies in and its directory position. A SWITCH key is found by its ring too (R144, R262). -/
def findKey (s : State) (j : Job) (k : KeyName) (log2n : Nat) : Option (Caddy × Nat × KeyEntry) :=
  match (j.binds[k.bind]?).bind (findCaddy s) with
  | none => none
  | some c => (c.keys.zipIdx.find? (fun e => e.1.kkind == k.kkind && e.1.galois == k.galois &&
      (k.kkind != 3 || e.1.log2n == log2n))).map (fun e => (c, e.2, e.1))

/-- The ring at which an operation looks for a SWITCH key: SWITCH.OUT's source ring, LUT's binary ring (R262). -/
def OpRun.switchRing (r : OpRun) : Nat :=
  if r.entry.opcode = opLut then ltLog2n r.body.preset else (r.desc 1).tLog2n

def OpRun.key (r : OpRun) (s : State) (k : KeyName) : Option (Caddy × Nat × KeyEntry) := findKey s r.job k r.switchRing

/-- A name the bindings do not resolve (R163). -/
def keysUnresolved (s : State) (r : OpRun) : Bool := r.keys.any (fun k => (r.key s k).isNone)

/-- A present diagonal whose rotation no key names (R191). -/
def diagonalWithoutKey (r : OpRun) : Bool :=
  r.entry.opcode == opLinear && r.present.any (fun k => r.diagElement k != 1 &&
    !r.entry.keys.any (fun n => n.galois == r.diagElement k))

/-- The keys of a hoisted entry differ in DNUM, CHAIN_ID or LOG2N (R148). -/
def hoistMixed (s : State) (r : OpRun) : Bool :=
  let cs := r.keys.filterMap (fun k => (r.key s k).map (fun x => (x.1.dnum, x.1.chainId, x.1.log2n)))
  r.entry.hoist && cs.any (fun a => some a != cs.head?)

/-- Special primes of a caddy's chain. -/
def specialsOf (s : State) (c : Caddy) : Nat := ((findChain s c.chainId).map (·.special.length)).getD 0

/-- A key of a preset has the wrong shape, or its caddy does not meet the preset (R253, R254, R262, R266, R270). -/
def presetBroken (s : State) (r : OpRun) : Bool :=
  isNonlinear r.entry.opcode && r.keys.any (fun k =>
    match r.key s k with
    | none => false
    | some (c, _, e) =>
      let ks := specialsOf s c
      if r.body.preset = 1 ∨ r.body.preset = 2 then c.log2n != 16 || c.dnum != 2 || ks != 16
      else
        let d := ltDigits r.body.preset
        ks == 0 || (e.kkind == 5 && (e.digits != 2 * d ||
          decide (e.log2n < (if r.body.preset = 3 then 16 else 14)) ||
          e.limbs != 2 * ceilDiv (ltDim r.body.preset) (2 ^ (e.log2n - ltLog2n r.body.preset)))))

/-! Handles and memory. -/

def scratchBytes : Nat := 0xC00000

/-- The buffers that other commands' tasks have on a core: their LOCAL handles. -/
def takenRanges (s : State) (core : Nat) : List (Nat × Nat) :=
  ((s.core core).handles.filter (fun h => h.2.valid && h.2.place == 0)).map (fun h => (h.2.base, h.2.length))

/-- The checks of R70 on one handle entry, at what a tile's coordinates add to its BASE. -/
def handleGood (s : State) (r : OpRun) (b : HandleBind) (step : Nat) : Bool :=
  let base := handleBase b r.bound step
  base % 4096 == 0 && b.length % 4096 == 0 &&
    (if b.place < 2 then decide (base + b.length ≤ scratchBytes)
     else if b.place = 2 then nearGranted s r.job.binds base b.length
     else grantedRange s r.job base b.length) &&
    (b.place != 1 || r.cores.contains b.peer) &&
    (!b.mirror || b.place != 0 || (r.cores.contains b.peer && b.buddyBase % 4096 == 0 && decide (b.buddyBase + b.length ≤ scratchBytes)))

/-- The cores that may hold the copy of a mirrored binding: the buddy it names, or where that is out of service one of the two
lowest of the group in service (R85, log 113). -/
def possibleBuddies (s : State) (r : OpRun) (b : HandleBind) : List Nat :=
  if coreInService s b.peer then [b.peer] else (sortBy (fun c => c) (r.cores.filter (coreInService s))).take 2

/-- A mirrored binding's range on its buddy overlaps no buffer of the buddy's own tasks: none it has, none in `mine` (R70). -/
def buddyClear (s : State) (r : OpRun) (mine : List (Nat × Nat)) (b : HandleBind) : Bool :=
  !b.mirror || b.place != 0 || (possibleBuddies s r b).all (fun p =>
    (mine ++ takenRanges s p).all (fun x => decide (b.buddyBase + b.length ≤ x.1) || decide (x.1 + x.2 ≤ b.buddyBase)))

/-- The destination handle of a REMOTE.ADD, which names memory of the SINK (R363). -/
def atSink (r : OpRun) (b : HandleBind) : Bool :=
  r.entry.opcode == opRemoteAdd && b.handle == (r.desc 0).handle && b.place == 3 && b.base % 4096 == 0 && b.length % 4096 == 0

/-- A template tag names no bound caddy (R163, R176). -/
def tagUnbound (r : OpRun) : Bool :=
  r.descs.any (fun d => d.hdr && !d.tUntied && decide (r.job.binds.length ≤ d.tagBind))

/-- The bound block or the bitmap lies outside memory granted to the job (R190, R212). -/
def readsOutside (s : State) (r : OpRun) : Bool :=
  (r.cmd.entry.bound && !grantedRange s r.job r.cmd.entry.boundAddr 128) ||
    (match r.pres with
     | some p => !grantedRange s r.job p.addr (presBytes p)
     | none => false)

/-- The counter block lies outside memory granted to the job (R232). -/
def counterOutside (s : State) (r : OpRun) : Bool :=
  !grantedRange s r.job r.cmd.entry.counterAddr (64 * r.body.phases.length)

/-- An accumulating operation without an RJOB (R281). -/
def noRjob (r : OpRun) : Bool :=
  (r.entry.opcode == opScatterAdd || r.entry.opcode == opRemoteAdd) && r.job.rjob.isNone

/-- A REMOTE.ADD of a job that is not linked, or on the SINK itself (R363). -/
def noLink (s : State) (r : OpRun) : Bool :=
  r.entry.opcode == opRemoteAdd && (match r.job.link with
    | some l => l.sink == s.fab.devNumber
    | none => true)

/-! The tile plan's extents (R224, R225). -/

/-- The extents of a phase's tile space: KEY, LIMB, BLOCK in blocks with its granule, ITEM; 1 for an absent axis. -/
structure Extents where
  key : Nat
  limb : Nat
  block : Nat
  gran : Nat
  item : Nat
deriving DecidableEq, Repr

/-- Special primes of the chain the operation runs under: that of the first source's template. -/
def OpRun.specials (s : State) (r : OpRun) : Nat := ((findChain s (r.desc 1).tChain).map (·.special.length)).getD 0

/-- The level of a phase's basis: its own where the plan gives one (R224, R259). -/
def OpRun.phaseLevel (r : OpRun) (p : Phase) : Nat := p.level.getD r.planLevel

def extentsOfPhase (s : State) (r : OpRun) (p : Phase) : Extents :=
  let l2 := 2 * r.phaseLevel p
  let plan := 2 * r.planLevel
  { key := if p.keyAxis then r.keys.length else 1
    limb := if p.limbAxis then l2 + (if p.special then r.specials s else 0) else 1
    block := (p.block.map (fun b => ceilDiv (r.count plan b.1) (max 1 b.2))).getD 1
    gran := if p.galois = 0 then 1 else max 1 (2 ^ p.galois / 1024)
    item := (p.item.map (fun i => r.count plan i.1 * r.count plan i.2)).getD 1 }

/-- fp(t) for the extents t of BLOCK and ITEM. -/
def footprint (p : Phase) (t : Nat × Nat) : Nat :=
  p.fp0 + p.fpBlock * t.1 + p.fpItem * t.2 + p.fpBoth * t.1 * t.2

/-- count(t). -/
def Extents.tiles (x : Extents) (t : Nat × Nat) : Nat :=
  x.key * x.limb * ceilDiv x.block t.1 * ceilDiv x.item t.2

/-- B, the slot budget. -/
def slotBudget (p : Phase) : Nat := (scratchBytes - p.prefetchRegion - p.reserved) / p.slots

/-- One step of the split: the first sized axis in the plan's split order that can be halved. -/
def splitStep (p : Phase) (x : Extents) (t : Nat × Nat) : Option (Nat × Nat) :=
  let b := if p.block.isSome && decide (x.gran < t.1) then some (ceilDiv t.1 (2 * x.gran) * x.gran, t.2) else none
  let i := if p.item.isSome && decide (1 < t.2) then some (t.1, ceilDiv t.2 2) else none
  firstSome (if p.blockFirst then [b, i] else [i, b])

/-- The loop of R225. -/
def splitLoop (p : Phase) (x : Extents) (target cap : Nat) : Nat → Nat × Nat → Nat × Nat
  | 0, t => t
  | n + 1, t =>
    if footprint p t ≤ slotBudget p ∧ target ≤ x.tiles t then t
    else match splitStep p x t with
      | none => t
      | some u => if cap < x.tiles u then t else splitLoop p x target cap n u

/-- G: the cores of the group in service (R225, R377). -/
def groupSize (s : State) (r : OpRun) : Nat := (r.cores.filter (coreInService s)).length

/-- The tile extents of a phase (R225): each sized axis starts at its extent rounded up to its granule. -/
def tileExtents (s : State) (r : OpRun) (p : Phase) : Nat × Nat :=
  let x := extentsOfPhase s r p
  splitLoop p x (2 * groupSize s r) (if r.body.phases.any (·.folds) then 4096 else 65536) 128
    (ceilDiv x.block x.gran * x.gran, x.item)

/-- A phase whose task does not fit its slot (R225). -/
def planFails (s : State) (r : OpRun) : Bool :=
  r.body.phases.any (fun p => decide (slotBudget p < footprint p (tileExtents s r p)))

/-! The run of a command. -/

/-- A scalar register as the die controller sets it from the tile plan and the bound block (R211). -/
def sregValue (bound : List Nat) (t : Tile) : SregSrc → W64
  | .const v => v
  | .bound w => BitVec.ofNat 64 (bound.getD w 0)
  | .key => BitVec.ofNat 64 t.key
  | .limb => BitVec.ofNat 64 t.limb
  | .blk => BitVec.ofNat 64 t.blk
  | .blks => BitVec.ofNat 64 t.blks
  | .item => BitVec.ofNat 64 t.item
  | .items => BitVec.ofNat 64 t.items
  | .claimIndex => BitVec.ofNat 64 t.claim.claimIndex

def taskSregs (r : OpRun) (p : Phase) (t : Tile) : Tab W64 :=
  p.sregs.foldl (fun m x => tabPut 0 m x.1 (sregValue r.bound t x.2)) (startSregs r.bound)

/-- The scalar registers an operation's descriptors read: those of the task of its first tile (R211, log 136). -/
def planSregs (s : State) (r : OpRun) : Tab W64 :=
  match r.body.phases with
  | [] => startSregs r.bound
  | p :: _ =>
    let x := extentsOfPhase s r p
    let t := tileExtents s r p
    taskSregs r p { claim := default, key := 0, limb := 0, cell := 0, item := 0, items := min t.2 x.item, blk := 0, blks := min t.1 x.block }

/-- LEVELs of the headers of an operand's items. -/
def headerLevels (s : State) (r : OpRun) (k : Nat) : List Nat :=
  let n := r.batchCounts k
  (List.range (n.1 * n.2)).map (fun i => (readHdr s r k (itemAt n.1 i).1 (itemAt n.1 i).2).hdr.level)

/-- The operation's level, as 2ℓ: the lowest LEVEL among the headers of its header operands (R179); 0 where it has none. Batch
counts taken from LEVEL are those of the first items. -/
def operationLevel (s : State) (r : OpRun) : Nat :=
  let ks := r.sources.filter (fun k => (r.desc k).hdr)
  let first := 2 * (minList (ks.map (fun k => (readHdr s r k 0 0).hdr.level))).getD 0
  let all := ks.flatMap (headerLevels s { r with lvl2 := first })
  ((minList all).map (2 * ·)).getD first

/-- The run of a fetched or dispatched command. A boundary command keeps the reads it made early (R245). -/
def opRunOf (s : State) (q : Queue) (j : Job) (c : Cmd) (p : Program) (e : Entry) (b : BodyEntry) (serial : Nat) : OpRun :=
  let pres := if e.pres = 0 then none else p.press[e.pres - 1]?
  let r : OpRun :=
    { queue := q.num, serial := serial, job := j, entry := e, body := b
      descs := (List.range (e.numDst + e.numSrc)).map (fun i => p.descs.getD (e.descFirst + i) default)
      bound := if c.early then c.boundWords.map (·.toNat) else readBound s c.entry
      bitmap := if c.early then c.bitmap else (pres.map (readBitmap s)).getD []
      pres := pres, keys := e.keys, cmd := c, lvl2 := 0 }
  let r := { r with sregs := startSregs r.bound }
  let r := { r with keys := liveKeys r }
  let r := { r with sregs := planSregs s r }
  { r with lvl2 := operationLevel s r }

/-- The reads of a command's bound block and bitmap wake the stacks they lie on (R312). -/
def wakeBound (s : State) (c : Cmd) (r : OpRun) : State :=
  if c.early then s
  else
    let s := if c.entry.bound then touchRead s c.entry.boundAddr 128 else s
    match r.pres with
    | some p => touchRead s p.addr (presBytes p)
    | none => s

end Sys2Proof.Machine
end

