-- ==== Sys2Proof/Machine/Plan.lean ====
section
/-! DEFINITION. The tile plan: numbering (R227 to R229), dealing (R230), key pieces and their order (R147, R231, R259), and
what dispatching a RUN does before its operation (R166, R232, R233). -/

namespace Sys2Proof.Machine

open Sys2Proof

/-! The Hilbert curve (R229). -/

/-- The loop of hxy, by the number of levels left. -/
def hxyLoop : Nat → Nat → Nat → Nat → Nat → Nat × Nat
  | 0, _, _, x, y => (x, y)
  | k + 1, sz, t, x, y =>
    let rx := t / 2 % 2
    let ry := (t + rx) % 2
    let flip := ry = 0 ∧ rx = 1
    let x1 := if ry = 0 then (if flip then sz - 1 - y else y) else x
    let y1 := if ry = 0 then (if flip then sz - 1 - x else x) else y
    hxyLoop k (2 * sz) (t / 4) (x1 + sz * rx) (y1 + sz * ry)

/-- ⌈log2 n⌉. -/
def log2Up (n : Nat) : Nat := if n ≤ 1 then 0 else Nat.log2 (n - 1) + 1

/-- hxy(2^k, d). -/
def hxy (k d : Nat) : Nat × Nat := hxyLoop k 1 d 0 0

/-- The cells of an X by Y grid in Hilbert rank. -/
def hilbertCells (x y : Nat) : List (Nat × Nat) :=
  if y = 1 then (((List.range (4 ^ log2Up x)).map (hxy (log2Up x))).filter (fun c => decide (c.1 < x) && c.2 == 0))
  else ((List.range (4 ^ log2Up (max x y))).map (hxy (log2Up (max x y)))).filter (fun c => decide (c.1 < x) && decide (c.2 < y))

/-! Tiles. -/

/-- The octets of a group in the order of R223: by rank on the die, then by die. -/
def octetOrder (octets : List Nat) : List Nat :=
  sortBy (fun o => 8 * (octets.filter (fun x => x / 8 == o / 8 && decide (x < o))).length + o / 8) octets

/-- The die of position p of the dealing axis (R230). -/
def dealtDie (octets : List Nat) (p : Nat) : Nat := ((octetOrder octets).getD (p % octets.length) 0) / 8

/-- The position of the dealing axis a LIMB position counts as. The special limbs of a bootstrap's key keep one die each in every
phase, whatever its level: they stand behind the 48 pair limbs of level 24 (R230, R259, DEDUCED, log 137). -/
def dealPosition (r : OpRun) (p : Phase) (limb : Nat) : Nat :=
  if r.entry.opcode = opBootstrap ∧ 2 * r.phaseLevel p ≤ limb then 48 + (limb - 2 * r.phaseLevel p) else limb

/-- One tile: KEY position, cell x of the sized axes (ITEM outermost), LIMB position, under its claim index (R224, R228). A phase with none of the axes
LIMB, BLOCK and ITEM deals every tile by position 0 (R230 names none, DESIGN CHOICE, log 138). -/
def tileOf (r : OpRun) (pi : Nat) (p : Phase) (x : Extents) (t : Nat × Nat) (nb key limb cell index : Nat) : Tile :=
  let b := cell % nb
  let i := cell / nb
  let pos := if p.limbAxis then dealPosition r p limb else if p.block.isSome then b else if p.item.isSome then i else 0
  { claim := { claimIndex := index, opSerial := r.serial, claimer := 0, die := dealtDie r.job.octets pos, phase := pi
               pre := false, attempt := 0 }
    key := key, limb := limb, cell := cell
    item := i * t.2, items := min t.2 (x.item - i * t.2), blk := b * t.1, blks := min t.1 (x.block - b * t.1) }

/-- The tiles of one phase from a first claim index (R227, R228). -/
def phaseTiles (s : State) (r : OpRun) (pi : Nat) (p : Phase) (first : Nat) : List Tile :=
  let x := extentsOfPhase s r p
  let t := tileExtents s r p
  if x.tiles t = 0 then []
  else
    let nb := ceilDiv x.block t.1
    let ni := ceilDiv x.item t.2
    (((List.range x.key).flatMap (fun k => (hilbertCells (nb * ni) x.limb).map (fun c => (k, c)))).zipIdx).map
      (fun e => tileOf r pi p x t nb e.1.1 e.1.2.2 e.1.2.1 (first + e.2))

/-- The tiles of an entry, phase by phase (R228). -/
def planTiles (s : State) (r : OpRun) : List Tile :=
  r.body.phases.zipIdx.foldl (fun acc p => acc ++ phaseTiles s r p.2 p.1 acc.length) []

/-! Handles of tiles (R65, R70). -/

/-- What a tile adds to the BASE of a binding. -/
def tileStep (b : HandleBind) (t : Tile) : Nat := stepOf b t.key t.limb t.blk t.item

/-- The tiles of each phase. -/
def phasesTiles (s : State) (r : OpRun) : List (Phase × List Tile) :=
  r.body.phases.zipIdx.map (fun p => (p.1, phaseTiles s r p.2 p.1 0))

/-- What the tiles of a phase add to a binding's BASE. -/
def bindSteps (ts : List Tile) (b : HandleBind) : List Nat :=
  if b.step == {} then [0] else (ts.map (tileStep b)).eraseDups

/-- The LOCAL ranges of a command's tasks, over all its tiles. -/
def localRanges (s : State) (r : OpRun) : List (Nat × Nat) :=
  (phasesTiles s r).flatMap (fun p => (p.1.binds.filter (fun b => b.place == 0)).flatMap (fun b =>
    (bindSteps p.2 b).map (fun d => (handleBase b r.bound d, b.length))))

/-- Accumulator buffers a core may hold (R78). -/
def accumMax : Nat := 16

/-- A core that the bindings name REMOTE would hold more than 16 accumulator buffers, those every tile names LOCAL among them
(R78). The spec names no outcome: BINDING, as for a handle entry that cannot be written (DESIGN CHOICE, log 139). -/
def accumsOver (s : State) (r : OpRun) : Bool :=
  let named (place : Nat) : List (Nat × Nat) := ((phasesTiles s r).flatMap (fun p =>
    (p.1.binds.filter (fun b => b.accum && b.place == place && (place == 1 || b.step == {}))).flatMap (fun b =>
      (bindSteps p.2 b).map (fun d => (b.peer, handleBase b r.bound d))))).eraseDups
  let here := ((named 0).map (·.2)).eraseDups
  decide (accumMax < here.length) || (named 1).any (fun x =>
    decide (accumMax < (here ++ ((named 1).filter (fun y => y.1 == x.1)).map (·.2)).eraseDups.length))

/-- Some handle entry of the command fails a check of R70: those its descriptors are read under, and those of every tile. -/
def handlesBad (s : State) (r : OpRun) : Bool :=
  let mine := localRanges s r
  let bad (step : Nat) (b : HandleBind) : Bool := !(handleGood s r b step && buddyClear s r mine b) && !atSink r b
  r.body.binds.any (bad 0) ||
    r.body.phases.zipIdx.any (fun p =>
      (p.1.binds.filter (fun b => b.step == {})).any (bad 0) ||
      (p.1.binds.filter (fun b => b.step != {})).any (fun b =>
        (phaseTiles s r p.2 p.1 0).any (fun t => bad (tileStep b t) b)))

/-! The verdict at dispatch. -/

/-- A RUN completes with BINDING before any task issues. -/
def bindingFails (s : State) (p : Program) (r : OpRun) : Bool :=
  decide (r.job.group < p.minCores) || readsOutside s r || counterOutside s r || tagUnbound r || diagonalWithoutKey r ||
    keysUnresolved s r || hoistMixed s r || presetBroken s r || noRjob r || noLink s r || handlesBad s r || accumsOver s r || planFails s r

/-! Key pieces (R146, R147, R259). -/

/-- The level up to which a command reads a key of its list. Which five of a BOOTSTRAP's sixteen rotation keys are those of level 24
in CtS and of level 2 in StC is open: the first five GALOIS names of the key list other than the conjugation (R259, DESIGN CHOICE,
log 153). -/
def keyLevel (r : OpRun) (k : Nat) (n : KeyName) : Nat :=
  let amounts := (r.keys.take k).filter (fun x => x.kkind == 2 && x.galois != 2 ^ 17 - 1)
  if r.entry.opcode = opBootstrap then
    (if n.kkind = 1 then 21 else if n.galois = 2 ^ 17 - 1 then 22 else if amounts.length < 5 then 24 else 23)
  else if r.entry.opcode = opRepack then (if n.kkind = 1 then 23 else 24)
  else if isNonlinear r.entry.opcode then 1
  else r.planLevel

/-- The chain of the first source's template. -/
def OpRun.chain (s : State) (r : OpRun) : Option Chain := findChain s (r.desc 1).tChain

/-- D(ℓ) under the caddy's DNUM (R147, R174). -/
def digitsAt (pairs dnum level : Nat) : Nat := ceilDiv (2 * level) (digitWidth pairs dnum)

/-- The (digit, limb) pairs of a key that a switch at a level reads. -/
def piecesAt (pairs own : Nat) (specials dnum level : Nat) (e : KeyEntry) : List (Nat × Nat) :=
  let limbs := if e.kkind = 1 ∨ e.kkind = 2 then
      (List.range (2 * level)).filter (fun i => decide (i < 2 * own)) ++ (List.range specials).map (fun k => 2 * own + k)
    else List.range e.limbs
  let digits := if e.kkind = 1 ∨ e.kkind = 2 then min (digitsAt pairs dnum level) e.digits else e.digits
  (List.range digits).flatMap (fun j => (limbs.filter (fun i => decide (i < e.limbs))).map (fun i => (j, i)))

/-- The LIMB position of a phase at which a key's limb is read; none: at every one. -/
def limbPosition (own level : Nat) (e : KeyEntry) (i : Nat) : Option Nat :=
  if e.kkind = 5 then none
  else if e.kkind = 3 then some (if i < 2 then i else 2 * level + (i - 2))
  else if i < 2 * own then some i
  else some (2 * level + (i - 2 * own))

/-- Pairs of the chain a caddy is built on. -/
def pairsOf (s : State) (c : Caddy) : Nat := ((findChain s c.chainId).map (·.pairs.length)).getD 0

/-- An instruction that takes key pieces. -/
def keyUse : CoreInstr → Option KeyUse
  | .matmul o | .inner o => o.key
  | _ => none

/-- A phase reads keys: its code has a key switch; where no code of the entry shows one, it has a KEY axis, or no phase has. -/
def readsKeys (r : OpRun) (p : Phase) : Bool :=
  let switches (x : Phase) : Bool := x.code.any (fun i => (keyUse i).isSome)
  if r.body.phases.any switches then switches p else p.keyAxis || !r.body.phases.any (·.keyAxis)

/-- The level at which a phase reads the k-th key of its command; 0: not in this phase. A bootstrap reads its rotation keys at
levels 3 and 2 in StC, at 24 and 23 in CtS with the conjugation key at 22, its RELIN key in EvalMod (R259); REPACK its RELIN
key below level 24 (R270). -/
def phaseKeyLevel (r : OpRun) (p : Phase) (k : Nat) (n : KeyName) : Nat :=
  let full := keyLevel r k n
  match p.level with
  | none => full
  | some l =>
    if r.entry.opcode = opBootstrap then
      if l ≤ 3 then (if n.kkind = 2 ∧ n.galois ≠ 2 ^ 17 - 1 then (if full = 24 then 2 else 3) else 0)
      else if l ≤ 22 then (if n.kkind = 1 then full else 0)
      else (if n.kkind = 1 then 0 else full)
    else if r.entry.opcode = opRepack then (if (n.kkind = 1) = (l < 24) then full else 0)
    else full

/-- The pieces of the k-th key that a tile's phase reads at the tile's LIMB position (R146, R147). -/
def tileKeyPieces (s : State) (r : OpRun) (p : Phase) (t : Tile) (k : Nat) : List PieceId :=
  match r.keys[k]? with
  | none => []
  | some n =>
    match r.key s n, r.chain s with
    | some (c, ix, e), some ch =>
      (((piecesAt ch.pairs.length (pairsOf s c) ch.special.length c.dnum (phaseKeyLevel r p k n) e).filter (fun x => !p.limbAxis ||
        match limbPosition (pairsOf s c) (r.phaseLevel p) e x.2 with
        | none => true
        | some y => y == t.limb)).filter (fun _ => decide (0 < phaseKeyLevel r p k n))).map
          (fun x => { caddy := c.index, key := ix, digit := x.1, limb := x.2 })
    | _, _ => []

/-- The pieces a tile reads: of its KEY position, or of every key of the list where its phase has no KEY axis (R164). -/
def tilePieces (s : State) (r : OpRun) (t : Tile) : List PieceId :=
  match r.body.phases[t.claim.phase]? with
  | some p =>
    if !readsKeys r p then []
    else if p.keyAxis then tileKeyPieces s r p t t.key
    else (List.range r.keys.length).flatMap (tileKeyPieces s r p t)
  | none => []

/-- PIECE_ID's upper half as a number; the lower half, the tag, decides only among equals (R165, R231). -/
def pieceOrder (p : PieceId) : Nat := p.caddy + 2 ^ 10 * p.key + 2 ^ 22 * p.digit + 2 ^ 25 * p.limb

/-- Tiles with the pieces they read. -/
def tileReads (s : State) (r : OpRun) (ts : List Tile) : List (Tile × List PieceId) := ts.map (fun t => (t, tilePieces s r t))

/-- The pieces of a command in order of first need (R231). -/
def piecesInOrder (reads : List (Tile × List PieceId)) : List (Nat × PieceId) :=
  let first := reads.foldl (fun acc x => x.2.foldl (fun acc p => if acc.any (fun a => a.2 == p) then acc
    else acc ++ [(x.1.claim.claimIndex, p)]) acc) []
  sortBy (fun a => a.1 * 2 ^ 40 + pieceOrder a.2) first

/-- Bytes of a die key cache and of its pins (R168). -/
def cacheBytes : Nat := 192 * 2 ^ 20
def pinBytes : Nat := 160 * 2 ^ 20

def bytesOf (l : List CacheEntry) : Nat := (l.map (·.bytes)).foldl (· + ·) 0

/-- An entry pinned for a command where the limit of R168 leaves room; one pinned already takes none. -/
def pinEntry (pin : Nat × Nat) (l : List CacheEntry) (e : CacheEntry) : CacheEntry :=
  if e.pins.contains pin || (e.pins.isEmpty && decide (pinBytes < bytesOf (l.filter (fun x => !x.pins.isEmpty)) + e.bytes)) then e
  else { e with pins := e.pins ++ [pin] }

/-- The entries of a cache that hold some pieces, pinned one by one. -/
def pinPieces (pin : Nat × Nat) (pieces : List PieceId) (l : List CacheEntry) : List CacheEntry :=
  pieces.foldl (fun l p => l.map (fun e => if e.piece = p then pinEntry pin l e else e)) l

/-- The readers of an entry with those added that it does not name yet (R167). -/
def addReaders (e : CacheEntry) (rs : List (Nat × Nat × Nat)) : CacheEntry :=
  { e with readers := e.readers ++ rs.filter (fun r => !e.readers.contains r) }

/-- A die keeps pieces for a command: its mask, and the readers and pins of entries it already holds (R166 to R168). -/
def keepPieces (num serial : Nat) (pin : Bool) (reads : List (Nat × List PieceId)) (d : DieState) : DieState :=
  let pieces := (reads.flatMap (·.2)).eraseDups
  let cache := d.cache.map (fun e =>
    addReaders e ((reads.filter (fun x => x.2.contains e.piece)).map (fun x => (num, serial, x.1))))
  { d with
    keep := d.keep ++ pieces.filter (fun p => !d.keep.contains p)
    cache := if pin then pinPieces (num, serial) pieces cache else cache }

/-- A die that keeps a piece has it neither in its cache nor on its way. -/
def pieceMissing (s : State) (p : PieceId) : Bool :=
  (List.range 8).any (fun d => (s.die d).keep.contains p && !(s.die d).cache.any (fun e => e.piece == p) &&
    !s.key.flight.contains (d, p)) && !s.key.sendList.any (fun i => i.piece == p)

/-- The order of sending: class, priority, dispatch, first need, PIECE_ID (R231, R248). -/
def sendBefore (a b : SendItem) : Bool :=
  let key (x : SendItem) : List Nat := [x.cls, 256 - x.prio, x.order, x.need, pieceOrder x.piece]
  decide (key a < key b)

/-- An item of another command that one needs too takes the place of the more urgent (R248). -/
def raiseItem (cls prio order need : Nat) (p : PieceId) (i : SendItem) : SendItem :=
  let j := { i with cls := cls, prio := prio, order := order, need := need }
  if i.piece = p ∧ sendBefore j i then j else i

/-- The keys of a command set out: keep masks, the pieces the roots have still to send under their class, none that was sent for it
before (R164, R166, R231, R246, R248), the caddies streamed (R159). -/
def startKeys (s : State) (num serial cls prio order : Nat) (pin : Bool) (sent : List PieceId) (r : OpRun) (ts : List Tile) : State :=
  let reads := tileReads s r ts
  let s := (List.range 8).foldl (fun s d =>
    let own := (reads.filter (fun x => x.1.claim.die == d && !x.2.isEmpty)).map (fun x => (x.1.claim.claimIndex, x.2))
    if own.isEmpty then s else s.updDie d (keepPieces num serial pin own)) s
  let items : List SendItem := ((piecesInOrder reads).filter (fun x => pieceMissing s x.2 && !sent.contains x.2)).map (fun x =>
    { piece := x.2, cls := cls, prio := prio, order := order, need := x.1, queue := num, serial := serial })
  let named := (reads.flatMap (fun x => x.2.map (·.caddy))).eraseDups
  let urged (l : List SendItem) : List SendItem :=
    (piecesInOrder reads).foldl (fun l x => l.map (raiseItem cls prio order x.1 x.2)) l
  let s := s.updKey (fun k => { k with sendList := urged k.sendList ++ items })
  if named.isEmpty then s
  else s.updTab (fun t => { t with
    streamClock := t.streamClock + 1
    caddies := updWhere (fun c => named.contains c.index) (fun c => { c with streamed := t.streamClock + 1 }) t.caddies })

/-- Pieces a placed or held task of a command waits for go first (R248). -/
def urge (s : State) (prio order need : Nat) (ps : List PieceId) : State :=
  if ps.isEmpty then s
  else s.updKey (fun k => { k with sendList := ps.foldl (fun l p => l.map (raiseItem 1 prio order need p)) k.sendList })

/-- A command marks its keys as reused: a preset's key list, a blind-rotation key (R168, R257, R269). -/
def pinsKeys (r : OpRun) : Bool := r.body.reuse || r.entry.opcode == opBootstrap || r.entry.opcode == opLut

/-- The pieces a command reads, each once. -/
def commandPieces (s : State) (r : OpRun) (ts : List Tile) : List PieceId := (piecesInOrder (tileReads s r ts)).map (·.2)

/-! Dispatch of a RUN. -/

/-- Dies that hold cores of the group. -/
def groupDies (j : Job) : List Nat := (List.range 8).filter (fun d => j.octets.any (fun o => o / 8 == d))

/-- The counter word of a die and a phase (R232). -/
def counterWord (base phase die : Nat) : Nat := base + 64 * phase + 8 * die

/-- Zero is written once to every counter word the command uses; one with no tile writes nothing (R227, R233). -/
def zeroCounters (s : State) (r : OpRun) (ts : List Tile) : State :=
  if ts.isEmpty then s
  else (List.range r.body.phases.length).foldl (fun s p => (groupDies r.job).foldl (fun s d =>
    deviceWrite s (counterWord r.cmd.entry.counterAddr p d) (zeros 8)) s) s

/-- Counters zeroed, the plan formed, the keys on their way; a boundary command did all this when it was fetched early
(R233, R245, R246). -/
def launch (s : State) (q : Queue) (r : OpRun) : State :=
  if r.cmd.early then
    (r.cmd.tiles.filter (fun t => t.status == 1)).foldl (fun s t =>
      urge s q.priority s.tab.dispatchOrder t.claim.claimIndex (tilePieces s r t)) s
  else
    let ts := planTiles s r
    let s := zeroCounters (wakeBound s r.cmd r) r ts
    let s := updCmd s r.queue (isSerial r.serial) (fun c => { c with
      tiles := ts, keyList := r.keys, boundWords := r.bound.map (BitVec.ofNat 32), bitmap := r.bitmap
      pieces := commandPieces s r ts })
    startKeys s r.queue r.serial 2 q.priority s.tab.dispatchOrder (pinsKeys r) r.cmd.pieces r ts

/-- The tiles of a dispatched command. -/
def tilesOf (s : State) (num serial : Nat) : List Tile := ((findCmd s num serial).map (·.tiles)).getD []

/-- A RUN of the operation dispatches: the checks, then the launch, then its whole effect; a command no phase of which
has a tile has none (R227). One that names no program or entry completes with BINDING under any row (R334). -/
def runOp (num opcode : Nat) (effect : OpRun → State → State) (s : State) : Result :=
  .next (match servedEntry s num with
    | none => s
    | some (q, c, j) =>
      if c.entry.cmd != cmdRun || c.entry.bad.isSome then s
      else
        let serial := j.nextSerial.toNat
        match runTarget s j c.entry with
        | none => abortCmd (beginCmd s q j) num serial stBinding 0
        | some (p, e, b) =>
          if e.opcode != opcode then s
          else
            let s := beginCmd s q j
            let r := opRunOf s q j c p e b serial
            if bindingFails s p r then abortCmd s num serial stBinding 0
            else
              let s := launch s q r
              if (tilesOf s num serial).isEmpty then s else effect r s)

end Sys2Proof.Machine
end

