-- ==== Sys2Proof/Machine/Float.lean ====
section
/-! DEFINITION. IEEE 754 binary32 and binary64 as the device computes them (R134, R278): exact arithmetic on dyadic
numbers, one rounding to nearest with ties to even, one canonical NaN, subnormals kept. -/

namespace Sys2Proof.Machine

open Sys2Proof

/-- A format: mantissa bits and exponent bits. -/
structure FpFormat where
  mbits : Nat
  ebits : Nat
deriving DecidableEq, Repr

def fp32 : FpFormat := { mbits := 23, ebits := 8 }
def fp64 : FpFormat := { mbits := 52, ebits := 11 }

def FpFormat.bias (f : FpFormat) : Nat := 2 ^ (f.ebits - 1) - 1
def FpFormat.emax (f : FpFormat) : Nat := 2 ^ f.ebits - 1
def FpFormat.signBit (f : FpFormat) : Nat := 2 ^ (f.mbits + f.ebits)
/-- The canonical quiet NaN. -/
def FpFormat.nan (f : FpFormat) : Nat := f.emax * 2 ^ f.mbits + 2 ^ (f.mbits - 1)
def FpFormat.inf (f : FpFormat) (neg : Bool) : Nat := (if neg then f.signBit else 0) + f.emax * 2 ^ f.mbits

/-- A word as a number: a NaN, an infinity, or sign and magnitude man × 2^exp. -/
inductive FpVal where
  | nan
  | inf (neg : Bool)
  | fin (neg : Bool) (man : Nat) (exp : Int)
deriving DecidableEq, Repr

def FpFormat.decode (f : FpFormat) (w : Nat) : FpVal :=
  let neg := bit w (f.mbits + f.ebits)
  let e := field w f.mbits f.ebits
  let m := field w 0 f.mbits
  if e = f.emax then (if m = 0 then .inf neg else .nan)
  else .fin neg (if e = 0 then m else m + 2 ^ f.mbits) ((if e = 0 then 1 else (e : Int)) - f.bias - f.mbits)

/-- man / 2^k rounded to nearest, ties to even. -/
def roundShift (man k : Nat) : Nat :=
  let q := man / 2 ^ k
  let r := man % 2 ^ k
  if 2 * r > 2 ^ k || (2 * r = 2 ^ k && q % 2 = 1) then q + 1 else q

/-- The word of man × 2^exp rounded once. -/
def FpFormat.round (f : FpFormat) (neg : Bool) (man : Nat) (exp : Int) : Nat :=
  let sign := if neg then f.signBit else 0
  if man = 0 then sign
  else
    let emin : Int := 1 - (f.bias : Int) - f.mbits
    let e := max (exp + Nat.log2 man - f.mbits) emin
    let m := if e ≤ exp then man * 2 ^ (exp - e).toNat else roundShift man (e - exp).toNat
    let (m, e) := if m = 2 ^ (f.mbits + 1) then (2 ^ f.mbits, e + 1) else (m, e)
    if m < 2 ^ f.mbits then sign + m
    else
      let ef := (e + f.bias + f.mbits).toNat
      if f.emax ≤ ef then f.inf neg else sign + ef * 2 ^ f.mbits + (m - 2 ^ f.mbits)

/-- The signed integer man at a common exponent. -/
def alignTo (neg : Bool) (man : Nat) (exp e : Int) : Int :=
  let v : Int := man * 2 ^ (exp - e).toNat
  if neg then -v else v

/-- The sum of two finite numbers rounded once; an exact zero is +0 unless both are -0. -/
def FpFormat.addFin (f : FpFormat) (n1 : Bool) (m1 : Nat) (e1 : Int) (n2 : Bool) (m2 : Nat) (e2 : Int) : Nat :=
  let e := min e1 e2
  let v := alignTo n1 m1 e1 e + alignTo n2 m2 e2 e
  if v = 0 then (if n1 && n2 then f.signBit else 0) else f.round (decide (v < 0)) v.natAbs e

def FpFormat.addVal (f : FpFormat) : FpVal → FpVal → Nat
  | .nan, _ | _, .nan => f.nan
  | .inf a, .inf b => if a = b then f.inf a else f.nan
  | .inf a, .fin .. => f.inf a
  | .fin .., .inf b => f.inf b
  | .fin n1 m1 e1, .fin n2 m2 e2 => f.addFin n1 m1 e1 n2 m2 e2

def FpFormat.add (f : FpFormat) (a b : Nat) : Nat := f.addVal (f.decode a) (f.decode b)
/-- The sign bit flipped, NaN included. -/
def FpFormat.neg (f : FpFormat) (a : Nat) : Nat :=
  if bit a (f.mbits + f.ebits) then a - f.signBit else a + f.signBit
def FpFormat.sub (f : FpFormat) (a b : Nat) : Nat := f.add a (f.neg b)

/-- The exact product as a value. -/
def mulVal : FpVal → FpVal → FpVal
  | .nan, _ | _, .nan => .nan
  | .inf a, .inf b => .inf (a != b)
  | .inf a, .fin n m _ | .fin n m _, .inf a => if m = 0 then .nan else .inf (a != n)
  | .fin n1 m1 e1, .fin n2 m2 e2 => .fin (n1 != n2) (m1 * m2) (e1 + e2)

def FpFormat.encode (f : FpFormat) : FpVal → Nat
  | .nan => f.nan
  | .inf n => f.inf n
  | .fin n m e => f.round n m e

def FpFormat.mul (f : FpFormat) (a b : Nat) : Nat := f.encode (mulVal (f.decode a) (f.decode b))
/-- a × b + c with one rounding. -/
def FpFormat.fma (f : FpFormat) (a b c : Nat) : Nat := f.addVal (mulVal (f.decode a) (f.decode b)) (f.decode c)

/-- Order of two numbers that are not NaN, -0 and +0 equal: the sign of a - b. -/
def cmpVal : FpVal → FpVal → Int
  | .inf a, .inf b => if a = b then 0 else if a then -1 else 1
  | .inf a, _ => if a then -1 else 1
  | _, .inf b => if b then 1 else -1
  | .fin n1 m1 e1, .fin n2 m2 e2 => (alignTo n1 m1 e1 (min e1 e2) - alignTo n2 m2 e2 (min e1 e2)).sign
  | _, _ => 0

def FpVal.isNan : FpVal → Bool
  | .nan => true
  | _ => false

/-- A quiet comparison: false on a NaN, but NE (R134). -/
def FpFormat.cmp (f : FpFormat) (test : Int → Bool) (onNan : Bool) (a b : Nat) : Bool :=
  if (f.decode a).isNan || (f.decode b).isNan then onNan else test (cmpVal (f.decode a) (f.decode b))

/-- minimumNumber and maximumNumber, -0 below +0. -/
def FpFormat.pick (f : FpFormat) (wantMax : Bool) (a b : Nat) : Nat :=
  if (f.decode a).isNan then (if (f.decode b).isNan then f.nan else b)
  else if (f.decode b).isNan then a
  else
    let c := cmpVal (f.decode a) (f.decode b)
    let aLess := decide (c < 0) || (c == 0 && bit a (f.mbits + f.ebits))
    if aLess != wantMax then a else b

end Sys2Proof.Machine
end

