-- ==== Sys2Proof/Machine/Tensors.lean ====
section
/-! DEFINITION. Header-less tensors and the engines over them: an item of a tensor as words by index (R179, R187), the
adders (R195, R278), VXE chains (R131 to R140), MXA products (R117 to R121), base conversions (R122), NTTs (R94). -/

namespace Sys2Proof.Machine

open Sys2Proof

/-! Index vectors. -/

/-- Index vectors of the extents in flat order, d0 fastest (R180). -/
def indexVectors : List Nat → List (List Nat)
  | [] => [[]]
  | e :: r => (indexVectors r).flatMap (fun v => (List.range e).map (fun i => i :: v))

/-- The flat position of an index vector. -/
def flatAt : List Nat → List Nat → Nat
  | e :: es, i :: is => i + e * flatAt es is
  | _, _ => 0

def inExtents (ext v : List Nat) : Bool := (ext.zip v).all (fun x => decide (x.2 < x.1))

/-- The index along dimension k of a flat position. -/
def alongDim (ext : List Nat) (k p : Nat) : Nat := p / (ext.take k).foldl (· * ·) 1 % ext.getD k 1

/-- The one limb dimension of an instruction: its destination's, else the first that a source names; 6 for none (R136). -/
def instrLimbDim (srcs : List Desc) (dst : Desc) : Nat :=
  (((dst :: srcs).find? (fun d => decide (d.limbDim < 6))).map (·.limbDim)).getD 6

/-- The index along the limb dimension, 0 where there is none (R136). -/
def limbIndex (limbDim : Nat) (ext : List Nat) (p : Nat) : Nat := if limbDim < 6 then alongDim ext limbDim p else 0

/-- The chain slot index of an index vector. -/
def limbOf (limbDim : Nat) (v : List Nat) : Nat := if limbDim < 6 then v.getD limbDim 0 else 0

/-! Items. -/

/-- One item of a tensor as delivered: extents with their pad, words in flat order, whether a block failed its check, the
lowest byte outside the handle. -/
structure Words where
  ext : List Nat
  data : Array Nat
  bad : Bool
  out : Option Int
deriving Repr, Inhabited

/-- An element; one at or above the bound is taken as zero (R187). -/
def wordAt (w : Words) (v : List Nat) : Nat := if inExtents w.ext v then w.data.getD (flatAt w.ext v) 0 else 0

/-- A res32 word in the form an engine takes it: Montgomery words as stored, canonical words converted. An instruction
converts only where its load word says so (R100, R104); `asTensor` reads canonical words by the value they represent
(R32). -/
def deliver (asTensor : Bool) (d : Desc) (q w : Nat) : Nat :=
  if d.etype != tyRes32 || d.form || !(asTensor || ltwConvert d.ltw) then w else toMont q w

/-- An engine's res32 word as its destination holds it: reduced, out of Montgomery form where the buffer is canonical (R24,
R33, R34). -/
def stored (d : Desc) (q w : Nat) : Nat := if d.etype ≠ tyRes32 then w else if d.form then w % q else fromMont q w

/-- A word copied from one tensor to another: in the form of its destination, a residue reduced (R24, R33, R34). A slot that
names no prime leaves the word. -/
def convertWord (src dst : Desc) (q w : Nat) : Nat :=
  if src.etype != tyRes32 || q == 0 then w
  else if src.form == dst.form then w % q
  else if dst.form then toMont q w
  else fromMont q w

/-- A word through the DMA movers. The inbound path takes a residue to Montgomery form when its load word says so, and always
from an object with a header (R101, R104); the store path takes Montgomery words out of that form for a canonical destination
(R33, R99). What is written is reduced (R24). -/
def dmaWord (inbound : Bool) (src dst : Desc) (q w : Nat) : Nat :=
  if src.etype != tyRes32 || q == 0 then w
  else if inbound then (if src.hdr || ltwConvert src.ltw then toMont q w else w % q)
  else if src.form && !dst.form then fromMont q w
  else w % q

/-- The extents a load reads: along d0 whole runs and limbs (R103, R107). -/
def readExtents (d : Desc) (ext : List Nat) : List Nat := ext.set 0 (ceilDiv (ext.getD 0 1) (ltuRun d) * ltuRun d)

/-- The delivered part of what a load reads. -/
def deliveredPart {α : Type} (d : Desc) (ext : List Nat) (xs : List α) : List α :=
  let full := (readExtents d ext).getD 0 1
  if full = ext.getD 0 1 then xs
  else (xs.zipIdx.filter (fun x => decide (x.2 % full < ext.getD 0 1))).map (·.1)

/-- Words spread over index vectors, zero at those that are absent. -/
def spreadWords (absent : List Nat → Bool) : List (List Nat) → List Nat → List Nat
  | [], _ => []
  | v :: vs, ws =>
    if absent v then 0 :: spreadWords absent vs ws
    else match ws with
      | [] => 0 :: spreadWords absent vs []
      | w :: r => w :: spreadWords absent vs r

/-- Item (b0, b1) of a tensor through a view, every run and limb read whole; `prime` gives the prime of an index along the
instruction's limb dimension. -/
def fetchItem (s : State) (v : View) (d : Desc) (limbDim : Nat) (form : Desc → Nat → Nat → Nat) (prime : Nat → Nat) (lvl2 : Nat)
    (ext : List Nat) (b0 b1 : Nat) : Words :=
  let f := v.fetch s d.width (elemOffsets d lvl2 (readExtents d ext) b0 b1)
  let xs := ltuNegated d (ext.getD 0 1) (fun p => prime (limbIndex limbDim ext p)) (deliveredPart d ext f.words)
  { ext := ext, data := (xs.zipIdx.map (fun x => form d (prime (limbIndex limbDim ext x.2)) x.1)).toArray, bad := f.bad, out := f.out }

/-- The addresses an item of a destination is written at: a store takes no transform (R99). -/
def storeDesc (d : Desc) : Desc := { d with ltw := 0 }

/-- The elements of item (b0, b1) with their new words, in flat order. -/
def itemWrites (d : Desc) (lvl2 : Nat) (ext : List Nat) (b0 b1 : Nat) (f : List Nat → Nat) : List (Int × Nat) :=
  (elemOffsets (storeDesc d) lvl2 ext b0 b1).zip ((indexVectors ext).map f)

/-! Adders (R195, R277, R278). -/

def aopRes32 : Nat := 1
def aopInt64 : Nat := 2
def aopFp32 : Nat := 3
def aopFp64 : Nat := 4
def aopMerge : Nat := 5
def aopInt32 : Nat := 6

def aopWidth (aop : Nat) : Nat := if aop = aopInt64 ∨ aop = aopFp64 then 8 else 4

/-- One word added onto the prior one. -/
def aopAdd (aop q d p : Nat) : Nat :=
  if aop = aopRes32 then (d + p) % q
  else if aop = aopInt64 then (d + p) % 2 ^ 64
  else if aop = aopFp32 then fp32.add d p
  else if aop = aopFp64 then fp64.add d p
  else (d + p) % 2 ^ 32

/-- Words of w bytes of a list of bytes. -/
def wordsBy (w : Nat) (b : List Byte) : List Nat := (List.range (b.length / w)).map (fun i => leAt b (w * i) w)

/-- A payload added onto the bytes at its destination. -/
def addPayload (aop q : Nat) (prior payload : List Byte) : List Byte :=
  (List.zipWith (aopAdd aop q) (wordsBy (aopWidth aop) prior) (wordsBy (aopWidth aop) payload)).flatMap (leBytes (aopWidth aop))

/-! VXE stages (R131 to R134). -/

def signOf (ty a b : Nat) : Int := if ty = tyInt32 then (signed 32 a - signed 32 b).sign else ((a : Int) - b).sign

/-- What a comparison asks of the sign of a - b. -/
def cmpTest : VOp → Int → Bool
  | .cmpEq, c => c == 0
  | .cmpNe, c => c != 0
  | .cmpLt, c => decide (c < 0)
  | .cmpLe, c => decide (c ≤ 0)
  | .cmpGt, c => decide (0 < c)
  | _, c => decide (0 ≤ c)

/-- A CMP's mask (R133); residues compare by the values they represent. -/
def vCmp (ty q : Nat) (op : VOp) (a b : Nat) : Nat :=
  let holds := if ty = tyFp32 then fp32.cmp (cmpTest op) (op == .cmpNe) a b
    else if ty = tyRes32 then cmpTest op (signOf ty (a % q) (b % q))
    else cmpTest op (signOf ty a b)
  if holds then 0xFFFFFFFF else 0

def vAdd (ty q a b : Nat) : Nat :=
  if ty = tyRes32 then (a + b) % q else if ty = tyFp32 then fp32.add a b else (a + b) % 2 ^ 32

def vNeg (ty q a : Nat) : Nat :=
  if ty = tyRes32 then (q - a % q) % q else if ty = tyFp32 then fp32.neg a else (2 ^ 32 - a) % 2 ^ 32

def vMul (ty q a b : Nat) : Nat :=
  if ty = tyRes32 then fromMont q (a * b) else if ty = tyFp32 then fp32.mul a b else a * b % 2 ^ 32

def vFma (ty q a b c : Nat) : Nat :=
  if ty = tyRes32 then (fromMont q (a * b) + c) % q else if ty = tyFp32 then fp32.fma a b c else (a * b + c) % 2 ^ 32

/-- MIN and MAX. -/
def vPick (ty : Nat) (wantMax : Bool) (a b : Nat) : Nat :=
  if ty = tyFp32 then fp32.pick wantMax a b
  else if decide (signOf ty a b < 0) != wantMax then a else b

/-- SEL: one of two values, as a value of the chain's type. -/
def vSel (ty q m a b : Nat) : Nat :=
  let x := if m = 0 then b else a
  if ty = tyRes32 then x % q else x

/-- One stage on its operands. A REDUCE passes its element on; the tree combines it. -/
def vStage (ty q : Nat) (op : VOp) (a : List Nat) : Nat :=
  let x := a.getD 0 0
  let y := a.getD 1 0
  let z := a.getD 2 0
  match op with
  | .add => vAdd ty q x y
  | .sub => vAdd ty q x (vNeg ty q y)
  | .neg => vNeg ty q x
  | .mul => vMul ty q x y
  | .fma => vFma ty q x y z
  | .cmpEq | .cmpNe | .cmpLt | .cmpLe | .cmpGt | .cmpGe => vCmp ty q op x y
  | .sel => vSel ty q x y z
  | .min => vPick ty false x y
  | .max => vPick ty true x y
  | .redAdd | .redMin | .redMax => if ty = tyRes32 then x % q else x

/-- The operation of a closing REDUCE. -/
def reduceOp (ty q : Nat) : VOp → Nat → Nat → Nat
  | .redMin => vPick ty false
  | .redMax => vPick ty true
  | _ => vAdd ty q

def argValue (inputs scalars results : List Nat) : VArg → Nat
  | .input i => inputs.getD i 0
  | .scalar i => scalars.getD i 0
  | .stage i => results.getD i 0

/-- The value of a chain's last stage at one element (R137, R138). -/
def chainValue (ty q : Nat) (stages : List VStage) (inputs scalars : List Nat) : Nat :=
  ((stages.foldl (fun res st => res ++ [vStage ty q st.op (st.args.map (argValue inputs scalars res))]) []).getLast?).getD 0

/-- The elements a REDUCE combines into one index of the result: the k innermost dimensions vary (R140). -/
def reducedAt (k : Nat) (ext v : List Nat) : List (List Nat) :=
  (indexVectors (ext.take k)).map (fun u => u ++ v.drop k)

/-- The limb dimension of a chain (R136). -/
def vxeLimbDim (o : VxeOp) : Nat := instrLimbDim o.srcs o.dst

/-- The word a chain gives at an index of its result; `ext` are the extents its operands share. Each element runs under the prime of its
own index along the limb dimension, those that a REDUCE combines too (R136). -/
def vxeValue (o : VxeOp) (ty : Nat) (prime : Nat → Nat) (scalars : Nat → List Nat) (ext : List Nat) (srcs : List Words)
    (v : List Nat) : Nat :=
  let slot (u : List Nat) : Nat := prime (limbOf (vxeLimbDim o) u)
  let at_ (u : List Nat) : Nat := chainValue ty (slot u) o.stages (srcs.map (fun w => wordAt w u)) (scalars (slot u))
  match o.stages.getLast? with
  | some st => if isReduce st.op then (treeSum (reduceOp ty (slot v) st.op) ((reducedAt o.reduce ext v).map at_)).getD 0 else at_ v
  | none => 0

/-- The extents a result's indices run over: 1 along each reduced dimension, else up to its pad (R140, R187). -/
def resultExtents (d : Desc) (rows : List Nat) (reduced : Nat) (ext : List Nat) : List Nat :=
  (padded d rows reduced ext).zipIdx.map (fun e => if e.2 < reduced then min e.1 1 else e.1)

/-- The writes of one item of a chain. The result has the form of its descriptor, a mask as it is. -/
def vxeItem (o : VxeOp) (prime : Nat → Nat) (scalars : Nat → List Nat) (lvl2 : Nat) (ext : List Nat) (srcs : List Words)
    (b0 b1 : Nat) : List (Int × Nat) :=
  let de := resultExtents o.dst [] o.reduce ext
  let ty := chainType o
  itemWrites o.dst lvl2 de b0 b1 (fun v =>
    let q := prime (limbOf (vxeLimbDim o) v)
    stored o.dst q (vxeValue o ty prime scalars ext srcs v))

/-! MXA (R117 to R121). -/

/-- An integer operand's value: one word or two, the signed type by its top bit (R119, R120). -/
def intValue (d : Desc) (w : Nat) : Int := if d.etype = tyInt32 then signed (8 * d.width) w else w

/-- C0 + Σ of products of an element: for res32 on Montgomery words under its column's prime, else modulo 2^96. -/
def mxaValue (o : MxaOp) (q : Nat) (prior : Nat) (pairs : List (Nat × Nat)) : Nat :=
  if o.a.etype = tyRes32 then
    (prior + fromMont q (pairs.foldl (fun acc p => acc + p.1 * p.2) 0)) % q
  else
    let bits := 32 * drainWords o.drain
    let c0 : Int := if o.dst.etype = tyInt32 then signed bits prior else prior
    let sum := pairs.foldl (fun acc p => acc + intValue o.a p.1 * intValue o.b p.2) c0
    (sum % (2 : Int) ^ bits).toNat

/-- The pairs of words element (r, c) sums. INNER pairs A and B element by element along d2. -/
def mxaPairs (inner : Bool) (a b : Words) (n r c : Nat) : List (Nat × Nat) :=
  (List.range n).map (fun i =>
    if inner then (wordAt a [c, r, i, 0, 0, 0], wordAt b [c, r, i, 0, 0, 0])
    else (wordAt a [i, r, 0, 0, 0, 0], wordAt b [c, i, 0, 0, 0, 0]))

/-- Rows and columns of a result with their pad (R117, R186). -/
def mxaBounds (d : Desc) (rows cols : Nat) : Nat × Nat :=
  (paddedExtent rows (d.granule 1 true), paddedExtent cols (d.granule 0 false))

/-- Extents of an MXA operand: columns, rows with their pad, the summed index exactly. -/
def mxaExtents (inner second : Bool) (d : Desc) (rows n cols : Nat) : List Nat :=
  if inner then [paddedExtent cols (d.granule 0 false), paddedExtent rows (d.granule 1 true), n, 1, 1, 1]
  else if second then [paddedExtent cols (d.granule 0 false), n, 1, 1, 1, 1]
  else [n, paddedExtent rows (d.granule 1 true), 1, 1, 1, 1]

/-! Base conversion on stored words (R122). -/

/-- The converted limbs as Montgomery words by index: d0 the coefficient, d1 the limb. -/
def bconvWords (exact : Bool) (src dst : List Nat) (w : Words) (n : Nat) : List Limb :=
  let limbs := src.zipIdx.map (fun q => (List.range n).map (fun i => fromMont q.1 (wordAt w [i, q.2, 0, 0, 0, 0])))
  (dst.zip (bconv exact n src dst limbs)).map (fun x => x.2.map (toMont x.1))

end Sys2Proof.Machine
end

