-- ==== Sys2Proof/Machine/Objects.lean ====
section
/-! DEFINITION. Objects with headers as the operands and results of an operation: reading and validating a header (R43,
R44, R184), its payload (R50, R108, R178), writing a result (R42, R49, R54, R185, R201), bounds reports (R71, R518). -/

namespace Sys2Proof.Machine

open Sys2Proof

/-! Bounds reports (R71, R177, R178, R518). -/

/-- The rules that share one count per pair of a descriptor and a batch item. -/
def ruleAccess : Nat := 0
def ruleDiffer : Nat := 1
def ruleAlloc : Nat := 2

/-- One increment of the job's bounds counter, and its BOUNDS event while fewer than 64 of the command have posted. -/
def countBound (s : State) (num serial job core : Nat) (event : Option Nat) : State :=
  let s := updJob s job (fun j => { j with bounds := satInc j.bounds })
  match event, findCmd s num serial with
  | some arg, some c =>
    if c.boundsEvents < 64 then
      postBoth (updCmd s num (isSerial serial) (fun c => { c with boundsEvents := c.boundsEvents + 1 }))
        { code := 0x0008, job := job, queue := num, arg0 := core, arg1 := arg }
    else s
  | _, _ => s

/-- A public unit counts once per command (R518). -/
def countUnit (s : State) (num serial job core : Nat) (unit : Nat × Nat × Nat) (event : Option Nat) : State :=
  match findCmd s num serial with
  | none => s
  | some c =>
    if c.units.contains unit then s
    else countBound (updCmd s num (isSerial serial) (fun c => { c with units := c.units ++ [unit] })) num serial job core event

/-- The core a report of the whole operation names: which one reported first is open (R518, log 2). -/
def reportingCore (s : State) (r : OpRun) : Nat × State :=
  let (w, s) := takeFree s
  (r.cores.getD (w.toNat % r.cores.length) 0, s)

def OpRun.report (r : OpRun) (s : State) (k item rule : Nat) (event : Option Nat) : State :=
  let (core, s) := reportingCore s r
  countUnit s r.queue r.serial r.job.id core (k, item, rule) event

/-- A report of one core, for an instruction of its task (R71, R518). -/
def OpRun.reportBy (r : OpRun) (core : Nat) (s : State) (k item rule : Nat) (event : Option Nat) : State :=
  countUnit s r.queue r.serial r.job.id core (k, item, rule) event

/-- ARG1 of an extent held to ALLOC (R518). -/
def allocArg (r : OpRun) (k dim : Nat) : Nat := (r.entry.descFirst + k) % 2 ^ 16 + 2 ^ 16 * dim

/-- The report of an access beyond a handle. -/
def OpRun.reportOut (r : OpRun) (s : State) (v : View) (k item : Nat) (out : Option Int) : State :=
  match out with
  | some o => r.report s k item ruleAccess (some (v.addr o))
  | none => s

/-! Reading. -/

/-- Bytes of a payload of a level (R45, R260). -/
def payloadBytes (d : Desc) (level : Nat) : Nat := tmplComps d * limbsAt d level * tmplN d * 4

/-- The entry of a payload block in the check table behind the payload (R201, R297). -/
def tableCheck (s : State) (v : View) (start len blk : Nat) : Nat :=
  let off : Int := (start : Int) + len + 4 * ((blk * blockBytes - (v.base + start)) / blockBytes : Nat)
  (v.fetchBy s (fun _ => true) 4 [off]).words.getD 0 0

/-- A payload block passes its check under the object's BCMODE (R40, R297). -/
def blockOk (s : State) (v : View) (bcmode start len blk : Nat) : Bool :=
  if v.place < 3 then (v.block s blk).2
  else
    let tag := s.far.tag blk
    let data := s.far.bytes blk
    if bcmode = 2 then tag.st != .never && tag.st != .stale && data.isSome
    else if tag.st = .opened then
      match data with
      | some b => (crc32c b).toNat == tableCheck s v start len blk
      | none => false
    else (v.block s blk).2

/-- The limbs of an object's payload that an operation reads: at most `want`, held to ALLOC; the two of an LWE batch always (R50,
R178). -/
def payloadLimbs (d : Desc) (level want : Nat) : Nat :=
  min (if d.tKind = 4 then limbsAt d level else min (limbsAt d level) want) (if d.tKind = 4 then 2 else (d.dim 1).alloc)

/-- The offsets that a load of so many limbs of a payload reads, its runs and limbs whole (R103, R107, R179). -/
def payloadOffs (d : Desc) (level limbs b0 b1 : Nat) : List Int :=
  elemOffsets d (2 * level) (readExtents d (objectExtents d limbs)) b0 b1

/-- The payload of an object: at most `want` limbs, held to ALLOC, at the addresses of its level (R50, R178, R179). `held`: the
extent read at issue, that of the object's level, exceeds ALLOC. -/
def readPayload (s : State) (r : OpRun) (k b0 b1 want : Nat) (o : Obj) : Obj :=
  if o.malformed then o
  else
    let d := r.desc k
    let v := r.view k
    let limbs := payloadLimbs d o.hdr.level want
    let ext := objectExtents d limbs
    let start := ((d.dataOffset : Int) + itemOffset d b0 b1).toNat
    let f := v.fetchBy s (blockOk s v o.hdr.bcmode start (payloadBytes d o.hdr.level)) 4 (payloadOffs d o.hdr.level limbs b0 b1)
    let qs := ((findChain s o.hdr.chain).map (·.primes)).getD []
    let xs := ltuNegated d (ext.getD 0 1) (fun p => qs.getD (limbAt d limbs p) 2) (deliveredPart d ext f.words)
    { o with poly := unflatten d limbs xs, limbs := limbs
             held := d.tKind != 4 && decide ((d.dim 1).alloc < limbsAt d o.hdr.level)
             causes := o.causes ++ (if f.bad then [cFault] else [])
             out := lowest (o.out.toList ++ f.out.toList) }

/-! Repairs under the reads of an operation: what it reads and nothing else (R387, R388). -/

/-- The blocks of a payload before they are read; a malformed object's are not (R44). -/
def repairPayload (r : OpRun) (s : State) (k b0 b1 want : Nat) (o : Obj) : State :=
  if o.malformed then s
  else (r.view k).repair s r.job.id 4 (payloadOffs (r.desc k) o.hdr.level (payloadLimbs (r.desc k) o.hdr.level want) b0 b1)

/-- The headers of an operand's items before they are read. -/
def repairHeaders (r : OpRun) (s : State) (k : Nat) : State :=
  let d := r.desc k
  let n := r.batchCounts k
  if !d.hdr then s
  else (r.view k).repair s r.job.id 64 ((List.range (n.1 * n.2)).map (fun i =>
    (d.hdrOffset : Int) + itemOffset d (itemAt n.1 i).1 (itemAt n.1 i).2))

/-- The reports a read of an item leaves: beyond the handle, beyond ALLOC. -/
def OpRun.reportRead (r : OpRun) (s : State) (k item : Nat) (o : Obj) : State :=
  let s := r.reportOut s (r.view k) k item o.out
  if o.held then r.report s k item ruleAlloc (some (allocArg r k 1)) else s

/-- The item's flat index (R224). -/
def OpRun.itemIndex (r : OpRun) (k b0 b1 : Nat) : Nat := b1 * (r.batchCounts k).1 + b0

/-! Writing. -/

/-- The level a result's payload is addressed at, and its limbs: those of the result; the template's where only one of
the two is an LWE batch (R179, R184, R185). -/
def destLevel (d : Desc) (h : Hdr) : Nat := if (h.kind == 4) != (d.tKind == 4) then d.tLevel else h.level

/-- Limbs written: those of the level, held to ALLOC, and to the fewest a source was held to (R177, R178). -/
def destLimbs (d : Desc) (h : Hdr) (fewest : Nat) : Nat :=
  min (min (limbsAt d (destLevel d h)) (if d.tKind = 4 then 2 else (d.dim 1).alloc)) fewest

/-- The payload words of a result in flat order, each reduced modulo its limb's prime (R24, R34). -/
def resultWords (qs : List Nat) (d : Desc) (limbs : Nat) (p : Poly) : List Nat :=
  (flatten d limbs p).zipIdx.map (fun x => x.1 % qs.getD (limbAt d limbs x.2) 1)

/-- The check table of an exported payload: 4 bytes per block, padded to 64 (R201, R271). -/
def checkTable (bytes : List Byte) : List Byte :=
  let t := (chunks blockBytes (ceilDiv bytes.length blockBytes) bytes).flatMap (fun b => leBytes 4 (crc32c b).toNat)
  padTo (ceilDiv t.length 64 * 64) t

/-- The bytes of a payload as they stand behind a view (R200). -/
def payloadStored (s : State) (v : View) (start : Int) (len : Nat) : List Byte :=
  (v.fetchBy s (fun _ => true) 4 ((List.range (len / 4)).map (fun i : Nat => start + 4 * (i : Int)))).words.flatMap (leBytes 4)

/-- The command has begun to write a destination whose header lies at an address; an abort writes the header from its result's
(R53). -/
def beginDest (s : State) (r : OpRun) (a : Nat) (h : Hdr) : State :=
  updCmd s r.queue (isSerial r.serial) (fun c => { c with
    begun := true, dests := c.dests.filter (fun d => d.1 != a) ++ [(a, hdrBytes { h with layout := (r.desc 0).tLayout })] })

/-- A range of bytes written joined to the ranges of each block it touches. -/
def addWritten (t : Tab (List (Nat × Nat))) (x : Nat × Nat) : Tab (List (Nat × Nat)) :=
  (blocksOf x.1 x.2).foldl (fun t b =>
    let lo := max x.1 (b * blockBytes) - b * blockBytes
    let hi := min (x.1 + x.2) ((b + 1) * blockBytes) - b * blockBytes
    tabSet t b (joinRange lo hi ((tabGet? t b).getD []))) t

/-- The far ranges a command leaves written, by block (R53, R372). -/
def noteBlocks (s : State) (r : OpRun) (runs : List (Nat × Nat)) : State :=
  updCmd s r.queue (isSerial r.serial) (fun c => { c with
    blocks := (runs.filter (fun x => decide (x.1 + x.2 ≤ farBytes))).foldl addWritten c.blocks })

/-- A plan with folds: its payload reaches the destination at the commit of its accumulator buffers, and not before (R82). -/
def OpRun.folds (r : OpRun) : Bool := r.body.phases.any (·.folds)

/-- Elements of the destination written by the operation, through its view. -/
def OpRun.putDest (s : State) (r : OpRun) (w : Nat) (items : List (Int × Nat)) : State × Option Int :=
  if r.folds then (s, lowest (items.filterMap (fun x => (r.view 0).outside w x.1))) else (r.view 0).put s w items

/-- The word list written: raw for a copy unchanged. -/
def payloadWords (s : State) (d : Desc) (raw : Bool) (h : Hdr) (limbs : Nat) (p : Poly) : List Nat :=
  if raw then flatten d limbs p else resultWords (((findChain s h.chain).map (·.primes)).getD []) d limbs p

/-- Write the payload of a destination item at a level's addresses (R179). -/
def putPayload (s : State) (r : OpRun) (b0 b1 level limbs : Nat) (words : List Nat) : State × Option Int :=
  let d := r.desc 0
  OpRun.putDest s r 4 ((elemOffsets (storeDesc d) (2 * level) (objectExtents d limbs) b0 b1).zip words)

/-- The offset of the header of a destination item. -/
def OpRun.hdrAt (r : OpRun) (b0 b1 : Nat) : Int := ((r.desc 0).hdrOffset : Int) + itemOffset (r.desc 0) b0 b1

/-- A computed KIND or LOG2N that differs from the destination's template (R185). -/
def clashCause (d : Desc) (h : Hdr) : List Nat := if h.kind != d.tKind || h.log2n != d.tLog2n then [cShape] else []

/-- The header a result gets: computed fields, the destination's LAYOUT, its state from its operands and causes (R49,
R185). -/
def resultHdr (d : Desc) (h : Hdr) (states : List HState) (causes : List Nat) : Hdr :=
  let sc := joinState states (causes ++ clashCause d h)
  { h with layout := d.tLayout, state := sc.1, cause := sc.2, bcmode := 1 }

/-- The header of a result waits for the completion of its command (R42, R251). -/
def holdHdr (s : State) (r : OpRun) (b0 b1 : Nat) (h : Hdr) (states : List HState) (causes : List Nat) : State :=
  let x : HeldHdr := { b0 := b0, b1 := b1, item := r.itemIndex 0 b0 b1, hdr := hdrBytes { h with layout := (r.desc 0).tLayout }
                       states := states, causes := causes ++ clashCause (r.desc 0) h }
  updCmd s r.queue (isSerial r.serial) (fun c => { c with hdrs := c.hdrs.filter (fun y => !(y.b0 == b0 && y.b1 == b1)) ++ [x] })

/-- A held header as it is written: its state from the operands' states and every cause originated until then (R49). -/
def HeldHdr.final (x : HeldHdr) : Hdr :=
  let sc := x.free.getD (joinState x.states x.causes)
  { hdrOf x.hdr with state := sc.1, cause := sc.2 }

/-- A held header is written, in one piece, and its originated cause counts (R42, R54). -/
def writeHeld (r : OpRun) (s : State) (x : HeldHdr) : State :=
  let v := r.view 0
  let off := r.hdrAt x.b0 x.b1
  let s := (v.put s 64 [(off, leNat (hdrBytes x.final))]).1
  let s := if v.inside off 64 then noteBlocks s r [(v.addr off, 64)] else s
  countOriginated s r.job.id x.final.cause

/-- The headers of a command's results (R251). -/
def writeHeaders (r : OpRun) (s : State) : State :=
  (((findCmd s r.queue r.serial).map (·.hdrs)).getD []).foldl (writeHeld r) s

/-- A fault met by a tile's instruction marks the results of the items the tile covers (R49, R108). -/
def markHeld (s : State) (num serial : Nat) (covers : Nat → Bool) (cause : Nat) : State :=
  updCmd s num (isSerial serial) (fun c => { c with
    hdrs := updWhere (fun x => covers x.item && !x.causes.contains cause) (fun x => { x with causes := x.causes ++ [cause] }) c.hdrs })

/-- Write one result object: its payload and the check table of an EXPORT, over every block of the payload as it then stands; its
header is held (R42, R49, R201). -/
def writeResult (s : State) (r : OpRun) (b0 b1 : Nat) (h : Hdr) (raw : Bool) (p : Poly) (fewest : Nat)
    (states : List HState) (causes : List Nat) : State :=
  let d := r.desc 0
  let v := r.view 0
  let item := r.itemIndex 0 b0 b1
  let limbs := destLimbs d h fewest
  let level := destLevel d h
  let words := payloadWords s d raw h limbs p
  let s := if r.folds then s else beginDest s r (v.addr (r.hdrAt b0 b1)) h
  let (s, o1) := putPayload s r b0 b1 level limbs words
  let start : Int := (d.dataOffset : Int) + itemOffset d b0 b1
  let table := if r.entry.opcode = opExport then wordsOf (checkTable (payloadStored s v start (payloadBytes d level))) else []
  let after : Int := start + payloadBytes d level
  let (s, o2) := OpRun.putDest s r 4 (table.zipIdx.map (fun w => (after + 4 * (w.2 : Int), w.1)))
  let s := if r.folds then s else noteBlocks s r [(v.addr start, payloadBytes d level + 4 * table.length)]
  let s := holdHdr s r b0 b1 h states causes
  let s := r.reportOut s v 0 item (lowest (o1.toList ++ o2.toList ++ (v.outside 64 (r.hdrAt b0 b1)).toList))
  if d.tKind != 4 && decide ((d.dim 1).alloc < limbsAt d level) then r.report s 0 item ruleAlloc (some (allocArg r 0 1)) else s

/-! Batches. -/

/-- Counts that an instruction's operands share: each the smallest (R177, R180). -/
def sharedCounts (cs : List (Nat × Nat)) : Nat × Nat :=
  ((minList (cs.map (·.1))).getD 0, (minList (cs.map (·.2))).getD 0)

/-- A batch count that exceeds the shared one is met once for its descriptor (R177, R518). -/
def OpRun.reportCounts (r : OpRun) (s : State) (cs : List (Nat × (Nat × Nat))) : State :=
  let m := sharedCounts (cs.map (·.2))
  cs.foldl (fun s c => if c.2 = m then s else r.report s c.1 0 ruleDiffer none) s

/-- Every batch item in order: b1 outermost (R180). -/
def batchItems (n0 n1 : Nat) : List (Nat × Nat) := (List.range n1).flatMap (fun b1 => (List.range n0).map (fun b0 => (b0, b1)))

/-- Each item of a descriptor meets a rule once (R518). -/
def reportItems (r : OpRun) (k rule : Nat) (event : Option Nat) (s : State) : State :=
  let n := r.batchCounts k
  (List.range (n.1 * n.2)).foldl (fun s i => r.report s k i rule event) s

/-- Every item of the operands' shared batch. -/
def forItems (r : OpRun) (ks : List Nat) (f : State → Nat → Nat → State) (s : State) : State :=
  let cs := ks.map (fun k => (k, r.batchCounts k))
  let m := sharedCounts (cs.map (·.2))
  (batchItems m.1 m.2).foldl (fun s b => f s b.1 b.2) (r.reportCounts s cs)

/-- The lead operand of an operation: R209 by the templates. -/
def OpRun.lead (r : OpRun) (os : List Obj) : Hdr :=
  ((os[leadSource ((r.sources).map (fun k => templateOf (r.desc k) 0))]?).map (·.hdr)).getD default

/-- Tag mismatch among operands whose own headers count (R47). -/
def tagCause (os : List Obj) : List Nat := if tagsClash ((os.filter (fun o => !o.malformed)).map (·.hdr)) then [cTag] else []

/-- The primes of a result's limbs: those of the slots its chain has. -/
def resultPrimes (s : State) (h : Hdr) (limbs : Nat) : List Nat := (((findChain s h.chain).map (·.primes)).getD []).take limbs

/-- A template's chain is loaded and serves its LOG2N and LEVEL. -/
def templateServed (s : State) (t : Hdr) : Bool :=
  match findChain s t.chain with
  | some c => decide (t.log2n ≤ c.log2nMax) && (t.kind == 4 || decide (t.level ≤ c.pairs.length))
  | none => false

/-- A malformed operand leaves the operation without primes, whatever chain the others name (R44, DEDUCED, log 107). -/
def noPrimes (s : State) (r : OpRun) (os : List (Nat × Obj)) : Bool :=
  os.any (fun o => o.2.malformed && !templateServed s (r.template s o.1))

/-- The result of an operation without primes: zeros, and the destination's template in POISON with cause MALFORMED. -/
def zeroResult (s : State) (r : OpRun) (b0 b1 : Nat) : State :=
  writeResult s r b0 b1 (r.template s 0) true [] (2 ^ 32) [] [cMalformed]

/-- An operation of one result per item: the sources' headers, the effect, the payloads at the limbs the operation needs,
the result. EXPORT originates no tag mismatch (R255, R271). `want` gives the limbs read of every source from the effect's header; `compute` the payload from the
primes, the sources and the header. -/
def objectItem (r : OpRun) (want : List Obj → Effect → Nat) (raw : List Obj → Bool)
    (compute : List Nat → Nat → List Obj → Poly) (s : State) (b0 b1 : Nat) : State :=
  let d := r.desc 0
  let os := r.sources.map (fun k => readHdr s r k b0 b1)
  if noPrimes s r (r.sources.zip os) then zeroResult s r b0 b1 else
  let e := effectOf s.tab.chains r.entry.opcode r.entry.arg r.entry.wScale (r.lead os) (os.map (·.hdr))
  let s := (r.sources.zip os).foldl (fun s x => repairPayload r s x.1 b0 b1 (want os e) x.2) s
  let os := (r.sources.zip os).map (fun x => readPayload s r x.1 b0 b1 (want os e) x.2)
  let s := (r.sources.zip os).foldl (fun s x => r.reportRead s x.1 (r.itemIndex x.1 b0 b1) x.2) s
  let fewest := (minList ((os.filter (·.held)).map (·.limbs))).getD (2 ^ 32)
  let limbs := destLimbs d e.hdr (2 ^ 32)
  let p := compute (resultPrimes s e.hdr limbs) (tmplN d) os
  let tags := if r.entry.opcode = opExport then [] else tagCause os
  writeResult s r b0 b1 e.hdr (raw os) p fewest (os.map (·.state)) (tags ++ e.causes ++ os.flatMap (·.causes))

/-! Overlaps of a destination with a source (R97, R107, R139, R197, the cases 3, 4 and 9 of R219). -/

/-- The extents of a header-less descriptor at issue, held to ALLOC (R178, R179, R211). -/
def OpRun.extents (r : OpRun) (d : Desc) : List Nat := (extentsOf d r.sregs r.bound r.lvl2).1

/-- The runs of so many limbs of an object's payload, by component, limb and block of 1,024 coefficients whatever its layout (R45,
R260). -/
def objectRuns (v : View) (d : Desc) (level limbs b0 b1 : Nat) : List (Nat × Nat) :=
  let offs := (elemOffsets (storeDesc d) (2 * level) (objectExtents d limbs) b0 b1).toArray
  let nb := tmplN d / 1024
  let run (k : Nat) : Nat × Nat := (v.addr (offs.getD (1024 * k) 0), blockBytes)
  if isTiled d then
    (List.range (tmplComps d)).flatMap (fun j => (List.range limbs).flatMap (fun i => (List.range nb).map (fun b =>
      run ((j * nb + b) * limbs + i))))
  else (List.range (offs.size / 1024)).map run

/-- The limbs an operation reads of a source item, at most (R50, R258, R263, R270). -/
def limbsRead (s : State) (r : OpRun) (b0 b1 : Nat) : Nat :=
  let op := r.entry.opcode
  if op = opBootstrap then 6
  else if isNonlinear op then 2
  else if op = opAdd ∨ op = opSub ∨ op = opMulPt ∨ op = opMulCt then
    2 * (minList (r.sources.map (fun k => (readHdr s r k b0 b1).hdr.level))).getD 0
  else 2 ^ 32

/-- The bytes of one item of an operand: address and length of each run, at most so many limbs of an object, at the level of its
header; none of a malformed one (R44). A header-less item is its elements in the order of its indices (R107). -/
def itemRuns (s : State) (r : OpRun) (k b0 b1 want : Nat) : List (Nat × Nat) :=
  let d := r.desc k
  let v := r.view k
  if d.hdr then
    let o := readHdr s r k b0 b1
    if o.malformed then [] else objectRuns v d o.hdr.level (payloadLimbs d o.hdr.level want) b0 b1
  else (elemOffsets (indexDesc d) r.lvl2 (padded d r.body.rowDims 0 (r.extents d)) b0 b1).map (fun o => (v.addr o, d.width))

/-- The runs of every item of an operand that the operation reads. -/
def operandRuns (s : State) (r : OpRun) (k want : Nat) : List (List (Nat × Nat)) :=
  let n := r.batchCounts k
  (batchItems n.1 n.2).map (fun b => itemRuns s r k b.1 b.2 (min want (limbsRead s r b.1 b.2)))

def runsMeet (a b : List (Nat × Nat)) : Bool := a.any (fun x => b.any (rangesMeet x))

/-- Operations whose destination may not even coincide with a source (R139, R197, R256). -/
def strictOverlap (r : OpRun) : Bool :=
  let op := r.entry.opcode
  isGatherOp op || op == opMatmul || isNonlinear op || op == opExport || (op == opMap && reducedDims r.body != 0)

/-- The items of the destination that an operation has written, each with its limbs and its runs: an object's at the level of its
held header. -/
def destRuns (s : State) (r : OpRun) : List (Nat × List (Nat × Nat)) :=
  let d := r.desc 0
  let n := r.batchCounts 0
  if d.hdr then
    (((findCmd s r.queue r.serial).map (·.hdrs)).getD []).map (fun x =>
      let level := destLevel d (hdrOf x.hdr)
      let limbs := destLimbs d (hdrOf x.hdr) (2 ^ 32)
      (limbs, objectRuns (r.view 0) d level limbs x.b0 x.b1))
  else (batchItems n.1 n.2).map (fun b => (2 ^ 32,
    (elemOffsets (storeDesc d) r.lvl2 (padded d r.body.rowDims 0 (r.extents d)) b.1 b.2).map (fun o => ((r.view 0).addr o, d.width))))

/-- Two items of the destination meet: objects that lie over each other at the levels of their results (R219 case 6). -/
def itemsMeet (s : State) (r : OpRun) : Bool :=
  let items := (destRuns s r).map (·.2)
  items.zipIdx.any (fun a => items.zipIdx.any (fun b => decide (a.2 < b.2) && runsMeet a.1 b.1))

/-- Distinct indices of a header-less destination reach one address through strides that are not zero, some extent or count
being read at run time (R181, R219 case 6); of objects, whose limbs are, two items meet. -/
def reachesTwice (s : State) (r : OpRun) : Bool :=
  let d := r.desc 0
  let n := r.batchCounts 0
  let fixed (c : CountSrc) : Bool := match c with
    | .fixed _ => true
    | _ => false
  let dims := ((List.range 6).filter (fun k => decide (reducedDims r.body ≤ k))).map (fun k =>
    ((r.extents d).getD k 1, (dimStride d r.lvl2 k).natAbs))
  let terms := dims ++ [(n.1, d.bstride0.natAbs), (n.2, d.bstride1.natAbs)]
  let live := (terms.filter (fun t => decide (1 < t.1) && decide (0 < t.2))).map (fun t => (t.1 - 1, t.2))
  if d.hdr then itemsMeet s r
  else !(d.dims.all (fun x => x.src == srcFixed) && fixed (r.batch 0).1 && fixed (r.batch 0).2) &&
    terms.all (fun t => decide (0 < t.1)) && aliasSearch d.width (sortBy (fun t => 2 ^ 64 - t.2) live) 0 false

/-- The runs of the pad of a header-less destination. -/
def padRuns (r : OpRun) : List (Nat × Nat) :=
  let d := r.desc 0
  let n := r.batchCounts 0
  let at_ (ext : List Nat) : List (Nat × Nat) := (batchItems n.1 n.2).flatMap (fun b =>
    (elemOffsets (storeDesc d) r.lvl2 ext b.1 b.2).map (fun o => ((r.view 0).addr o, d.width)))
  let ext := r.extents d
  let all := padded d r.body.rowDims (reducedDims r.body) ext
  if d.hdr || all == ext then [] else (at_ all).filter (fun x => !(at_ ext).contains x)

/-- The items of a tensor of the program under an entry's bindings: an operand of this command at its counts and extents, any other
as far as they are fixed. -/
def tensorRuns (r : OpRun) (b : BodyEntry) (k : Nat) (d : Desc) : List (Nat × Nat) :=
  let own := b == r.body && d == r.desc k
  let batch := b.batch.getD k (.fixed 1, .fixed 1)
  let n := if own then r.batchCounts k else ((fixedCount batch.1).getD 1, (fixedCount batch.2).getD 1)
  let ext := if own then r.extents d else d.dims.map (fun x => if x.src = srcFixed then x.extent else 1)
  match bindOf b.binds d.handle with
  | none => []
  | some x =>
    let v := viewOfBind r.core r.bound x
    (batchItems n.1 n.2).flatMap (fun i =>
      if d.hdr then [(v.addr ((d.dataOffset : Int) + itemOffset d i.1 i.2), payloadBytes d d.tLevel)]
      else (elemOffsets (storeDesc d) r.lvl2 ext i.1 i.2).map (fun o => (v.addr o, d.width)))

/-- The pad of the destination reaches a tensor of the program (R188, R219 case 7). -/
def padReaches (s : State) (r : OpRun) : Bool :=
  let pads := padRuns r
  let prog := (r.job.progs[r.cmd.entry.progSlot]?).bind (fun i => s.tab.programs.find? (fun p => p.index == i))
  let tensors (p : Program) : List (Nat × Nat) := p.entries.flatMap (fun e =>
    let b := (codeAt p.body e.bodyEntry).getD default
    (List.range (e.numDst + e.numSrc)).flatMap (fun k =>
      let d := p.descs.getD (e.descFirst + k) default
      if d == r.desc 0 then [] else tensorRuns r b k d))
  !pads.isEmpty && runsMeet pads ((prog.map tensors).getD [])

/-- The destination is left undefined: it overlaps a source in a way that is not allowed, reaches an address twice, or its pad
reaches a tensor; `before` is the state the operation began in (R219 cases 1, 3, 4, 6, 7, 9). A destination and a source coincide
where they are the same runs in the same order, over the limbs the destination has. -/
def overlapUndefined (before after : State) (r : OpRun) : Bool :=
  r.entry.opcode != opRemoteAdd && (reachesTwice after r || padReaches before r || (destRuns after r).any (fun a =>
    r.sources.any (fun k => (operandRuns before r k (2 ^ 32)).any (fun b => runsMeet a.2 b) &&
      (strictOverlap r || (operandRuns before r k a.1).any (fun b => a.2 != b && runsMeet a.2 b)))))

/-! Commands that are not ordered (R219 cases 2, 8 and 10). -/

/-- The headers of an operand's items. -/
def headerRuns (r : OpRun) (k : Nat) : List (Nat × Nat) :=
  let d := r.desc k
  let n := r.batchCounts k
  if d.hdr then (batchItems n.1 n.2).map (fun b => ((r.view k).addr ((d.hdrOffset : Int) + itemOffset d b.1 b.2), 64)) else []

/-- What an operation reads: its sources, its presence bitmap, its bound block. -/
def commandReads (before : State) (r : OpRun) : List (Nat × Nat) :=
  r.sources.flatMap (fun k => (operandRuns before r k (2 ^ 32)).flatMap (fun x => x) ++ headerRuns r k) ++
    (r.pres.map (fun p => (p.addr, presBytes p))).toList ++ (if r.cmd.entry.bound then [(r.cmd.entry.boundAddr, 128)] else [])

/-- What it writes: its destination, unless it goes as accumulates, and its work counters. -/
def commandWrites (after : State) (r : OpRun) : List (Nat × Nat × Nat) :=
  let op := r.entry.opcode
  let payload := if op = opRemoteAdd ∨ op = opScatterAdd then [] else (destRuns after r).flatMap (·.2)
  let counters := (List.range r.body.phases.length).flatMap (fun p => (groupDies r.job).map (fun d =>
    (counterWord r.cmd.entry.counterAddr p d, 8)))
  (payload ++ (if op = opRemoteAdd then [] else headerRuns r 0) ++ counters).map (fun x => (x.1, x.2, 0))

/-- A command's accesses stand in its entry. -/
def noteAccess (num serial : Nat) (reads : List (Nat × Nat)) (writes : List (Nat × Nat × Nat)) (s : State) : State :=
  updCmd s num (isSerial serial) (fun c => { c with reads := c.reads ++ reads, writes := c.writes ++ writes })

/-- A command that dispatches while others run, or wait for a flag, is ordered with none of them: where their accesses meet, all are
undefined. -/
def raceCommand (s : State) (num serial : Nat) : State :=
  match findCmd s num serial with
  | none => s
  | some c =>
    let waits (d : Cmd) (w : Nat × Nat × Nat) : Bool := d.phase == .waiting && rangesMeet (d.entry.flagAddr, 8) (w.1, w.2.1)
    let meets (q : Queue) (d : Cmd) : Bool := !(q.num == num && isSerial serial d) &&
      (c.writes.any (waits d) || d.phase == .running && (c.writes.any d.touches || d.writes.any c.touches))
    let race (d : Cmd) : Cmd := { d with raced := true }
    if s.tab.queues.any (fun q => q.cmds.any (meets q)) then
      s.updTab (fun t => { t with queues := t.queues.map (fun q =>
        { q with cmds := updWhere (fun d => meets q d || (q.num == num && isSerial serial d)) race q.cmds }) })
    else s

/-- The destination coincides with a source: the operation is in place (R52, R395). -/
def inPlaceOp (s : State) (r : OpRun) : Bool :=
  let srcs := r.sources.flatMap (fun k => operandRuns s r k (2 ^ 32))
  r.entry.opcode != opRemoteAdd && (operandRuns s r 0 (2 ^ 32)).any (fun a => !a.isEmpty && srcs.any (fun b => a == b))

/-- Free words over an item of the destination, and free header state in its held header (R220, log 2). -/
def scrambleItem (r : OpRun) (s : State) (b0 b1 : Nat) : State :=
  let d := r.desc 0
  let held := (((findCmd s r.queue r.serial).map (·.hdrs)).getD []).find? (fun x => x.b0 == b0 && x.b1 == b1)
  let level := (held.map (fun x => (hdrOf x.hdr).level)).getD d.tLevel
  let offs := if d.hdr then elemOffsets (storeDesc d) (2 * level) (objectExtents d (limbsAt d level)) b0 b1
    else elemOffsets (storeDesc d) r.lvl2 (padded d r.body.rowDims 0 (r.extents d)) b0 b1
  let n := s.freeCtr
  let free (i : Nat) : Nat := (Config.freeWord (n + i)).toNat + 2 ^ 32 * (Config.freeWord (n + offs.length + i)).toNat
  let s := { s with freeCtr := n + 2 * offs.length + 1 }
  let s := ((r.view 0).put s d.width (offs.zipIdx.map (fun x => (x.1, free x.2 % 2 ^ (8 * d.width))))).1
  let open_ := some (free (2 * offs.length) % 4, free (2 * offs.length) / 4 % 8)
  updCmd s r.queue (isSerial r.serial) (fun c => { c with
    hdrs := updWhere (fun x => x.b0 == b0 && x.b1 == b1) (fun x => { x with free := open_ }) c.hdrs })

/-- Free words over every item of the destination. -/
def scrambleDest (r : OpRun) (s : State) : State :=
  (batchItems (r.batchCounts 0).1 (r.batchCounts 0).2).foldl (fun t b => scrambleItem r t b.1 b.2) s

/-- An operation's effect: its headers repaired before they are read, its destination left undefined where it overlaps a source, its accesses held
against those of the commands that run. -/
def settleOverlap (effect : OpRun → State → State) (r : OpRun) (s : State) : State :=
  let s := r.sources.foldl (repairHeaders r) s
  let r := { r with lvl2 := operationLevel s r }
  let s := if inPlaceOp s r then updCmd s r.queue (isSerial r.serial) (fun c => { c with inPlace := true }) else s
  let t := effect r s
  let t := if overlapUndefined s t r then scrambleDest r t else t
  raceCommand (noteAccess r.queue r.serial (commandReads s r) (commandWrites t r) t) r.queue r.serial

/-- A RUN of an operation on operands in memory. -/
def runObj (num opcode : Nat) (effect : OpRun → State → State) (s : State) : Result := runOp num opcode (settleOverlap effect) s

end Sys2Proof.Machine
end

