-- ==== Sys2Proof/Machine/OpsArith.lean ====
section
/-! DEFINITION. The arithmetic operations on objects (R208): ADD, SUB, NEG, MUL.PT, MUL.CT, RESCALE, LEVEL.DROP, NTT.FWD,
NTT.INV, MATMUL, EXPORT. -/

namespace Sys2Proof.Machine

open Sys2Proof

/-- The limbs of all of a source: every one of its level. -/
def wantAll (_ : List Obj) (_ : Effect) : Nat := 2 ^ 32
/-- The limbs of the payload's level (R50, R184); an LWE batch has its two whatever is wanted. -/
def wantResult (_ : List Obj) (e : Effect) : Nat := 2 * e.level

def neverRaw (_ : List Obj) : Bool := false

/-- The k-th source's payload. -/
def src (os : List Obj) (k : Nat) : Poly := ((os[k]?).map (·.poly)).getD []

/-- A payload of c components under the primes. -/
def buildPoly (c : Nat) (qs : List Nat) (f : Nat → Nat → Nat → Limb) : Poly :=
  (List.range c).map (fun j => qs.zipIdx.map (fun q => f j q.2 q.1))

/-- An element-wise operation of two sources, component by component (R131). -/
def zipPoly (f : Nat → Limb → Limb → Limb) (c : Nat) (qs : List Nat) (n : Nat) (os : List Obj) : Poly :=
  buildPoly c qs (fun j i q => f q (Poly.limb (src os 0) j i n) (Poly.limb (src os 1) j i n))

/-- The operation on every item, its components those of the destination. -/
def runObjects (want : List Obj → Effect → Nat) (raw : List Obj → Bool)
    (compute : Nat → List Nat → Nat → List Obj → Poly) (r : OpRun) (s : State) : State :=
  forItems r (0 :: r.sources) (objectItem r want raw (compute (tmplComps (r.desc 0)))) s

/-- ADD: A + B. -/
def execAdd (queue : Nat) (s : State) : Result := runObj queue opAdd (runObjects wantResult neverRaw (zipPoly limbAdd)) s
/-- SUB: A - B. -/
def execSub (queue : Nat) (s : State) : Result := runObj queue opSub (runObjects wantResult neverRaw (zipPoly limbSub)) s

/-- -A. -/
def negPoly (c : Nat) (qs : List Nat) (n : Nat) (os : List Obj) : Poly :=
  buildPoly c qs (fun j i q => limbNeg q (Poly.limb (src os 0) j i n))

/-- NEG. -/
def execNeg (queue : Nat) (s : State) : Result := runObj queue opNeg (runObjects wantResult neverRaw negPoly) s

/-- Every component of A times the plaintext. -/
def mulPtPoly (c : Nat) (qs : List Nat) (n : Nat) (os : List Obj) : Poly :=
  buildPoly c qs (fun j i q => limbMul q (Poly.limb (src os 0) j i n) (Poly.limb (src os 1) 0 i n))

/-- MUL.PT: A ⊙ P. -/
def execMulPt (queue : Nat) (s : State) : Result := runObj queue opMulPt (runObjects wantResult neverRaw mulPtPoly) s

/-- The tensor product. -/
def mulCtPoly (c : Nat) (qs : List Nat) (n : Nat) (os : List Obj) : Poly :=
  buildPoly c qs (fun j i q =>
    let a (x : Nat) : Limb := Poly.limb (src os 0) x i n
    let b (x : Nat) : Limb := Poly.limb (src os 1) x i n
    if j = 0 then limbMul q (a 0) (b 0)
    else if j = 1 then limbAdd q (limbMul q (a 0) (b 1)) (limbMul q (a 1) (b 0))
    else if j = 2 then limbMul q (a 1) (b 1)
    else limbZero n)

/-- MUL.CT. -/
def execMulCt (queue : Nat) (s : State) : Result := runObj queue opMulCt (runObjects wantResult neverRaw mulCtPoly) s

/-- The limbs of A below the result's level (R36, R37). -/
def keepPoly (c : Nat) (qs : List Nat) (n : Nat) (os : List Obj) : Poly :=
  buildPoly c qs (fun j i q => (Poly.limb (src os 0) j i n).map (· % q))

/-- LEVEL.DROP. -/
def execLevelDrop (queue : Nat) (s : State) : Result := runObj queue opLevelDrop (runObjects wantResult neverRaw keepPoly) s

/-- Division by the dropped pair (R516); at level 1 the limbs unchanged (R37). -/
def rescaleObject (chains : List Chain) (c : Nat) (qs : List Nat) (n : Nat) (os : List Obj) : Poly :=
  match os[0]? with
  | none => []
  | some o =>
    let all := ((chains.find? (fun x => x.id == o.hdr.chain)).map (·.primes)).getD []
    if o.hdr.level ≤ 1 then keepPoly c qs n os
    else (List.range c).map (fun j => rescalePoly (Nat.log2 n) (o.hdr.domain == 1) (all.take (2 * o.hdr.level))
      ((List.range (2 * o.hdr.level)).map (fun i => Poly.limb o.poly j i n)))

def rescaleRun (r : OpRun) (s : State) : State :=
  runObjects wantAll neverRaw (rescaleObject s.tab.chains) r s

/-- RESCALE. -/
def execRescale (queue : Nat) (s : State) : Result := runObj queue opRescale rescaleRun s

/-- An LWE batch is written unchanged (R98). -/
def lweOperand (os : List Obj) : Bool := ((os[0]?).map (fun o => o.hdr.kind == 4)).getD false

/-- Every limb of every component transformed under its prime (R90, R98). -/
def nttObject (t : Nat → Nat → Limb → Limb) (c : Nat) (qs : List Nat) (n : Nat) (os : List Obj) : Poly :=
  if lweOperand os then src os 0
  else buildPoly c qs (fun j i q => t (Nat.log2 n) q (Poly.limb (src os 0) j i n))

/-- NTT.FWD. -/
def execNttFwd (queue : Nat) (s : State) : Result := runObj queue opNttFwd (runObjects wantResult lweOperand (nttObject nttForward)) s
/-- NTT.INV. -/
def execNttInv (queue : Nat) (s : State) : Result := runObj queue opNttInv (runObjects wantResult lweOperand (nttObject nttInverse)) s

/-- EXPORT (R271). -/
def execExportOp (queue : Nat) (s : State) : Result := runObj queue opExport (runObjects wantResult neverRaw keepPoly) s

/-! MATMUL (R117, R118, R192, R208): A's batch loop 0 runs over i, the destination's over c; W has d0 = c and d1 = i, and
its limb dimension, if it has one, selects the limb. -/

/-- Block (i, c) of the weights is absent (R192). A block beyond the bitmap is present, and a BLK_ROWS or BLK_COLS of 0 leaves no
block absent (DESIGN CHOICE, log 125: the spec is silent on both). -/
def weightAbsent (r : OpRun) (i c : Nat) : Bool :=
  match r.pres with
  | none => false
  | some p => p.blkRows != 0 && p.blkCols != 0 && decide (c / p.blkCols < p.countB) &&
      !(r.bitmap.getD (i / p.blkRows * p.countB + c / p.blkCols) true)

/-- The represented weight of a fetched word: a canonical word, or the value of its Montgomery form (R32). -/
def weightValue (d : Desc) (q w : Nat) : Nat := if d.form then fromMont q w else w % q

/-- The rows of a column whose block is present. -/
def presentRows (r : OpRun) (i0 c : Nat) : List Nat := (List.range i0).filter (fun i => !weightAbsent r i c)

/-- Limbs of the weights: the extent of their limb dimension, as many as are wanted where they have none (R177, R178). -/
def weightLimbs (r : OpRun) (want : Nat) : Nat :=
  let d := r.desc 2
  if d.limbDim < 6 then min want ((r.extents d).getD d.limbDim 1) else want

/-- The offsets of the weights that limb l uses of W's item b1, under c0 columns and i0 rows: whole runs, the pad of the columns, the
rows exactly, absent blocks not read (R103, R187, R192). -/
def weightOffs (r : OpRun) (l c0 i0 b1 : Nat) : List Int :=
  let d := r.desc 2
  let full := readExtents d [paddedExtent c0 (d.granule 0 false), i0, 1, 1, 1, 1]
  let plane : Int := if 2 ≤ d.limbDim ∧ d.limbDim < 6 then (l : Int) * dimStride d r.lvl2 d.limbDim else 0
  (((elemOffsets d r.lvl2 full 0 b1).zip (indexVectors full)).filter (fun e => !weightAbsent r (e.2.getD 1 0) (e.2.getD 0 0))).map
    (fun e => e.1 + plane)

/-- The weights of a limb as delivered, a COEFF automorphism negating what it marks (R101, R110); zero in absent blocks. -/
def weightPlane (s : State) (r : OpRun) (q l c0 i0 b1 : Nat) : Words :=
  let d := r.desc 2
  let ext := [paddedExtent c0 (d.granule 0 false), i0, 1, 1, 1, 1]
  let f := (r.view 2).fetch s 4 (weightOffs r l c0 i0 b1)
  let all := spreadWords (fun v => weightAbsent r (v.getD 1 0) (v.getD 0 0)) (indexVectors (readExtents d ext)) f.words
  { ext := ext, data := (ltuNegated d (ext.getD 0 1) (fun _ => q) (deliveredPart d ext all)).toArray, bad := f.bad, out := f.out }

/-- The weights that an operation's limbs use of W's item b1, repaired before they are read. -/
def repairWeights (r : OpRun) (limbs c0 i0 b1 : Nat) (s : State) : State :=
  (r.view 2).repair s r.job.id 4 ((List.range limbs).flatMap (fun l => weightOffs r l c0 i0 b1))

/-- Σ over the present i of W[i][c] × A_i, onto the prior value when the instruction accumulates; `ws` holds the weights of each
limb. -/
def matmulPoly (r : OpRun) (comps c : Nat) (qs : List Nat) (n : Nat) (rows : List Nat) (ws : List Words) (os : List Obj)
    (prior : Poly) : Poly :=
  buildPoly comps qs (fun j l q =>
    rows.foldl (fun acc i =>
      limbAdd q acc (limbScale q (weightValue (r.desc 2) q (((ws[l]?).map (fun w => wordAt w [c, i, 0, 0, 0, 0])).getD 0))
        (Poly.limb (src os i) j l n)))
      ((Poly.limb prior j l n).map (· % q)))

/-- One destination item c of a MATMUL of c0 columns. W is one operand of every column: a block of it that fails its check marks
them all (R49, R108, DEDUCED, log 125). -/
def matmulItem (r : OpRun) (i0 c0 : Nat) (s : State) (c b1 : Nat) : State :=
  let d := r.desc 0
  let os := (List.range i0).map (fun i => readHdr s r 1 i b1)
  let prior := if r.entry.accum then [readHdr s r 0 c b1] else []
  if noPrimes s r (os.map (fun o => (1, o)) ++ prior.map (fun o => (0, o))) then zeroResult s r c b1 else
  let e := effectOf s.tab.chains opMatmul 0 r.entry.wScale (((os[0]?).map (·.hdr)).getD default) (os.map (·.hdr))
  let e2 := match prior with
    | p :: _ => effectOf s.tab.chains opAdd 0 0 e.hdr [{ e.hdr with level := e.level }, p.hdr]
    | [] => e
  let want := wantResult [] e2
  let wl := weightLimbs r want
  let s := os.zipIdx.foldl (fun s o => repairPayload r s 1 o.2 b1 want o.1) s
  let s := repairWeights r wl c0 i0 b1 (prior.foldl (fun s o => repairPayload r s 0 c b1 want o) s)
  let os := os.zipIdx.map (fun o => readPayload s r 1 o.2 b1 want o.1)
  let prior := prior.map (readPayload s r 0 c b1 want)
  let qs := resultPrimes s e2.hdr wl
  let ws := qs.zipIdx.map (fun q => weightPlane s r q.1 q.2 c0 i0 b1)
  let s := os.zipIdx.foldl (fun s o => r.reportRead s 1 (r.itemIndex 1 o.2 b1) o.1) s
  let s := prior.foldl (fun s o => r.reportRead s 0 (r.itemIndex 0 c b1) o) s
  let s := r.reportOut s (r.view 2) 2 (r.itemIndex 2 0 b1) (lowest (ws.filterMap (·.out)))
  let s := if wl < want then r.report s 2 (r.itemIndex 2 0 b1) ruleDiffer none else s
  let fewest := min wl ((minList (((os ++ prior).filter (·.held)).map (·.limbs))).getD (2 ^ 32))
  let p := matmulPoly r (tmplComps d) c (resultPrimes s e2.hdr (destLimbs d e2.hdr fewest)) (tmplN d) (presentRows r i0 c) ws os
    (((prior.head?).map (·.poly)).getD [])
  writeResult s r c b1 e2.hdr false p fewest ((os ++ prior).map (·.state))
    (tagCause (os ++ prior) ++ e.causes ++ e2.causes ++ (os ++ prior).flatMap (·.causes) ++ (if ws.any (·.bad) then [cFault] else []))

/-- MATMUL over its columns and outer items; an extent of 0 makes it a no-op (R117). -/
def matmulRun (r : OpRun) (s : State) : State :=
  let a := r.batchCounts 1
  let d := r.batchCounts 0
  let (w, held) := extentsOf (r.desc 2) r.sregs r.bound r.lvl2
  let i0 := min a.1 (w.getD 1 0)
  let c0 := min d.1 (w.getD 0 0)
  let n1 := min (min a.2 d.2) (r.batchCounts 2).2
  let s := match held.head? with
    | some k => reportItems r 2 ruleAlloc (some (allocArg r 2 k)) s
    | none => s
  let s := if a.1 = i0 then s else r.report s 1 0 ruleDiffer none
  let s := if d.1 = c0 then s else r.report s 0 0 ruleDiffer none
  let s := if w.getD 1 0 = i0 ∧ w.getD 0 0 = c0 then s else reportItems r 2 ruleDiffer none s
  let s := r.reportCounts s [(0, (n1, d.2)), (1, (n1, a.2)), (2, (n1, (r.batchCounts 2).2))]
  if i0 = 0 then s else (batchItems c0 n1).foldl (fun s b => matmulItem r i0 c0 s b.1 b.2) s

/-- MATMUL: the prior headers it accumulates onto are read too (R387). -/
def matmulOp (r : OpRun) (s : State) : State := matmulRun r (if r.entry.accum then repairHeaders r s 0 else s)

def execMatmul (queue : Nat) (s : State) : Result := runObj queue opMatmul matmulOp s

end Sys2Proof.Machine
end

