-- ==== Sys2Proof/Machine/OpsKey.lean ====
section
/-! DEFINITION. Key switching (R145 to R152, R171, R173, R174) and the keyed operations RELIN, ROTATE, CONJUGATE and LINEAR
(R148, R191, R519). -/

namespace Sys2Proof.Machine

open Sys2Proof

/-! Pieces and their halves. -/

/-- Bit length of a prime. -/
def bitLength (q : Nat) : Nat := Nat.log2 q + 1

/-- The accepted candidates of an expansion output (R151). -/
def acceptedOf (q : Nat) (out : List Byte) : List Nat :=
  ((wordsOf out).map (fun w => w % 2 ^ bitLength q)).filter (fun x => decide (x < q))

/-- The first n accepted candidates: the output read as far as they need (R151). -/
def expandHalf (q : Nat) (input : List Byte) (n : Nat) : Limb :=
  ((List.range 32).findSome? (fun k =>
    let l := (acceptedOf q (shake256 input (4 * n * 2 ^ k))).take n
    if l.length = n then some l else none)).getD (limbZero n)

/-- The 35 bytes an a half is expanded from; `slot` is the chain slot, or the limb number of a BLINDROT key (R150, R266). -/
def expansionInput (e : KeyEntry) (digit slot : Nat) : List Byte :=
  e.seed ++ leBytes 1 digit ++ leBytes 1 slot ++ leBytes 1 e.log2n

/-- The stored bytes of piece (j, i), and whether every block's check passes (R146, R153, R171). -/
def pieceBytes (s : State) (c : Caddy) (e : KeyEntry) (j i : Nat) : List Byte × Bool :=
  let off := e.offset + (j * e.limbs + i) * 4 * 2 ^ e.log2n
  let n := 4 * 2 ^ e.log2n
  let blks := (List.range (ceilDiv n blockBytes)).map (fun b => s.far.readBlock (c.addr (off + b * blockBytes) / blockBytes))
  ((blks.flatMap (·.1)).take n, blks.all (·.2))

/-! Near copies (R158, R161, R399, R419). -/

/-- A piece's number in its caddy: directory order, then digit, then limb (R158). -/
def pieceNumber (c : Caddy) (p : PieceId) : Nat :=
  ((c.keys.take p.key).map (fun k => k.digits * k.limbs)).foldl (· + ·) 0 + p.digit * (c.keys.getD p.key default).limbs + p.limb

/-- The near stack that holds a piece. -/
def stackHolding (s : State) (c : Caddy) (p : PieceId) : Option Nat :=
  (s.near.pieces.find? (fun n => n.caddy == c.index && n.number == pieceNumber c p)).map (·.stack)

def stackHub (n : Nat) : Hub := if n < 2 then .h0 else .h1

/-- Roots that stream nothing of their own stacks: out of service, or back while their pieces are not placed again (R399, R419). -/
def rootsAside (s : State) : List Hub := s.near.rootOut ++ s.near.rootBack

/-- The near copy of a piece. -/
def nearPieceOf (s : State) (c : Caddy) (p : PieceId) : Option NearPiece :=
  s.near.pieces.find? (fun n => n.caddy == c.index && n.number == pieceNumber c p)

/-- The near copy that a root streams: none on a stack that is lost or whose root stands aside. -/
def servedPiece (s : State) (c : Caddy) (p : PieceId) : Option NearPiece :=
  (nearPieceOf s c p).filter (fun n => !s.near.lost.contains n.stack && !(rootsAside s).contains (stackHub n.stack))

/-- The b half of a piece as a die takes it, and whether every block of it passes: as a root sends it, from the near copy or the
library's (R161); the library copy alone where it is read again, or a block of the near copy fails its check (R169, R171). -/
def arrivedBytes (s : State) (c : Caddy) (e : KeyEntry) (p : PieceId) (again : Bool) : List Byte × Bool :=
  match servedPiece s c p with
  | some n => if again || !n.whole then pieceBytes s c e p.digit p.limb else (n.data, true)
  | none => pieceBytes s c e p.digit p.limb

/-- The blocks of a piece's library copy. -/
def libraryBlocks (c : Caddy) (e : KeyEntry) (p : PieceId) : List Nat :=
  (List.range (ceilDiv (4 * 2 ^ e.log2n) blockBytes)).map (fun b =>
    c.addr (e.offset + (p.digit * e.limbs + p.limb) * 4 * 2 ^ e.log2n + b * blockBytes) / blockBytes)

/-- A read of a piece wakes the stack it comes from: its near stack, or those of its library copy (R312). -/
def touchPiece (s : State) (p : PieceId) : State :=
  match findCaddy s p.caddy with
  | none => s
  | some c => match servedPiece s c p, c.keys[p.key]? with
    | some n, _ => touchStack s (16 + n.stack)
    | none, some e => touchBlocks s false (libraryBlocks c e p)
    | none, none => s

/-- A piece in the cache of a die that holds it ready; the lowest die's, where several do. -/
def cachedPiece (s : State) (p : PieceId) : Option CacheEntry :=
  (List.range 8).findSome? (fun d => (s.die d).cache.find? (fun x => x.piece == p && x.ready))

/-- The library copy of a piece is read for its halves: no die has it ready, and no whole near copy of it streams. -/
def fromLibrary (s : State) (c : Caddy) (p : PieceId) : Bool :=
  (cachedPiece s p).isNone && !((servedPiece s c p).map (·.whole)).getD false

/-- The library copies a command reads pieces from: woken, blocks that fail their check repaired (R171, R312, R387). -/
def repairPieces (s : State) (ps : List PieceId) : State :=
  ps.foldl (fun s p =>
    match findCaddy s p.caddy with
    | none => s
    | some c => match c.keys[p.key]? with
      | some e => if fromLibrary s c p then (libraryBlocks c e p).foldl repairFar (touchPiece s p) else s
      | none => s) s

/-- Both halves of a piece as words: b, a, and whether the checks pass; a piece the key does not hold is zero (R174). -/
structure Halves where
  b : Limb
  a : Limb
  ok : Bool
deriving Repr, Inhabited

def noHalves : Halves := { b := [], a := [], ok := true }

/-- The chain slot under which a piece's a half is expanded, and its prime. -/
def pieceSlot (ch : Chain) (e : KeyEntry) (limb : Nat) : Nat × Nat :=
  if e.kkind = 5 then (limb, ch.primes.getD (limb % 2) 2)
  else
    let own := if e.kkind = 3 then 2 else 2 * ch.pairs.length
    let slot := if limb < own then limb else 64 + (limb - own)
    (slot, (ch.slotPrime slot).getD 2)

/-- A key of a caddy's directory by its position. -/
def keyIndex (c : Caddy) (e : KeyEntry) : Nat := (c.keys.findIdx? (fun x => x == e)).getD 0

/-- The piece (j, i) under a chain slot of the caddy's own chain: from a die key cache that has it ready, else as the stream or the
library gives it (R20, R161, R167, R171). -/
def halvesAt (s : State) (c : Caddy) (e : KeyEntry) (j i slot q : Nat) : Halves :=
  if e.digits ≤ j ∨ e.limbs ≤ i then noHalves
  else
    let p : PieceId := { caddy := c.index, key := keyIndex c e, digit := j, limb := i }
    match cachedPiece s p with
    | some x => { b := x.bHalf.map (· % q), a := x.aHalf.map (fromMont q), ok := x.ok }
    | none =>
      let w := arrivedBytes s c e p false
      { b := (wordsOf w.1).map (· % q), a := expandHalf q (expansionInput e j slot) (2 ^ e.log2n), ok := w.2 }

/-- The limb of a key that lies under a chain slot of the caddy's chain (R146, R262). -/
def limbOfSlot (ch : Chain) (e : KeyEntry) (slot : Nat) : Option Nat :=
  let own := if e.kkind = 3 then 2 else 2 * ch.pairs.length
  if slot < 64 then (if slot < own then some slot else none)
  else if slot - 64 < ch.special.length then some (own + (slot - 64)) else none

/-- The halves a switch reads for digit j and a slot (R174). -/
def slotHalves (s : State) (c : Caddy) (e : KeyEntry) (j slot : Nat) : Halves :=
  match findChain s c.chainId with
  | none => noHalves
  | some ch =>
    match limbOfSlot ch e slot, ch.slotPrime slot with
    | some i, some q => halvesAt s c e j i slot q
    | _, _ => noHalves

/-! Pieces in the die key caches (R152, R167, R169). -/

/-- The expanded half in Montgomery form (R152). -/
def expandedHalf (s : State) (p : PieceId) : List Nat :=
  match findCaddy s p.caddy with
  | none => []
  | some c => match c.keys[p.key]?, findChain s c.chainId with
    | some e, some ch =>
      let x := pieceSlot ch e p.limb
      (expandHalf x.2 (expansionInput e p.digit x.1) (2 ^ e.log2n)).map (toMont x.2)
    | _, _ => []

/-- One half of a piece as a core of a die has it, in Montgomery form under a prime: from the die key cache, else from the
library copy with its a half expanded again; whether its checks pass (R152, R169, R174). -/
def coreHalf (s : State) (die : Nat) (p : PieceId) (aHalf : Bool) (q : Nat) : List Nat × Bool :=
  match findCaddy s p.caddy with
  | none => ([], true)
  | some c =>
    match c.keys[p.key]?, findChain s c.chainId with
    | some e, some ch =>
      let own := pieceSlot ch e p.limb
      match (s.die die).cache.find? (fun x => x.piece == p && x.ready) with
      | some x => ((if aHalf then x.aHalf.map (fromMont own.2) else x.bHalf).map (toMont q), x.ok)
      | none =>
        let w := pieceBytes s c e p.digit p.limb
        ((if aHalf then expandHalf own.2 (expansionInput e p.digit own.1) (2 ^ e.log2n) else (wordsOf w.1).map (· % own.2)).map (toMont q), w.2)
    | _, _ => ([], true)

/-! The switch (R148). -/

/-- The chain slots of a switch at a level, with their primes under the ciphertext's chain. -/
def switchSlots (ch : Chain) (level : Nat) : List (Nat × Nat) :=
  (ch.primes.take (2 * level)).zipIdx.map (fun q => (q.2, q.1)) ++ ch.special.zipIdx.map (fun q => (64 + q.2, q.1))

/-- The raised digit of the coefficient limbs lo up to hi - 1, over all slots, in the evaluation domain. -/
def raiseDigit (exact : Bool) (m lo hi : Nat) (slots : List (Nat × Nat)) (coeff : List Limb) : List Limb :=
  let own := (slots.take hi).drop lo
  let rest := slots.take lo ++ slots.drop hi
  let conv := bconv exact (2 ^ m) (own.map (·.2)) (rest.map (·.2)) ((coeff.take hi).drop lo)
  let y := conv.take lo ++ (coeff.take hi).drop lo ++ conv.drop lo
  (slots.zip y).map (fun x => nttForward m x.1.2 x.2)

/-- y_j for every digit that holds limbs at the level. -/
def raiseDigits (exact : Bool) (m level width : Nat) (ch : Chain) (x : List Limb) : List (List Limb) :=
  let slots := switchSlots ch level
  let coeff := (slots.zip x).map (fun p => nttInverse m p.1.2 p.2)
  (List.range (ceilDiv (2 * level) width)).map (fun j => raiseDigit exact m (j * width) (min ((j + 1) * width) (2 * level)) slots coeff)

/-- Division by Π_K of one sum: the special limbs raised and taken away (R148). -/
def lowerSum (exact : Bool) (m level : Nat) (ch : Chain) (w : List Limb) : List Limb :=
  let qs := ch.primes.take (2 * level)
  let special := (ch.special.zip (w.drop (2 * level))).map (fun p => nttInverse m p.1 p.2)
  let lower := (qs.zip (bconv exact (2 ^ m) ch.special qs special)).map (fun p => nttForward m p.1 p.2)
  (qs.zip (w.zip lower)).map (fun p =>
    limbScale p.1 (invMod (prodMod p.1 ch.special) p.1) (limbSub p.1 p.2.1 p.2.2))

/-- Σ over digits of y_j times one half, over all slots. -/
def sumHalves (n : Nat) (slots : List (Nat × Nat)) (ys : List (List Limb)) (half : Nat → Nat → Limb) : List Limb :=
  slots.zipIdx.map (fun t =>
    ys.zipIdx.foldl (fun acc y => limbAdd t.1.2 acc (limbMul t.1.2 (y.1.getD t.2 []) (fitLimb n (half y.2 t.1.1)))) (limbZero n))

/-- A key switch's result (u, v) and whether every piece read passed its check. -/
structure Switched where
  u : List Limb
  v : List Limb
  ok : Bool
deriving Repr, Inhabited

/-- The switch of raised digits by a key. -/
def switchDigits (s : State) (exact : Bool) (m level : Nat) (ch : Chain) (c : Caddy) (e : KeyEntry) (ys : List (List Limb)) : Switched :=
  let slots := switchSlots ch level
  let hs := (List.range ys.length).map (fun j => slots.map (fun t => (t.1, slotHalves s c e j t.1)))
  let get (j slot : Nat) : Halves := (((hs.getD j []).find? (fun x => x.1 == slot)).map (·.2)).getD noHalves
  let n := 2 ^ m
  { u := lowerSum exact m level ch (sumHalves n slots ys (fun j t => (get j t).b))
    v := lowerSum exact m level ch (sumHalves n slots ys (fun j t => (get j t).a))
    ok := hs.all (fun l => l.all (fun x => x.2.ok)) }

/-- The digit width of a switch: α under the ciphertext's chain and the caddy's DNUM; at SWITCH keys one digit (R145, R174,
R263). -/
def switchWidth (ch : Chain) (c : Caddy) (e : KeyEntry) (level : Nat) : Nat :=
  if e.kkind = 3 then 2 * level else digitWidth ch.pairs.length c.dnum

/-- The causes a switch adds to its result: foreign tag, caddy of another chain or ring, failing pieces (R171, R173,
R174). -/
def switchCauses (o : Obj) (c : Caddy) (ok : Bool) : List Nat :=
  (if !o.malformed && c.tag.toNat != o.hdr.tag then [cTag] else []) ++
    (if c.chainId != o.hdr.chain || c.log2n != o.hdr.log2n then [cShape] else []) ++
    (if ok then [] else [cFault])

/-- The 2ℓ limbs of a component at a level, fitted to N words. -/
def compAt (p : Poly) (j level n : Nat) : List Limb := (List.range (2 * level)).map (fun i => Poly.limb p j i n)

/-! RELIN. -/

/-- (c0 + u, c1 + v) for a KIND 0x02 product. -/
def relinPoly (s : State) (r : OpRun) (ch : Chain) (c : Caddy) (e : KeyEntry) (level n : Nat) (p : Poly) : Poly × Bool :=
  let m := Nat.log2 n
  let ys := raiseDigits r.entry.exact m level (switchWidth ch c e level) ch (compAt p 2 level n)
  let w := switchDigits s r.entry.exact m level ch c e ys
  let qs := ch.primes
  ([polyZip limbAdd qs (compAt p 0 level n) w.u, polyZip limbAdd qs (compAt p 1 level n) w.v], w.ok)

/-! Rotations. -/

/-- σ_g on every limb of a component, in the evaluation domain. -/
def rotateComp (m g : Nat) (l : List Limb) : List Limb := l.map (galoisEval m g)

/-- (σ(c0) + u, v): unhoisted, the automorphism acts on component 1 before decomposition; hoisted, on its raised digits
(R148). -/
def rotatePoly (s : State) (r : OpRun) (ch : Chain) (c : Caddy) (e : KeyEntry) (g level n : Nat) (p : Poly)
    (hoisted : List (List Limb)) : Poly × Bool :=
  let m := Nat.log2 n
  let ys := if r.entry.hoist then hoisted.map (rotateComp m g)
    else raiseDigits r.entry.exact m level (switchWidth ch c e level) ch (rotateComp m g (compAt p 1 level n))
  let w := switchDigits s r.entry.exact m level ch c e ys
  ([polyZip limbAdd ch.primes (rotateComp m g (compAt p 0 level n)) w.u, w.v], w.ok)

/-- The decomposition the keys of a hoisted entry share. -/
def hoistedDigits (s : State) (r : OpRun) (ch : Chain) (level n : Nat) (p : Poly) : List (List Limb) :=
  match r.keys.head?.bind (r.key s) with
  | some (c, _, e) =>
    if r.entry.hoist then raiseDigits r.entry.exact (Nat.log2 n) level (switchWidth ch c e level) ch (compAt p 1 level n) else []
  | none => []

/-- Destination items of a keyed operation: (b0, b1) of the destination for source item m and amount a. -/
def keyedItem (r : OpRun) (n0 m a : Nat) : Nat × Nat := if r.entry.opcode = opRelin then itemAt n0 m else (a, m)

/-- One result of a key switch of source item m with the a-th key. -/
def keyedResult (r : OpRun) (a m : Nat) (s : State) (b0 b1 : Nat) : State :=
  let d := r.desc 1
  let n := tmplN d
  let src := itemAt (r.batchCounts 1).1 m
  let o := readHdr s r 1 src.1 src.2
  if noPrimes s r [(1, o)] then zeroResult s r b0 b1 else
  let e := effectOf s.tab.chains r.entry.opcode 0 0 o.hdr [o.hdr]
  let s := repairPayload r s 1 src.1 src.2 (2 ^ 32) o
  let o := readPayload s r 1 src.1 src.2 (2 ^ 32) o
  let s := r.reportRead s 1 m o
  let level := o.hdr.level
  let name := r.keys.getD a default
  let out : Poly × List Nat :=
    match findChain s o.hdr.chain, r.key s name with
    | some ch, some (c, _, k) =>
      let x := if r.entry.opcode = opRelin then relinPoly s r ch c k level n o.poly
        else rotatePoly s r ch c k name.galois level n o.poly (hoistedDigits s r ch level n o.poly)
      (x.1, switchCauses o c x.2)
    | _, _ => ([], [])
  writeResult s r b0 b1 e.hdr false out.1 (if o.held then o.limbs else 2 ^ 32) [o.state]
    (tagCause [o] ++ e.causes ++ o.causes ++ out.2)

/-- RELIN, ROTATE and CONJUGATE over their items: amounts by A's items (R519). -/
def keyedRun (r : OpRun) (s : State) : State :=
  let a := r.batchCounts 1
  let d := r.batchCounts 0
  let items := a.1 * a.2
  if r.entry.opcode = opRelin then
    forItems r [0, 1] (fun s b0 b1 => keyedResult r 0 (b1 * a.1 + b0) s b0 b1) s
  else
    let s := if d = (r.keys.length, items) then s else r.report s 0 0 ruleDiffer none
    (batchItems (min d.1 r.keys.length) (min d.2 items)).foldl (fun s b => keyedResult r b.1 b.2 s b.1 b.2) s

/-- The pieces the keys of a command's list have for it (R147). -/
def listedPieces (s : State) (r : OpRun) : List PieceId :=
  r.keys.zipIdx.flatMap (fun n => match r.key s n.1, r.chain s with
    | some (c, ix, e), some own =>
      (piecesAt own.pairs.length (pairsOf s c) own.special.length c.dnum (keyLevel r n.2 n.1) e).map (fun x =>
        { caddy := c.index, key := ix, digit := x.1, limb := x.2 })
    | _, _ => [])

/-- Some result of an operation on keys has primes: its pieces are read (R44). -/
def readsPieces (s : State) (r : OpRun) : Bool :=
  let n := r.batchCounts 1
  (batchItems n.1 n.2).any (fun b => !noPrimes s r [(1, readHdr s r 1 b.1 b.2)])

/-- An operation on keys, the pieces it reads repaired first; one without primes reads no piece (R44, R387). -/
def withKeys (effect : OpRun → State → State) (r : OpRun) (s : State) : State :=
  effect r (if readsPieces s r then repairPieces s (listedPieces s r) else s)

/-- RELIN. -/
def execRelin (queue : Nat) (s : State) : Result := runObj queue opRelin (withKeys keyedRun) s
/-- ROTATE. -/
def execRotate (queue : Nat) (s : State) : Result := runObj queue opRotate (withKeys keyedRun) s
/-- CONJUGATE. -/
def execConjugate (queue : Nat) (s : State) : Result := runObj queue opConjugate (withKeys keyedRun) s

/-! LINEAR (R191, R519). -/

/-- The rotation of A by diagonal k at a level, with the causes of its switch. Diagonal elements of 1 need no key. -/
def diagRotation (s : State) (r : OpRun) (o : Obj) (ch : Chain) (level n : Nat) (hoisted : List (List Limb)) (k : Nat) :
    Poly × List Nat :=
  let g := r.diagElement k
  match (r.keys.find? (fun x => x.galois == g)).bind (fun x => r.key s x) with
  | some (c, _, e) =>
    if g = 1 then (([0, 1]).map (fun j => compAt o.poly j level n), [])
    else
      let x := rotatePoly s r ch c e g level n o.poly hoisted
      (x.1, switchCauses o c x.2)
  | none => (([0, 1]).map (fun j => compAt o.poly j level n), [])

/-- Σ over the present diagonals of W_k ⊙ rot_k(A). -/
def linearSum (qs : List Nat) (level n : Nat) (terms : List (Poly × Poly)) : Poly :=
  ([0, 1]).map (fun j => (List.range (2 * level)).map (fun i =>
    terms.foldl (fun acc t => limbAdd (qs.getD i 2) acc
      (limbMul (qs.getD i 2) (Poly.limb t.1 0 i n) (Poly.limb t.2 j i n))) (limbZero n)))

/-- One A item of a LINEAR: it runs at the lowest level of A and the diagonals (R50). With no present diagonal the spec says
only that the header follows the operation's rules; W's template stands for the weights then (R191, DESIGN CHOICE, log
108). -/
def linearItem (r : OpRun) (s : State) (m b0 b1 : Nat) : State :=
  let n := tmplN (r.desc 1)
  let wn := r.batchCounts 2
  let ks := r.present
  let at_ := itemAt (r.batchCounts 1).1 m
  let a := readHdr s r 1 at_.1 at_.2
  let live := ks.zipIdx.filter (fun k => decide (m * ks.length + k.2 < wn.1 * wn.2))
  let ws := live.map (fun k =>
    let at_ := itemAt wn.1 (m * ks.length + k.2)
    (m * ks.length + k.2, readHdr s r 2 at_.1 at_.2))
  if noPrimes s r ((1, a) :: ws.map (fun w => (2, w.2))) then zeroResult s r b0 b1 else
  let hs := if ws.isEmpty then [r.template s 2] else ws.map (·.2.hdr)
  let e := effectOf s.tab.chains opLinear 0 0 a.hdr (a.hdr :: hs)
  let level := e.hdr.level
  let s := repairPayload r s 1 at_.1 at_.2 (2 * level) a
  let s := ws.foldl (fun s w => repairPayload r s 2 (itemAt wn.1 w.1).1 (itemAt wn.1 w.1).2 (2 * level) w.2) s
  let a := readPayload s r 1 at_.1 at_.2 (2 * level) a
  let ws := ws.map (fun w => (w.1, readPayload s r 2 (itemAt wn.1 w.1).1 (itemAt wn.1 w.1).2 (2 * level) w.2))
  let s := r.reportRead s 1 m a
  let s := ws.foldl (fun s w => r.reportRead s 2 w.1 w.2) s
  let s := if live.length = ks.length then s else r.report s 2 0 ruleDiffer none
  let os := a :: ws.map (·.2)
  let out : Poly × List Nat :=
    match findChain s a.hdr.chain with
    | none => ([], [])
    | some ch =>
      let hoisted := hoistedDigits s r ch level n a.poly
      let rots := live.map (fun k => diagRotation s r a ch level n hoisted k.1)
      (linearSum ch.primes level n ((ws.map (·.2.poly)).zip (rots.map (·.1))), rots.flatMap (·.2))
  let fewest := (minList ((os.filter (·.held)).map (·.limbs))).getD (2 ^ 32)
  writeResult s r b0 b1 e.hdr false out.1 fewest (os.map (·.state))
    (tagCause os ++ e.causes ++ os.flatMap (·.causes) ++ out.2)

/-- LINEAR over A's items; W items beyond D times A's item count are not read (R519). -/
def linearRun (r : OpRun) (s : State) : State :=
  let a := r.batchCounts 1
  let w := r.batchCounts 2
  let d := r.batchCounts 0
  let items := a.1 * a.2
  let s := if r.diagonals * items < w.1 * w.2 then r.report s 2 0 ruleDiffer none else s
  let s := if d.1 * d.2 = items then s else r.report s 0 0 ruleDiffer none
  (List.range (min items (d.1 * d.2))).foldl (fun s m => linearItem r s m (itemAt d.1 m).1 (itemAt d.1 m).2) s

def execLinear (queue : Nat) (s : State) : Result := runObj queue opLinear (withKeys linearRun) s

end Sys2Proof.Machine
end

