-- ==== Sys2Proof/Machine/Packets.lean ====
section
/-! DEFINITION. Remote accumulate packets (R282 to R288, R366, R393): their bytes, the windows and adders of a far-tier
controller, the sender's streams, answers and resends. -/

namespace Sys2Proof.Machine

open Sys2Proof

/-! Bytes (R235, R283). -/

def claimBytes (c : Claim) : List Byte :=
  leBytes 4 c.claimIndex ++ leBytes 4 c.opSerial ++
    leBytes 4 (c.claimer + 2 ^ 9 * c.die + 2 ^ 12 * c.phase + (if c.pre then 2 ^ 15 else 0) + 2 ^ 16 * c.attempt) ++ zeros 4

/-- Bytes 0x00 to 0x3B of the header. -/
def packetHead (p : AccPacket) : List Byte :=
  leBytes 1 p.rjob ++ leBytes 1 p.srcDev ++ leBytes 1 p.srcDie ++ leBytes 1 p.aop ++ leBytes 4 p.q ++ leBytes 8 p.dstAddr ++
    leBytes 4 p.seq ++ leBytes 4 p.pcheck ++ claimBytes p.claim ++ zeros 20

/-- PHCRC and PCHECK hold. -/
def packetIntact (p : AccPacket) : Bool :=
  (crc32c p.payload).toNat == p.pcheck && (crc32c (packetHead p)).toNat == p.phcrc

/-- The two checks of a packet written. -/
def sealPacket (p : AccPacket) : AccPacket :=
  let p := { p with pcheck := (crc32c p.payload).toNat }
  { p with phcrc := (crc32c (packetHead p)).toNat }

/-! At the destination (R284, R286, R287). -/

/-- The controller a stream goes to, as source and destination both compute it: the data stack of R295. Windows keep their
streams when a row moves (R310). -/
def streamStack (addr : Nat) : Nat := 8 * (addr / blockBytes % 2) + (oldPlace (addr / blockBytes / 2)).stack

/-- The stack whose window a packet meets. -/
def packetStack (_ : State) (addr : Nat) : Nat := streamStack addr

/-- The live job of an RJOB, when it takes accumulates from a device. -/
def acceptingJob (s : State) (p : AccPacket) : Option Job :=
  s.tab.jobs.find? (fun j => j.rjob == some p.rjob && (p.srcDev == s.fab.devNumber || j.peers.contains p.srcDev))

def isWindow (stack : Nat) (p : AccPacket) (w : Window) : Bool :=
  w.stack == stack && w.rjob == p.rjob && w.srcDev == p.srcDev && w.srcDie == p.srcDie

/-- The window of a stream: both its parts are zero until a packet marks it (R284). -/
def windowOf (s : State) (stack : Nat) (p : AccPacket) : Window :=
  (s.far.windows.find? (isWindow stack p)).getD { stack := stack, rjob := p.rjob, srcDev := p.srcDev, srcDie := p.srcDie }

def bitSet {w : Nat} (m : BitVec w) (i : Nat) : Bool := m.getLsbD i

/-- FLOOR runs over the marked numbers. -/
def advanceFloor : Nat → Window → Window
  | 0, w => w
  | n + 1, w =>
    let i := w.floor.toNat % 4096
    if bitSet w.map i then advanceFloor n { w with map := w.map &&& ~~~(1#4096 <<< i), floor := w.floor + 1 } else w

/-- A sequence number marked. -/
def markSeq (w : Window) (seq : Nat) : Window := advanceFloor 4096 { w with map := w.map ||| (1#4096 <<< (seq % 4096)) }

def putWindow (s : State) (stack : Nat) (p : AccPacket) (w : Window) : State :=
  s.updFar (fun f => { f with windows := f.windows.filter (fun x => !isWindow stack p x) ++ [w] })

/-- The second row of the table Packet outcomes: a reserved AOP, a Q out of its range, a misaligned address or one outside
the job's memory. -/
def packetBroken (s : State) (j : Job) (p : AccPacket) : Bool :=
  let merge := p.aop == aopMerge
  !(decide (1 ≤ p.aop) && decide (p.aop ≤ 6)) ||
    (if p.aop = aopRes32 then p.q % 2 == 0 || decide (p.q ≤ 2 ^ 20) || decide (2 ^ 31 ≤ p.q) else p.q != 0) ||
    p.dstAddr % (if merge then 64 else 4096) != 0 || !grantedTo s (jobOwns j) p.dstAddr (if merge then 64 else 4096)

/-- Two headers combined as SCATTER.ADD combines them (R51, R196), for the destination `a` and one contribution `b`; a
malformed one leaves its place to the other with cause MALFORMED (R44). Where the KEYSET_TAGs differ the result keeps the prior
header's (DESIGN CHOICE, log 110). The merges into one header are contributions of one sum: a cause that an earlier one originated
stands, as in the worked example of R286, which ends in TAG_MISMATCH whatever the order (DEDUCED, log 151). -/
def mergeHeaders (chains : List Chain) (a b : List Byte) : Hdr :=
  let pa := hdrOf a
  let pb := hdrOf b
  let st (bad : Bool) (h : Hdr) : HState := if bad then hValid else h.state
  let badA := malformed chains a
  let badB := malformed chains b
  let f := if badA then pb else pa
  let g := if badB then pa else pb
  let e := effectOf chains opScatterAdd 0 0 f [f, g]
  let stands := !badA && pa.state != hValid && pa.cause != cInherited && stateOfCause pa.cause == pa.state
  let sc := joinState [st badA pa, st badB pb]
    ((if tagsClash [f, g] then [cTag] else []) ++ e.causes ++ (if badA || badB then [cMalformed] else []) ++
      (if stands then [pa.cause] else []))
  { e.hdr with state := sc.1, cause := sc.2 }

/-- MERGE.HDR at the destination (R286): one single-copy atomic write of the header, which counts where it gives the header another
cause (R54). -/
def applyMerge (s : State) (j : Job) (addr : Nat) (hdr : List Byte) : State :=
  let prior := (farRead s.far addr 64).1
  let h := mergeHeaders s.tab.chains prior hdr
  let t := deviceWrite s addr (hdrBytes h)
  if h.cause = (hdrOf prior).cause && !malformed s.tab.chains prior then t else countOriginated t j.id h.cause

/-- An ADD at the destination: one whole block (R277, R302). -/
def applyAdd (s : State) (p : AccPacket) : State :=
  deviceWrite s p.dstAddr (addPayload p.aop p.q (mergeBase s.far (p.dstAddr / blockBytes)) (padTo blockBytes p.payload))

def applyPacket (s : State) (j : Job) (p : AccPacket) : State :=
  if p.aop = aopMerge then applyMerge s j p.dstAddr (padTo 64 p.payload) else applyAdd s p

def outcomeCode : AccOutcome → Nat
  | .applied => 0
  | .duplicate => 1
  | .rejected => 2
  | .resend => 3

/-- What an answer carries (R285; its layout is log 93). -/
def answerBytes (a : AccAnswer) : List Byte :=
  leBytes 1 a.rjob ++ leBytes 1 a.srcDie ++ leBytes 1 (outcomeCode a.outcome) ++ leBytes 1 a.stack ++ leBytes 4 a.seq

/-- An answer on its way to the source device: on class ANS, where that is another (R285, R355). -/
def answerPacket (s : State) (stack : Nat) (p : AccPacket) (o : AccOutcome) : State :=
  let a : AccAnswer := { rjob := p.rjob, srcDie := p.srcDie, seq := p.seq, stack := stack, outcome := o }
  let s := s.updFab (fun f => { f with answers := f.answers ++ [(p.srcDev, a)] })
  if p.srcDev = s.fab.devNumber then s else sendTo s p.srcDev classAns (answerBytes a)

def postRejected (s : State) (job : Nat) (p : AccPacket) : State :=
  postBoth s { code := 0x0010, job := job, arg0 := p.rjob, arg1 := p.srcDev }

/-- The kind of an exact accumulate: of residues under one prime, or of integers (R280); 0 for none. -/
def exactKind (aop q : Nat) : Nat := if aop = aopRes32 ∨ aop = aopInt32 ∨ aop = aopInt64 then 1 + aop + 8 * q else 0

/-- An accumulate of another device races with the commands of this one that access its block (R219 case 2, R280). -/
def racePacket (s : State) (p : AccPacket) : State :=
  if p.srcDev = s.fab.devNumber then s
  else raceWith s (p.dstAddr, if p.aop = aopMerge then 64 else blockBytes, exactKind p.aop p.q)

/-- A packet with an unmarked number: applied or rejected, marked, answered. -/
def takePacket (s : State) (stack : Nat) (j : Job) (p : AccPacket) (w : Window) : State :=
  let broken := packetBroken s j p
  let s := if broken then
      postRejected (updJob s j.id (fun x => { x with bounds := satInc x.bounds })) j.id p
    else applyPacket (racePacket s p) j p
  answerPacket (putWindow s stack p (markSeq w p.seq)) stack p (if broken then .rejected else .applied)

/-- A packet at its controller (R284). -/
def receivePacket (s : State) (p : AccPacket) : State :=
  let stack := packetStack s p.dstAddr
  if !packetIntact p then answerPacket s stack p .resend
  else match acceptingJob s p with
    | none => answerPacket (postRejected s 0xFFFF p) stack p .rejected
    | some j =>
      let w := windowOf s stack p
      let delta := (p.seq + 2 ^ 32 - w.floor.toNat) % 2 ^ 32
      if w.isSealed || s.fab.workers.any (fun x => x.dev == p.srcDev && x.lost) then answerPacket s stack p .rejected
      else if 2 ^ 31 ≤ delta ∨ bitSet w.map (p.seq % 4096) then answerPacket s stack p .duplicate
      else if 4096 ≤ delta then postBoth s { code := 0x0011, job := j.id, arg0 := p.rjob, arg1 := p.srcDev }
      else takePacket s stack j p w

/-- ACCUMULATE_PACKET. -/
def execAccumulatePacket (packet : AccPacket) (s : State) : Result := .next (receivePacket s packet)

/-- MERGE_HDR: a packet whose AOP is MERGE.HDR; the row carries no other. -/
def execMergeHdr (packet : AccPacket) (s : State) : Result :=
  .next (if packet.aop = aopMerge then receivePacket s packet else s)

/-- A DMA transfer that brings data from outside the core (R63). -/
def inboundFlight (c : CoreCtx) (f : InFlight) : Bool :=
  match f.instr with
  | .dma o => (c.entry f.slot o.src.handle).place != 0
  | _ => false

/-! Reorder buffers (R106). -/

/-- A load that holds a reorder buffer: an automorphism other than the identity, STRIDE, TRANSPOSE. -/
def reordersLoad (ltw : Nat) : Bool := (ltwGalois ltw != 0 && ltwElt ltw != 1) || ltwPerm ltw != 0

/-- Reorder buffers an instruction's loads hold. -/
def reorderNeed (i : CoreInstr) : Nat :=
  let loads : List Nat := match i with
    | .nttFwd o | .nttInv o => [o.ltw]
    | .matmul o | .inner o => o.a.ltw :: (if o.key.isNone then [o.b.ltw] else [])
    | .bconvFast o | .bconvExact o => [o.src.ltw]
    | .vxe o => o.srcs.map (·.ltw)
    | .dma o => [o.src.ltw]
    | _ => []
  (loads.filter reordersLoad).length

/-- The buffers of the engine path, or of the inbound path, that no started instruction holds. -/
def freeBuffers (c : CoreCtx) (inbound : Bool) : Nat :=
  let held := ((c.flight.filter (fun f => f.started && (if inbound then f.target == 3 && inboundFlight c f else decide (f.target < 3)))).map
    (fun f => reorderNeed f.instr)).foldl (· + ·) 0
  (if inbound then 1 else 2) - held

/-- The next instruction of an engine starts when it has none that runs, and the buffers of its loads are free. -/
def startEngine (c : CoreCtx) (target : Nat) : CoreCtx :=
  if c.flight.any (fun f => f.target == target && f.started) then c
  else match c.flight.find? (fun f => f.target == target) with
    | some n => if reorderNeed n.instr ≤ freeBuffers c false
        then { c with flight := updWhere (fun f => f.id == n.id) (fun f => { f with started := true }) c.flight } else c
    | none => c

/-- What can start of the engines, in the order NTT engine, MXA, VXE (R106). -/
def startEngines (c : CoreCtx) : CoreCtx := [0, 1, 2].foldl startEngine c

/-! Tiles that fail (R236, R390, R392, R395). -/

/-- A tile is re-issued: its claim keeps all but ATTEMPT, and it waits to be placed before any new claim. -/
def reissueTile (t : Tile) : Tile :=
  { t with status := 1, reissue := true, sent := false, claim := { t.claim with attempt := min (t.claim.attempt + 1) 255 } }

def updTile (s : State) (num serial index : Nat) (f : Tile → Tile) : State :=
  updCmd s num (isSerial serial) (fun c => { c with tiles := updWhere (fun t => t.claim.claimIndex == index) f c.tiles })

/-- The task of a tile leaves its core; the engines and reorder buffers it held are free for what waits (R106). -/
def dropTask (job num serial index : Nat) (c : CoreCtx) : CoreCtx :=
  let gone := (c.slots.filter (fun t => ofCommand job serial t.2 && t.2.claim.claimIndex == index)).map (·.1)
  startEngines { c with
           slots := c.slots.filter (fun t => !gone.contains t.1), flight := c.flight.filter (fun i => !gone.contains i.slot)
           held := c.held.filter (fun h => !(h.1 == num && h.2.opSerial == serial && h.2.claimIndex == index)) }

/-- A tile pre-claimed for a command that has not dispatched (R245, R247). -/
def preclaimed (s : State) (num index : Nat) : Option Tile :=
  ((findQueue s num).bind (fun q => q.cmds.find? (fun c => c.phase == .fetched && c.early))).bind (fun c =>
    c.tiles.find? (fun t => t.claim.claimIndex == index))

/-- A pre-claimed tile of a core that goes out of service waits, re-issued, for its command's dispatch (R236, R377). -/
def failPreclaim (s : State) (num index : Nat) : State :=
  let s := mapCores s (fun c => { c with held := c.held.filter (fun h =>
    !(h.1 == num && h.2.opSerial == boundarySerial && h.2.claimIndex == index)) })
  updCmd s num (fun c => c.phase == .fetched && c.early) (fun c => { c with
    tiles := updWhere (fun t => t.claim.claimIndex == index) reissueTile c.tiles })

/-- A tile fails: an in-place tile that has begun to write, and a fourth attempt, abort the command, the latter as a fault of class
REPLAY_LIMIT (R384); every other is re-issued. -/
def failTile (s : State) (num serial index cls : Nat) : State :=
  if serial = boundarySerial && (preclaimed s num index).isSome then failPreclaim s num index else
  match findQueue s num, (tilesOf s num serial).find? (fun t => t.claim.claimIndex == index) with
  | some q, some t =>
    let inPlace := ((findCmd s num serial).map (·.inPlace)).getD false
    if inPlace && t.begun then abortCmd s num serial stAborted cls
    else if 3 ≤ t.claim.attempt then abortCmd (noteFault s 0x13 t.core q.job) num serial stAborted 0x13
    else settleRetires (updTile (idleAll (mapCores s (dropTask q.job num serial index)) (s.cores.map (·.1))) num serial index reissueTile)
  | _, _ => s

/-! At the source (R282, R285, R286, R288, R393). -/

def isStream (rjob stack : Nat) (x : Stream) : Bool := x.rjob == rjob && x.stack == stack

def nextSeq (d : DieState) (rjob stack : Nat) : Nat := ((d.streams.find? (isStream rjob stack)).map (·.next)).getD 0

/-- A packet of a stream that holds a number: payload from its claim on, a header merge once it is sent. -/
def onStream (rjob stack : Nat) (p : OutPacket) : Bool :=
  p.packet.rjob == rjob && p.stack == stack && (p.sends != 0 || p.packet.aop != aopMerge)

/-- U: how far the oldest unacknowledged number of a stream lies behind the next. -/
def inFlight (d : DieState) (rjob stack : Nat) : Nat :=
  (d.sent.filter (onStream rjob stack)).foldl (fun m p => max m ((nextSeq d rjob stack + 2 ^ 32 - p.packet.seq) % 2 ^ 32)) 0

/-- Every stream has room for some more packets (R282). -/
def streamsHaveRoom (d : DieState) (ps : List OutPacket) : Bool :=
  ps.all (fun p => decide (inFlight d p.packet.rjob p.stack +
    (ps.filter (fun x => x.packet.rjob == p.packet.rjob && x.stack == p.stack)).length ≤ 4096))

/-! The sequence log (R282, R288). -/

/-- The log's range for the packets like one of a claim: its payload packets, or the MERGE.HDR of one header (R282). -/
def inRange (p : OutPacket) (x : SeqRange) : Bool :=
  x.queue == p.queue && x.serial == p.serial && x.claimIndex == p.packet.claim.claimIndex &&
    x.merge == (if p.packet.aop == aopMerge then some p.packet.dstAddr else none) && x.stack == p.stack

def noteSeq (p : OutPacket) (n : Nat) (l : List SeqRange) : List SeqRange :=
  if l.any (inRange p) then updWhere (inRange p) (fun x => { x with seqs := x.seqs ++ [n] }) l
  else l ++ [{ queue := p.queue, serial := p.serial, claimIndex := p.packet.claim.claimIndex
               merge := if p.packet.aop == aopMerge then some p.packet.dstAddr else none, stack := p.stack, seqs := [n] }]

/-- A packet takes the next number of its stream, which the log notes. -/
def numberPacket (d : DieState) (p : OutPacket) : DieState :=
  let n := nextSeq d p.packet.rjob p.stack
  { d with
    streams := d.streams.filter (fun x => !isStream p.packet.rjob p.stack x) ++
      [{ rjob := p.packet.rjob, stack := p.stack, next := (n + 1) % 2 ^ 32 }]
    seqLog := noteSeq p n d.seqLog }

/-- Packets with the numbers the log holds for their claim, in order within each stream. -/
def withSeqs (d : DieState) (ps : List OutPacket) : List OutPacket :=
  ps.zipIdx.map (fun x =>
    let range := d.seqLog.find? (inRange x.1)
    let k := ((ps.take x.2).filter (fun y => range.any (inRange y))).length
    let seqs := (range.map (·.seqs)).getD []
    { x.1 with packet := sealPacket { x.1.packet with seq := seqs.getD k 0 } })

/-- The packets of a claimed tile receive their numbers; none is sent yet. -/
def numberPackets (ps : List OutPacket) (d : DieState) : DieState :=
  let e := ps.foldl numberPacket d
  { e with sent := e.sent ++ withSeqs e (ps.map (fun p => { p with sends := 0 })) }

/-- The log holds the packets of a claim already. -/
def numberedTile (d : DieState) (num serial index : Nat) : Bool :=
  d.seqLog.any (fun x => x.queue == num && x.serial == serial && x.claimIndex == index && x.merge.isNone)

/-! Sending. -/

/-- The SINK of a command's linked job, when it is another device (R363). -/
def sinkOf (s : State) (num : Nat) : Option Nat :=
  (((findQueue s num).bind (fun q => findJob s q.job)).bind (fun j => j.link)).bind (fun l =>
    if l.sink = s.fab.devNumber then none else some l.sink)

/-- The packet goes over the links on class ACC (R355). -/
def overLink (s : State) (p : OutPacket) : State :=
  match sinkOf s p.queue with
  | none => s
  | some d => sendTo s d classAcc (packetHead p.packet ++ leBytes 4 p.packet.phcrc ++ p.packet.payload)

def ofCmd (num serial : Nat) (p : OutPacket) : Bool := p.queue == num && p.serial == serial

/-- The packets of a command still to be acknowledged. -/
def unacked (s : State) (num serial : Nat) : List (Nat × OutPacket) :=
  (List.range 8).flatMap (fun d => ((s.die d).sent.filter (ofCmd num serial)).map (fun p => (d, p)))

/-- A die takes an acknowledgement (R285). -/
def acknowledge (s : State) (die : Nat) (p : OutPacket) (rejected : Bool) : State :=
  let s := s.updDie die (fun d => { d with sent := d.sent.filter (· != p) })
  if rejected then updCmd s p.queue (isSerial p.serial) (fun c => { c with rejected := true }) else s

/-- A packet reaches a controller of this device, and its answer the die: both at once, which is timing only. One that is
discarded or to be sent again stays unacknowledged. -/
def arriveHome (s : State) (die : Nat) (p : OutPacket) : State :=
  let t := receivePacket s p.packet
  let answer : Option AccOutcome := (t.fab.answers.drop s.fab.answers.length).head?.map (fun a => a.2.outcome)
  let t := t.updFab (fun f => { f with answers := s.fab.answers })
  match answer with
  | some .applied | some .duplicate => acknowledge t die p false
  | some .rejected => acknowledge t die p true
  | _ => t

/-- A packet is on its way. -/
def dispatchPacket (die : Nat) (s : State) (p : OutPacket) : State := if p.home then arriveHome s die p else overLink s p

/-- Packets a die sends, in order. -/
def sendPackets (s : State) (die : Nat) (ps : List OutPacket) : State :=
  let ps := ps.map (fun p => { p with sends := 1, lastSent := s.now })
  ps.foldl (dispatchPacket die) (s.updDie die (fun d => { d with sent := d.sent ++ ps }))

/-- The MERGE.HDRs of a command go out once every tile has sent its payload and all of it is acknowledged (R286), under the
numbers the log holds for them, or the next ones while their streams have room (R282). -/
def releaseMerge (s : State) (x : Nat × OutPacket) : State :=
  let d := s.die x.1
  let logged := d.seqLog.any (inRange x.2)
  if !logged && !streamsHaveRoom d [x.2] then s
  else
    let s := s.updDie x.1 (fun d =>
      let d := { d with sent := d.sent.filter (· != x.2) }
      if logged then d else numberPacket d x.2)
    sendPackets s x.1 (withSeqs (s.die x.1) [x.2])

def releaseMerges (s : State) (num serial : Nat) : State :=
  let open_ := unacked s num serial
  if open_.any (fun x => x.2.packet.aop != aopMerge) || (tilesOf s num serial).any (fun t => !t.sent) then s
  else (open_.filter (fun x => x.2.sends == 0)).foldl releaseMerge s

/-- The packet an answer or a timeout names. -/
def sentPacket (s : State) (die rjob stack seq : Nat) : Option OutPacket :=
  (s.die die).sent.find? (fun p => onStream rjob stack p && p.sends != 0 && p.packet.seq == seq)

/-- The commands that still have packets. -/
def sendingCmds (s : State) : List (Nat × Nat) :=
  ((List.range 8).flatMap (fun d => (s.die d).sent.map (fun p => (p.queue, p.serial)))).eraseDups

/-- An acknowledgement frees its number: what of any command waited for room goes on (R282, R286). -/
def ackPacket (s : State) (die : Nat) (p : OutPacket) (rejected : Bool) : State :=
  let s := acknowledge s die p rejected
  (((p.queue, p.serial) :: sendingCmds s).eraseDups).foldl (fun s c => releaseMerges s c.1 c.2) s

/-- A packet is sent again under its number, or after 8 sends its tile fails (R393). The re-issued tile sends it again
(R288). -/
def resendPacket (s : State) (die : Nat) (p : OutPacket) : State :=
  let mark (n : Nat) (x : OutPacket) : OutPacket := if x = p then { x with sends := n, lastSent := s.now } else x
  let again (n : Nat) (s : State) : State := dispatchPacket die (s.updDie die (fun d => { d with sent := d.sent.map (mark n) })) (mark n p)
  if p.sends < 8 then again (p.sends + 1) s
  else failTile (again 1 s) p.queue p.serial p.packet.claim.claimIndex 0x13

/-- ACCUMULATE_ANSWER. -/
def execAccumulateAnswer (answer : AccAnswer) (s : State) : Result :=
  .next (match sentPacket s answer.srcDie answer.rjob answer.stack answer.seq with
    | none => s
    | some p => match answer.outcome with
      | .applied | .duplicate => ackPacket s answer.srcDie p false
      | .rejected => ackPacket s answer.srcDie p true
      | .resend => resendPacket s answer.srcDie p)

/-- PACKET_RESEND_TIMEOUT: 20 ms after its last send (R393). -/
def execPacketResendTimeout (die : Fin 8) (rjob stack seq : Nat) (s : State) : Result :=
  .next (match sentPacket s die.val rjob stack seq with
    | some p => if 20 * msTicks ≤ s.since p.lastSent then resendPacket s die.val p else s
    | none => s)

end Sys2Proof.Machine
end

