-- ==== Sys2Proof/Machine/OpsData.lean ====
section
/-! DEFINITION. The operations that move or combine whole tensors (R208): MAP, COPY, GATHER, SCATTER, SCATTER.ADD (R193 to
R196), REMOTE.ADD (R282, R283, R286). -/

namespace Sys2Proof.Machine

open Sys2Proof

/-! Header-less operands of an entry. -/

/-- The prime of limb index i of a header-less res32 operand (R206); 0 where the slot names none. -/
def entryPrime (s : State) (r : OpRun) (i : Nat) : Nat :=
  ((((runTarget s r.job r.cmd.entry).bind (fun x => findChain s x.1.chainId)).bind
    (fun c => c.slotPrime (r.entry.firstSlot + i)))).getD 0

/-- The extents of the k-th descriptor at issue and the dimensions held to ALLOC (R178). -/
def flatExtents (r : OpRun) (k : Nat) : List Nat × List Nat := extentsOf (r.desc k) r.sregs r.bound r.lvl2

/-- The limb dimension of an operation on tensors (R136). -/
def OpRun.limbDim (r : OpRun) : Nat := instrLimbDim (r.sources.map r.desc) (r.desc 0)

/-- The extents operands share: each the smallest; the destination does not count along reduced dimensions (R140, R177). -/
def sharedExtents (r : OpRun) (ks : List Nat) (reduced : Nat) : List Nat :=
  (List.range 6).map (fun i =>
    (minList ((ks.filter (fun k => k != 0 || decide (reduced ≤ i))).map (fun k => (flatExtents r k).1.getD i 1))).getD 1)

/-- Some operand's extents differ from the shared ones. -/
def extentsVary (r : OpRun) (ks : List Nat) (reduced : Nat) : Bool :=
  ks.any (fun k => (List.range 6).any (fun i => (k != 0 || decide (reduced ≤ i)) &&
    (flatExtents r k).1.getD i 1 != (sharedExtents r ks reduced).getD i 1))

/-- The reports of extents held to ALLOC and of extents that differ (R177, R178). -/
def reportExtents (r : OpRun) (ks : List Nat) (reduced : Nat) (s : State) : State :=
  let s := ks.foldl (fun s k => match (flatExtents r k).2.head? with
    | some i => reportItems r k ruleAlloc (some (allocArg r k i)) s
    | none => s) s
  if extentsVary r ks reduced then ks.foldl (fun s k => reportItems r k ruleDiffer none s) s else s

/-- An item of a header-less operand as delivered, with the report of what lies beyond its handle. -/
def fetchOperand (s : State) (r : OpRun) (form : Desc → Nat → Nat → Nat) (rows : List Nat) (reduced : Nat) (ext : List Nat)
    (k b0 b1 : Nat) : Words :=
  fetchItem s (r.view k) (r.desc k) r.limbDim form (entryPrime s r) r.lvl2 (padded (r.desc k) rows reduced ext) b0 b1

/-- The blocks that load touches, repaired before it (R387). -/
def repairOperand (r : OpRun) (rows : List Nat) (reduced : Nat) (ext : List Nat) (k b0 b1 : Nat) (s : State) : State :=
  let d := r.desc k
  (r.view k).repair s r.job.id d.width (elemOffsets d r.lvl2 (readExtents d (padded d rows reduced ext)) b0 b1)

/-! MAP (R137, R208). -/

/-- The chain of a MAP over the entry's own descriptors. -/
def mapChain (r : OpRun) : Option VxeOp :=
  r.body.chain.map (fun o => { o with srcs := r.sources.map r.desc, dst := r.desc 0, slot0 := r.entry.firstSlot })

/-- The scalars of a chain under a prime: the low 32 bits of its registers, residues in Montgomery form (R137 rule 2). -/
def chainScalars (o : VxeOp) (sregs : Tab W64) (q : Nat) : List Nat :=
  o.scalars.map (fun x =>
    let v := (tabGet 0 sregs x).toNat % 2 ^ 32
    if chainType o = tyRes32 then toMont q v else v)

/-- Elements written by the operation: to the destination, to the blocks the command leaves, the report (R71, R82, R372). -/
def putItem (s : State) (r : OpRun) (b0 b1 : Nat) (items : List (Int × Nat)) : State :=
  let w := (r.desc 0).width
  let v := r.view 0
  let (s, out) := OpRun.putDest s r w items
  let s := if r.folds then s else noteBlocks s r ((items.filter (fun x => v.inside x.1 w)).map (fun x => (v.addr x.1, w)))
  r.reportOut s v 0 (r.itemIndex 0 b0 b1) out

def mapItem (r : OpRun) (o : VxeOp) (ext : List Nat) (s : State) (b0 b1 : Nat) : State :=
  let s := r.sources.foldl (fun s k => repairOperand r [] o.reduce ext k b0 b1 s) s
  let ws := r.sources.map (fun k => (k, fetchOperand s r (deliver true) [] o.reduce ext k b0 b1))
  let s := ws.foldl (fun s w => r.reportOut s (r.view w.1) w.1 (r.itemIndex w.1 b0 b1) w.2.out) s
  putItem s r b0 b1 (vxeItem o (entryPrime s r) (chainScalars o r.sregs) r.lvl2 ext (ws.map (·.2)) b0 b1)

/-- MAP over its items; an extent of 0 makes it a no-op (R135). -/
def mapRun (r : OpRun) (s : State) : State :=
  match mapChain r with
  | none => s
  | some o =>
    let ks := 0 :: r.sources
    let ext := sharedExtents r ks o.reduce
    let s := reportExtents r ks o.reduce s
    if ext.any (· == 0) then s else forItems r ks (mapItem r o ext) s

/-- MAP. -/
def execMap (queue : Nat) (s : State) : Result := runObj queue opMap mapRun s

/-! Slices (R187, R195, R206). -/

/-- The words of a source item in the destination's form. -/
def sliceWords (s : State) (r : OpRun) (ext : List Nat) (x b1 : Nat) : Words :=
  fetchOperand s r (fun d q w => convertWord d (r.desc 0) q w) [] 0 ext 1 x b1

/-- Write one slice. -/
def putSlice (s : State) (r : OpRun) (ext : List Nat) (b0 b1 : Nat) (f : List Nat → Nat) : State :=
  putItem s r b0 b1 (itemWrites (r.desc 0) r.lvl2 (padded (r.desc 0) [] 0 ext) b0 b1 f)

/-- Slice x of S copied to slice d of D, or zeros. -/
def moveSlice (r : OpRun) (ext : List Nat) (s : State) (d : Nat) (x : Option Nat) (b1 : Nat) : State :=
  match x with
  | none => putSlice s r ext d b1 (fun _ => 0)
  | some x =>
    let s := repairOperand r [] 0 ext 1 x b1 s
    let w := sliceWords s r ext x b1
    let s := r.reportOut s (r.view 1) 1 (r.itemIndex 1 x b1) w.out
    putSlice s r ext d b1 (wordAt w)

/-- The adder of a header-less SCATTER.ADD (R195). -/
def sliceAop (d : Desc) : Nat :=
  if d.etype = tyRes32 then aopRes32
  else if d.etype = tyFp32 then (if d.twoWord then aopFp64 else aopFp32)
  else (if d.twoWord then aopInt64 else aopInt32)

/-! COPY. -/

def copyFlat (r : OpRun) (s : State) : State :=
  let ext := sharedExtents r [0, 1] 0
  let s := reportExtents r [0, 1] 0 s
  if ext.any (· == 0) then s
  else forItems r [0, 1] (fun s b0 b1 =>
    let s := repairOperand r [] 0 ext 1 b0 b1 s
    let w := sliceWords s r ext b0 b1
    let s := r.reportOut s (r.view 1) 1 (r.itemIndex 1 b0 b1) w.out
    putSlice s r ext b0 b1 (wordAt w)) s

/-- Objects keep every header field but LAYOUT (R185); tensors keep their words. -/
def copyRun (r : OpRun) (s : State) : State :=
  if (r.desc 0).hdr then runObjects wantResult neverRaw keepPoly r s else copyFlat r s

/-- COPY. -/
def execCopy (queue : Nat) (s : State) : Result := runObj queue opCopy copyRun s

/-! Index tensors (R193, R194). -/

def nullIndex : Nat := 0xFFFFFFFF
def ruleIndex : Nat := 3

/-- An index tensor: its M words, whether a block failed, and what was read beyond the handle. -/
structure Indices where
  words : List Nat
  bad : Bool
  out : Option Int
deriving Repr, Inhabited

/-- The index tensor of the outer item b1, read as any operand is. -/
def readIndices (s : State) (r : OpRun) (k b1 : Nat) : Indices :=
  let m := (flatExtents r k).1.getD 0 0
  let w := fetchItem s (r.view k) (r.desc k) 6 (fun _ _ x => x) (fun _ => 0) 0 (padded (r.desc k) [] 0 [m, 1, 1, 1, 1, 1]) 0 b1
  { words := w.data.toList.take m, bad := w.bad, out := w.out }

/-- The blocks of an index tensor's outer item, repaired before it is read (R387). -/
def repairIndices (r : OpRun) (b1 : Nat) (s : State) (k : Nat) : State :=
  repairOperand r [] 0 [(flatExtents r k).1.getD 0 0, 1, 1, 1, 1, 1] k 0 b1 s

/-- The index tensors of an entry: Y and X by descriptor (R208). -/
def indexKs (r : OpRun) : List Nat := r.sources.drop 1

/-- What one m asks for: a destination item and a source item, none of one being NULL. -/
structure Move where
  dst : Option Nat
  src : Option Nat
  bad : Option Nat
deriving DecidableEq, Repr

/-- Position m under the three operations (R194): `bad` is the index value that is out of range. -/
def moveOf (r : OpRun) (op nD nS m : Nat) (words : List Nat) : Move :=
  let w (i : Nat) : Nat := words.getD i 0
  let val (x : Nat) : Option Nat := if x = nullIndex then none else some x
  let past (x n : Nat) : Option Nat := if x ≠ nullIndex ∧ n ≤ x then some x else none
  if op = opGather then { dst := some m, src := val (w 0), bad := past (w 0) nS }
  else if r.entry.numSrc = 3 then
    { dst := val (w 0), src := val (w 1), bad := (past (w 0) nD).orElse (fun _ => past (w 1) nS) }
  else { dst := val (w 0), src := some m, bad := past (w 0) nD }

/-- The moves of an instruction in ascending m. -/
def movesOf (r : OpRun) (ix : List Indices) : List Move :=
  let n := (minList (ix.map (fun i => i.words.length))).getD 0
  (List.range n).map (fun m => moveOf r r.entry.opcode (r.batchCounts 0).1 (r.batchCounts 1).1 m
    (ix.map (fun i => i.words.getD m 0)))

/-- An index out of range counts once; for SCATTER and SCATTER.ADD it posts an event too (R194, R518). -/
def reportMoves (r : OpRun) (b1 : Nat) (ms : List Move) (s : State) : State :=
  ms.zipIdx.foldl (fun s m => match m.1.bad with
    | some v => r.report s 2 (b1 * ms.length + m.2) ruleIndex (if r.entry.opcode = opGather then none else some v)
    | none => s) s

/-- The destination items a scatter names, each with the m and source items that name it in ascending m (R195). -/
def scatterTasks (ms : List Move) : List (Nat × List (Nat × Nat)) :=
  let good := ms.zipIdx.filterMap (fun m => match m.1.bad, m.1.dst, m.1.src with
    | none, some d, some x => some (d, (m.2, x))
    | _, _, _ => none)
  (sortBy (fun x => x) (good.map (·.1)).eraseDups).map (fun d => (d, (good.filter (fun g => g.1 == d)).map (·.2)))

/-! Objects moved by index. -/

/-- One object copied from item x of S to item d of D. -/
def moveObject (r : OpRun) (causes : List Nat) (s : State) (d x b1 : Nat) : State :=
  let o := readHdr s r 1 x b1
  if noPrimes s r [(1, o)] then zeroResult s r d b1 else
  let e := effectOf s.tab.chains r.entry.opcode 0 0 o.hdr [o.hdr]
  let s := repairPayload r s 1 x b1 (2 ^ 32) o
  let o := readPayload s r 1 x b1 (2 ^ 32) o
  let s := r.reportRead s 1 (r.itemIndex 1 x b1) o
  let qs := resultPrimes s e.hdr (destLimbs (r.desc 0) e.hdr (2 ^ 32))
  writeResult s r d b1 e.hdr false (keepPoly (tmplComps (r.desc 0)) qs (tmplN (r.desc 0)) [o]) (if o.held then o.limbs else 2 ^ 32)
    [o.state] (tagCause [o] ++ e.causes ++ o.causes ++ causes)

/-- An object of zeros from D's template (table Index outcomes). -/
def emptyObject (r : OpRun) (causes : List Nat) (s : State) (d b1 : Nat) : State :=
  writeResult s r d b1 (r.template s 0) false [] (2 ^ 32) [] causes

/-- The headers of the contributions to item d of D and its prior header, as SCATTER.ADD combines them: pairwise with the
prior header (R196). The tag and slot count are those of the first contribution: the destination is no source (R209, DESIGN
CHOICE where its prior tag differs, log 110). -/
def scatterEffects (s : State) (p : Obj) (os : List Obj) : List (Obj × Effect) :=
  let lead := ((os.head?).map (·.hdr)).getD p.hdr
  os.map (fun o => (o, effectOf s.tab.chains opScatterAdd 0 0 lead [p.hdr, o.hdr]))

/-- The level of item d after its contributions: the lowest over all of them (R196). -/
def scatterLevel (p : Obj) (os : List Obj) : Nat := (minList (p.hdr.level :: os.map (·.hdr.level))).getD 0

/-- Item d of D takes contributions (R196): their reads and causes, and its new header, held until every one is visible. The
contributions themselves go as packets of the tiles. A malformed prior header counts as a zero payload. -/
def beginScatter (r : OpRun) (causes : List Nat) (s : State) (d : Nat) (xs : List Nat) (b1 : Nat) : State :=
  let dd := r.desc 0
  let s := (r.view 0).repair s r.job.id 64 [r.hdrAt d b1]
  let p := readHdr s r 0 d b1
  let os := xs.map (fun x => readHdr s r 1 x b1)
  let s := beginDest s r ((r.view 0).addr (r.hdrAt d b1)) p.hdr
  if noPrimes s r ((0, p) :: os.map (fun o => (1, o))) then zeroResult s r d b1 else
  let s := (xs.zip os).foldl (fun s o => repairPayload r s 1 o.1 b1 (limbsAt dd p.hdr.level) o.2) s
  let os := (xs.zip os).map (fun o => (o.1, readPayload s r 1 o.1 b1 (limbsAt dd p.hdr.level) o.2))
  let s := os.foldl (fun s o => r.reportRead s 1 (r.itemIndex 1 o.1 b1) o.2) s
  let pairs := scatterEffects s p (os.map (·.2))
  let level := scatterLevel p (os.map (·.2))
  let limbs := destLimbs dd p.hdr (2 ^ 32)
  let s := if p.malformed then
      (putPayload s r d b1 p.hdr.level limbs (List.replicate (tmplComps dd * limbs * tmplN dd) 0)).1
    else s
  let start : Int := (dd.dataOffset : Int) + itemOffset dd d b1
  let s := noteBlocks s r [((r.view 0).addr start, payloadBytes dd p.hdr.level)]
  let s := r.reportOut s (r.view 0) 0 (r.itemIndex 0 d b1)
    (lowest (p.out.toList ++ ((r.view 0).outside (payloadBytes dd p.hdr.level) start).toList))
  let s := if dd.tKind != 4 && decide ((dd.dim 1).alloc < limbsAt dd p.hdr.level) then
      r.report s 0 (r.itemIndex 0 d b1) ruleAlloc (some (allocArg r 0 1))
    else s
  let h := ((pairs.head?).map (·.2.hdr)).getD p.hdr
  holdHdr s r d b1 { h with level := if h.kind = 4 then h.level else level } (p.state :: os.map (fun o => o.2.state))
    (pairs.flatMap (fun x => tagCause [p, x.1] ++ x.2.causes) ++ p.causes ++ os.flatMap (fun o => o.2.causes) ++ causes)

/-- Where the final level is below the prior one, the payload moves to the layout of the final level, before its header is
written (R196). -/
def moveKept (r : OpRun) (s : State) (x : HeldHdr) : State :=
  let p := readHdr s r 0 x.b0 x.b1
  let h := hdrOf x.hdr
  if p.hdr.level ≤ h.level then s
  else
    let limbs := destLimbs (r.desc 0) h (2 ^ 32)
    let o := readPayload s r 0 x.b0 x.b1 limbs { p with malformed := false }
    (putPayload s r x.b0 x.b1 h.level (min limbs o.limbs) (flatten (r.desc 0) (min limbs o.limbs) o.poly)).1

/-- The payloads of a SCATTER.ADD's results before their headers are written. -/
def settleScatter (r : OpRun) (s : State) : State :=
  if r.entry.opcode = opScatterAdd && (r.desc 0).hdr then
    (((findCmd s r.queue r.serial).map (·.hdrs)).getD []).foldl (moveKept r) s
  else s

/-! GATHER, SCATTER and SCATTER.ADD. -/

/-- What one destination item of a gather receives. -/
def gatherItem (r : OpRun) (ext : List Nat) (fault : List Nat) (b1 : Nat) (s : State) (m : Move) : State :=
  match m.dst with
  | none => s
  | some d =>
    if (r.desc 0).hdr then
      match m.bad, m.src with
      | some _, _ => emptyObject r (cShape :: fault) s d b1
      | none, none => emptyObject r fault s d b1
      | none, some x => moveObject r fault s d x b1
    else moveSlice r ext s d (if m.bad.isSome then none else m.src) b1

/-- The slices a header-less SCATTER.ADD or REMOTE.ADD adds onto item d: what lies beyond the handles is reported, the blocks
of this device noted. -/
def beginSlices (r : OpRun) (ext : List Nat) (s : State) (d : Nat) (xs : List Nat) (b1 : Nat) : State :=
  let w := (r.desc 0).width
  let v := r.view 0
  let s := xs.foldl (fun s x => repairOperand r [] 0 ext 1 x b1 s) s
  let s := xs.foldl (fun s x => r.reportOut s (r.view 1) 1 (r.itemIndex 1 x b1) (sliceWords s r ext x b1).out) s
  let offs := elemOffsets (storeDesc (r.desc 0)) r.lvl2 (padded (r.desc 0) [] 0 ext) d b1
  let s := if r.entry.opcode = opRemoteAdd then s
    else noteBlocks s r ((offs.filter (fun o => v.inside o w)).map (fun o => (v.addr o, w)))
  r.reportOut s v 0 (r.itemIndex 0 d b1) (lowest (offs.filterMap (v.outside w)))

/-- What one destination item of a scatter receives: the highest m of a SCATTER, the sum of a SCATTER.ADD (R195). -/
def scatterItem (r : OpRun) (ext : List Nat) (fault : List Nat) (b1 : Nat) (s : State) (t : Nat × List (Nat × Nat)) : State :=
  if r.entry.opcode = opScatterAdd then
    (if (r.desc 0).hdr then beginScatter r fault s t.1 (t.2.map (·.2)) b1 else beginSlices r ext s t.1 (t.2.map (·.2)) b1)
  else match t.2.getLast? with
    | none => s
    | some (_, x) => if (r.desc 0).hdr then moveObject r fault s t.1 x b1 else moveSlice r ext s t.1 (some x) b1

/-- The reports of the index tensors of an outer item: held to ALLOC, of different lengths, beyond the handle. -/
def reportIndices (r : OpRun) (b1 : Nat) (ix : List (Nat × Indices)) (s : State) : State :=
  let s := ix.foldl (fun s i => if (flatExtents r i.1).2.contains 0 then r.report s i.1 b1 ruleAlloc (some (allocArg r i.1 0)) else s) s
  let s := ix.foldl (fun s i => r.reportOut s (r.view i.1) i.1 b1 i.2.out) s
  if ix.any (fun i => ix.any (fun j => i.2.words.length != j.2.words.length)) then
    ix.foldl (fun s i => r.report s i.1 b1 ruleDiffer none) s
  else s

/-- The index tensors of an outer item. -/
def indicesAt (s : State) (r : OpRun) (b1 : Nat) : List (Nat × Indices) := (indexKs r).map (fun k => (k, readIndices s r k b1))

/-- A gather or scatter of one outer item. -/
def indexedOuter (r : OpRun) (ext : List Nat) (s : State) (b1 : Nat) : State :=
  let s := (indexKs r).foldl (repairIndices r b1) s
  let ix := indicesAt s r b1
  let s := reportIndices r b1 ix s
  let ms := movesOf r (ix.map (·.2))
  let s := reportMoves r b1 ms s
  let fault := if ix.any (fun i => i.2.bad) then [cFault] else []
  if !(r.desc 0).hdr && ext.any (· == 0) then s
  else if r.entry.opcode = opGather then ms.foldl (gatherItem r ext fault b1) s
  else (scatterTasks ms).foldl (scatterItem r ext fault b1) s

/-- Outer items of a gather or scatter: the operands share batch loop 1; an index tensor whose own loop 0 is empty leaves none
(R177, R180, R193). -/
def outerItems (r : OpRun) : Nat :=
  if (indexKs r).any (fun k => (r.batchCounts k).1 == 0) then 0
  else (minList ((List.range (r.entry.numSrc + 1)).map (fun k => (r.batchCounts k).2))).getD 0

/-- A gather or scatter over its outer batch. -/
def indexedRun (r : OpRun) (s : State) : State :=
  let ext := sharedExtents r [0, 1] 0
  let s := if (r.desc 0).hdr then s else reportExtents r [0, 1] 0 s
  let s := r.reportCounts s ((List.range (r.entry.numSrc + 1)).map (fun k => (k, (0, (r.batchCounts k).2))))
  (List.range (outerItems r)).foldl (indexedOuter r ext) s

/-- GATHER. -/
def execGather (queue : Nat) (s : State) : Result := runObj queue opGather indexedRun s
/-- SCATTER. -/
def execScatter (queue : Nat) (s : State) : Result := runObj queue opScatter indexedRun s

/-! Contributions as packets: REMOTE.ADD and SCATTER.ADD (R277, R282, R283, R286). -/

/-- A block of an accumulate before it has a tile: item, limb position, coefficient block, prime, address at the SINK,
bytes. -/
structure AccBlock where
  item : Nat
  limb : Nat
  blk : Nat
  prime : Nat
  addr : Nat
  data : List Byte
deriving Repr, Inhabited

/-- The limb position and coefficient block of block k of a payload (R45, R260). -/
def payloadBlockAt (d : Desc) (limbs k : Nat) : Nat × Nat :=
  let n := tmplN d / 1024
  if isTiled d then (k % limbs, k / limbs % n) else (k / n % limbs, k % n)

/-- The blocks of one object of S, in the destination's layout from the base of item (d0, d1), at a level's addresses; one without
primes is zeros, which add nothing (R44). -/
def objectBlocks (s : State) (r : OpRun) (item : Nat) (src dst : Nat × Nat) (h : Obj → Hdr) : List AccBlock :=
  let dd := r.desc 0
  let o := readHdr s r 1 src.1 src.2
  if noPrimes s r [(1, o)] then [] else
  let o := readPayload s r 1 src.1 src.2 (2 ^ 32) o
  let limbs := destLimbs dd (h o) (2 ^ 32)
  let qs := ((findChain s (h o).chain).map (·.primes)).getD []
  let words := payloadWords s dd false (h o) limbs o.poly
  let offs := (elemOffsets (storeDesc dd) (2 * (h o).level) (objectExtents dd limbs) dst.1 dst.2).toArray
  let at_ (k : Nat) : Int := offs.getD (1024 * k) 0
  (((chunks 1024 (words.length / 1024) words).zipIdx).filter (fun c => (r.view 0).inside (at_ c.2) blockBytes)).map (fun c =>
    let lb := payloadBlockAt dd limbs c.2
    { item := item, limb := lb.1, blk := lb.2, prime := qs.getD lb.1 0, addr := (r.view 0).addr (at_ c.2)
      data := c.1.flatMap (leBytes 4) })

/-- The elements of one header-less item of S under the destination's descriptor: address, prime, limb, block, word. -/
def itemElements (s : State) (r : OpRun) (src dst : Nat × Nat) : List (Nat × Nat × Nat × Nat × Nat) :=
  let dd := r.desc 0
  let ext := sharedExtents r [0, 1] 0
  let de := padded dd [] 0 ext
  let w := sliceWords s r ext src.1 src.2
  (((elemOffsets (storeDesc dd) r.lvl2 de dst.1 dst.2).zip (indexVectors de)).filter (fun e => (r.view 0).inside e.1 dd.width)).map (fun e =>
    let limb := limbOf r.limbDim e.2
    ((r.view 0).addr e.1, if dd.etype = tyRes32 then entryPrime s r limb else 0, limb, e.2.getD 0 0 / 1024, wordAt w e.2))

/-- What an adder adds where no element lies: zero, and -0 for a float, which leave what they are added to (log 111). -/
def neutralWord (aop : Nat) : Nat := if aop = aopFp32 then 2 ^ 31 else if aop = aopFp64 then 2 ^ 63 else 0

/-- Elements gathered into one payload for each block and prime; bytes no element covers add nothing. -/
def tensorBlocks (s : State) (r : OpRun) (aop item : Nat) (src dst : Nat × Nat) : List AccBlock :=
  let es := itemElements s r src dst
  let keys := (es.map (fun e => (e.1 / blockBytes, e.2.1))).eraseDups
  let empty := (List.replicate (blockBytes / aopWidth aop) (neutralWord aop)).flatMap (leBytes (aopWidth aop))
  keys.map (fun k =>
    let own := es.filter (fun e => e.1 / blockBytes == k.1 && e.2.1 == k.2)
    { item := item, limb := ((own.head?).map (·.2.2.1)).getD 0, blk := ((own.head?).map (·.2.2.2.1)).getD 0, prime := k.2
      addr := k.1 * blockBytes
      data := own.foldl (fun m e => splice m (e.1 % blockBytes) (leBytes (r.desc 0).width e.2.2.2.2)) empty })

/-- The items of a REMOTE.ADD: index, loops. -/
def sendItems (r : OpRun) : List (Nat × Nat × Nat) :=
  let n := sharedCounts [r.batchCounts 0, r.batchCounts 1]
  (batchItems n.1 n.2).zipIdx.map (fun b => (b.2, b.1.1, b.1.2))

/-- The adder an accumulating operation uses (R195, R283). -/
def runAop (r : OpRun) : Nat :=
  if r.entry.opcode = opRemoteAdd then (aopOf (r.desc 1)).getD 0
  else if (r.desc 0).hdr then aopRes32 else sliceAop (r.desc 0)

/-- The blocks a REMOTE.ADD sends: each object at its own level, each tensor item. -/
def remoteBlocks (s : State) (r : OpRun) : List AccBlock :=
  (sendItems r).flatMap (fun i =>
    if (r.desc 0).hdr then objectBlocks s r i.1 i.2 i.2 (·.hdr) else tensorBlocks s r (runAop r) i.1 i.2 i.2)

/-- The blocks of the contributions to one destination item, in ascending m, under the item of the lowest m that names it:
one tile sends all contributions to a block, so that fp sums keep their order (R195, DESIGN CHOICE, log 111). An object's lie
at the addresses of the item's prior level (R196). -/
def scatterBlocks (s : State) (r : OpRun) (b1 count : Nat) (t : Nat × List (Nat × Nat)) : List AccBlock :=
  let item := b1 * count + ((t.2.head?).map (·.1)).getD 0
  if (r.desc 0).hdr then
    let p := readHdr s r 0 t.1 b1
    let os := t.2.map (fun x => readHdr s r 1 x.2 b1)
    if noPrimes s r ((0, p) :: os.map (fun o => (1, o))) then []
    else
      let chain := ((os.head?).map (·.hdr.chain)).getD p.hdr.chain
      t.2.flatMap (fun x => objectBlocks s r item (x.2, b1) (t.1, b1) (fun _ => { p.hdr with chain := chain }))
  else t.2.flatMap (fun x => tensorBlocks s r (runAop r) item (x.2, b1) (t.1, b1))

def scatterAddBlocks (s : State) (r : OpRun) : List AccBlock :=
  if !(r.desc 0).hdr && (sharedExtents r [0, 1] 0).any (· == 0) then []
  else (List.range (outerItems r)).flatMap (fun b1 =>
    let ms := movesOf r ((indicesAt s r b1).map (·.2))
    (scatterTasks ms).flatMap (scatterBlocks s r b1 ms.length))

/-- The blocks of an accumulating operation, in sending order. -/
def accBlocks (s : State) (r : OpRun) : List AccBlock :=
  if r.entry.opcode = opRemoteAdd then remoteBlocks s r
  else if r.entry.opcode = opScatterAdd then scatterAddBlocks s r
  else []

/-- What the contributions of a SCATTER.ADD write, each under its kind (R280). -/
def scatterWrites (s : State) (r : OpRun) : List (Nat × Nat × Nat) :=
  let kind (q : Nat) : Nat := exactKind (runAop r) (if runAop r = aopRes32 then q else 0)
  if (r.desc 0).hdr then (scatterAddBlocks s r).map (fun b => (b.addr, b.data.length, kind b.prime))
  else
    (List.range (outerItems r)).flatMap (fun b1 =>
      (scatterTasks (movesOf r ((indicesAt s r b1).map (·.2)))).flatMap (fun t => t.2.flatMap (fun x =>
        (itemElements s r (x.2, b1) (t.1, b1)).map (fun e => (e.1, (r.desc 0).width, kind e.2.1)))))

/-- The reads and reports of a SCATTER.ADD at its dispatch; its contributions follow with its tiles. -/
def scatterAddRun (r : OpRun) (s : State) : State :=
  noteAccess r.queue r.serial [] (scatterWrites s r) (indexedRun r s)

/-- SCATTER.ADD. -/
def execScatterAdd (queue : Nat) (s : State) : Result := runObj queue opScatterAdd scatterAddRun s

/-- A block past the plan's extent along an axis is at its end (log 111). -/
def clampBlock (ts : List Tile) (b : AccBlock) : AccBlock :=
  let top (f : Tile → Nat) : Nat := ts.foldl (fun m t => max m (f t)) 0 - 1
  { b with item := min b.item (top (fun t => t.item + t.items)), limb := min b.limb (top (fun t => t.limb + 1))
           blk := min b.blk (top (fun t => t.blk + t.blks)) }

/-- A tile owns a block when the axes it is split along hold the block's coordinates. -/
def ownsBlock (p : Phase) (t : Tile) (b : AccBlock) : Bool :=
  (!p.limbAxis || t.limb == b.limb) &&
    (p.item.isNone || (decide (t.item ≤ b.item) && decide (b.item < t.item + t.items))) &&
    (p.block.isNone || (decide (t.blk ≤ b.blk) && decide (b.blk < t.blk + t.blks)))

/-- The blocks that a tile of the last phase of the plan owns. -/
def ownBlocks (s : State) (r : OpRun) (t : Tile) (bs : List AccBlock) : List AccBlock :=
  match r.body.phases.getLast? with
  | none => []
  | some p =>
    if t.claim.phase + 1 ≠ r.body.phases.length then []
    else
      let ts := (tilesOf s r.queue r.serial).filter (fun u => u.claim.phase == t.claim.phase)
      bs.filter (fun b => ownsBlock p t (clampBlock ts b))

def outPacket (s : State) (r : OpRun) (t : Tile) (aop q addr : Nat) (data : List Byte) : OutPacket :=
  { stack := streamStack addr, queue := r.queue, serial := r.serial, sends := 0, home := r.entry.opcode == opScatterAdd
    packet := { rjob := (r.job.rjob).getD 0, srcDev := s.fab.devNumber, srcDie := t.claim.die, aop := aop, q := q
                dstAddr := addr, seq := 0, pcheck := 0, claim := t.claim, phcrc := 0, payload := data } }

/-- The payload packets of a tile (R283). -/
def tilePackets (s : State) (r : OpRun) (t : Tile) : List OutPacket :=
  let aop := runAop r
  (ownBlocks s r t (accBlocks s r)).map (fun b => outPacket s r t aop (if aop = aopRes32 then b.prime else 0) b.addr b.data)

/-- The source header a MERGE.HDR carries, with what the operation originates on the object joined to its state (R44, R49, R184,
R286). -/
def carriedHdr (s : State) (r : OpRun) (b0 b1 : Nat) : Hdr :=
  let o := readHdr s r 1 b0 b1
  let o := readPayload s r 1 b0 b1 (2 ^ 32) o
  let sc := joinState [o.state] o.causes
  if o.causes.isEmpty then o.hdr else { o.hdr with state := sc.1, cause := sc.2 }

/-- The header merges of a tile: one per object, from the tile that owns its first block (R286). -/
def tileMerges (s : State) (r : OpRun) (t : Tile) : List OutPacket :=
  if r.entry.opcode ≠ opRemoteAdd || !(r.desc 0).hdr then []
  else
    let first : List AccBlock := (sendItems r).map (fun i => { item := i.1, limb := 0, blk := 0, prime := 0, addr := 0, data := [] })
    (ownBlocks s r t first).map (fun b =>
      let i := itemAt (sharedCounts [r.batchCounts 0, r.batchCounts 1]).1 b.item
      outPacket s r t aopMerge 0 ((r.view 0).addr (r.hdrAt i.1 i.2)) (hdrBytes (carriedHdr s r i.1 i.2)))

/-- An operation that sends accumulate packets. -/
def accumulates (r : OpRun) : Bool := r.entry.opcode == opRemoteAdd || r.entry.opcode == opScatterAdd

/-- A claimed tile's packets are numbered, or its streams have room for them (R282). -/
def packetsFit (s : State) (r : OpRun) (t : Tile) : Bool :=
  !accumulates r || numberedTile (s.die t.claim.die) r.queue r.serial t.claim.claimIndex ||
    streamsHaveRoom (s.die t.claim.die) (tilePackets s r t)

/-- A claimed tile's packets take their numbers, once; a tile whose streams have no room is held without them (R282). -/
def numberTile (r : OpRun) (s : State) (t : Tile) : State :=
  if !accumulates r || numberedTile (s.die t.claim.die) r.queue r.serial t.claim.claimIndex || !packetsFit s r t then s
  else s.updDie t.claim.die (numberPackets (tilePackets s r t))

/-- A placed tile reads its sources and sends its packets under the numbers the log holds for its claim; a re-issued one sends
every packet it owns again. Its header merges wait (R282, R286, R288). -/
def sendTile (r : OpRun) (s : State) (t : Tile) : State :=
  if !accumulates r then s
  else
    let s := numberTile r s t
    let die := t.claim.die
    let mine (p : OutPacket) : Bool := ofCmd r.queue r.serial p && p.packet.claim.claimIndex == t.claim.claimIndex
    let ps := withSeqs (s.die die) (tilePackets s r t)
    let ms := tileMerges s r t
    let s := s.updDie die (fun d => { d with sent := d.sent.filter (fun p => !mine p) ++ ms })
    let s := updTile (sendPackets s die ps) r.queue r.serial t.claim.claimIndex (fun t => { t with sent := true })
    releaseMerges s r.queue r.serial

/-- What one item of a REMOTE.ADD reports: beyond its handles, held to ALLOC; what it originates counts (R54, R71, R178). -/
def remoteItem (r : OpRun) (s : State) (b0 b1 : Nat) : State :=
  if (r.desc 0).hdr then
    let dd := r.desc 0
    let v := r.view 0
    let o := readHdr s r 1 b0 b1
    let s := repairPayload r s 1 b0 b1 (2 ^ 32) o
    let o := readPayload s r 1 b0 b1 (2 ^ 32) o
    let s := r.reportRead s 1 (r.itemIndex 1 b0 b1) o
    let start : Int := (dd.dataOffset : Int) + itemOffset dd b0 b1
    let s := r.reportOut s v 0 (r.itemIndex 0 b0 b1)
      (lowest ((v.outside (payloadBytes dd o.hdr.level) start).toList ++ (v.outside 64 (r.hdrAt b0 b1)).toList))
    let s := if dd.tKind != 4 && decide ((dd.dim 1).alloc < limbsAt dd o.hdr.level) then
        r.report s 0 (r.itemIndex 0 b0 b1) ruleAlloc (some (allocArg r 0 1))
      else s
    if o.causes.isEmpty then s else countOriginated s r.job.id (joinState [o.state] o.causes).2
  else beginSlices r (sharedExtents r [0, 1] 0) s b0 [b0] b1

/-- REMOTE.ADD at its dispatch: the reports; its tiles send (R282). -/
def remoteRun (r : OpRun) (s : State) : State :=
  let s := if (r.desc 0).hdr then s else reportExtents r [0, 1] 0 s
  forItems r [0, 1] (remoteItem r) s

/-- REMOTE.ADD. -/
def execRemoteAdd (queue : Nat) (s : State) : Result := runObj queue opRemoteAdd remoteRun s

end Sys2Proof.Machine
end

