-- ==== Sys2Proof/Machine/QueueCommands.lean ====
section
/-! DEFINITION. The queue engine's own commands and rows: FLAG.SET, FLAG.WAIT and watches (R214, R215, R301), NOP and entries
that name nothing (R334, R335), the boundary command (R244 to R247), completion, commits, records and aborts (R82, R251,
R333, R336, R400). -/

namespace Sys2Proof.Machine

open Sys2Proof

/-! Flags (R214 to R216). -/

/-- The commands ahead of the first one that satisfies a test. -/
def aheadOf (p : Cmd → Bool) (l : List Cmd) : List Cmd := l.takeWhile (fun c => !p c)

/-- A dispatched FLAG.SET that has not started. -/
def pendingSet (c : Cmd) : Bool := c.entry.cmd == cmdFlagSet && c.phase == .running

/-- SET64: the word takes a value, its watches are re-tested (R300). -/
def setWord (s : State) (addr : Nat) (v : W64) : State := deviceWrite s addr (leBytes 8 v.toNat)

/-- The comparison of its job holds a FLAG.SET's completion (R373): its one block would be a record too many. -/
def setHeld (s : State) (q : Queue) (c : Cmd) : Bool :=
  match findJob s q.job with
  | some j => compares j c && j.pair.any (fun p => decide (unmatchedMax ≤ p.own.length))
  | none => false

/-- A FLAG.SET starts when every earlier command of its queue has completed, and its write is then visible (R214); the block it leaves
CHECKED is compared (R372). -/
def performSet (s : State) (num : Nat) : State :=
  match findQueue s num with
  | none => s
  | some q =>
    match q.cmds.find? pendingSet with
    | none => s
    | some c =>
      if (aheadOf pendingSet q.cmds).all (fun a => a.phase == .completed) && !setHeld s q c then
        endCmd (updCmd (setWord (raceWord s c.entry.flagAddr false) c.entry.flagAddr c.entry.flagValue) num (isSerial c.serial.toNat) (fun c =>
          { c with blocks := [(c.entry.flagAddr / blockBytes, [(c.entry.flagAddr % blockBytes, c.entry.flagAddr % blockBytes + 8)])] }))
          num c.serial.toNat stOk 0
      else s

/-- The pending FLAG.SET of a queue can start. -/
def setReady (s : State) (num : Nat) : Bool :=
  match findQueue s num with
  | none => false
  | some q => (q.cmds.find? pendingSet).any (fun c => !setHeld s q c) && (aheadOf pendingSet q.cmds).all (fun a => a.phase == .completed)

/-- Dispatch the served entry when it is a command of a kind, and go on with its serial; a flag outside granted memory
completes it with BINDING (R334). -/
def dispatchFlag (s : State) (num kind : Nat) (go : State → Queue → Cmd → Nat → State) : State :=
  match servedEntry s num with
  | none => s
  | some (q, c, j) =>
    if c.entry.cmd != kind || c.entry.bad.isSome then s
    else
      let serial := j.nextSerial.toNat
      let s := beginCmd s q j
      if !grantedRange s j c.entry.flagAddr 8 then abortCmd s num serial stBinding 0 else go s q c serial

/-- FLAG_SET: a FLAG.SET whose turn has come is performed; else the next one dispatches. -/
def execFlagSet (queue : Nat) (s : State) : Result :=
  .next (if setReady s queue then performSet s queue
    else dispatchFlag s queue cmdFlagSet (fun s _ _ _ => performSet s queue))

/-- Watches a controller can hold (R301). -/
def watchMax : Nat := 1024

/-- The lowest free watch number of a stack. -/
def freeWatch (s : State) (stack : Nat) : Option Nat :=
  lowestFree watchMax ((s.far.watches.filter (fun w => w.stack == stack)).map (·.number))

/-- The flag-wait timeout in ticks; none waits without limit (R215, R330). -/
def waitTicks (limit : Nat) : Option Nat :=
  if limit = 0 then none else some (if limit = 2 ^ 32 - 1 then 100 * msTicks else limit * usTicks)

/-- WATCH64 of a queue's wait: answered at once when the word is there, registered, or NOFREE and polled (R300, R301). -/
def registerWait (s : State) (num serial : Nat) (addr : Nat) (v : W64) : State :=
  let s := touchFar (raceRead s (addr, 8)) addr
  if s.far.reached addr v then finish s num serial stOk 0
  else
    let stack := controllerOf s.far addr
    let wait (poll : Bool) (s : State) : State := updQueue s num (fun q => { q with
      cmds := updWhere (isSerial serial)
        (fun c => { c with phase := .waiting, waitSince := s.now, waitLimit := q.flagTimeout, polling := poll }) q.cmds })
    match freeWatch s stack with
    | none => wait true s
    | some n => wait false (s.updFar (fun f => { f with watches := f.watches ++
        [{ stack := stack, number := n, addr := addr, threshold := v, queue := num }] }))

/-- FLAG_WAIT. -/
def execFlagWait (queue : Nat) (s : State) : Result :=
  .next (dispatchFlag s queue cmdFlagWait (fun s _ c serial => registerWait s queue serial c.entry.flagAddr c.entry.flagValue))

/-- The wait in force of a queue. -/
def waitOf (s : State) (num : Nat) : Option (Queue × Cmd) :=
  (findQueue s num).bind (fun q => (q.cmds.find? (fun c => c.phase == .waiting)).map (fun c => (q, c)))

/-- A satisfied wait completes; a STALLED queue returns to RUNNING by itself (R338, R404). -/
def endWait (s : State) (num : Nat) : State :=
  match waitOf s num with
  | none => s
  | some (_, c) =>
    let s := s.updFar (fun f => { f with watches := f.watches.filter (fun w => w.queue != num) })
    finish (updQueue s num (fun q => { q with st := if q.st == .stalled then .running else q.st })) num c.serial.toNat stOk 0

/-- WATCH_ANSWER: a watch whose word has reached its threshold answers its queue (R214, R300). -/
def execWatchAnswer (stack : Fin 16) (number : Nat) (s : State) : Result :=
  .next (match s.far.watches.find? (fun w => w.stack == stack.val && w.number == number && w.due) with
    | some w => endWait s w.queue
    | none => s)

/-- WATCH_POLL: a requester without a watch reads the word again (R301). -/
def execWatchPoll (queue : Nat) (s : State) : Result :=
  .next (match waitOf s queue with
    | some (_, c) =>
      if !c.polling then s
      else if s.far.reached c.entry.flagAddr c.entry.flagValue then endWait (touchFar s c.entry.flagAddr) queue
      else touchFar s c.entry.flagAddr
    | none => s)

/-- FLAG_WAIT_TIMEOUT: the queue enters STALLED and QUEUE_STALLED posts once; a boundary command behind it gives up what it
holds (R215, R249, R339). -/
def execFlagWaitTimeout (queue : Nat) (s : State) : Result :=
  .next (match waitOf s queue with
    | none => s
    | some (q, c) =>
      match waitTicks c.waitLimit with
      | none => s
      | some t =>
        if q.st == .running && decide (t ≤ s.since c.waitSince) then
          postBoth (releaseBoundary (updQueue s queue (fun q => { q with st := .stalled })) queue)
            { code := 0x0006, job := q.job, queue := queue, arg1 := c.entry.flagAddr }
        else s)

/-! NOP, bad entries, entries that name nothing (R334, R335). -/

/-- A RUN names a program slot or an entry the job does not have. -/
def namesNothing (s : State) (j : Job) (c : Cmd) : Bool := c.entry.cmd == cmdRun && (runTarget s j c.entry).isNone

/-- NOP: a NOP completes with OK, an entry broken under R335 with BAD_ENTRY, a RUN that names nothing with BINDING. -/
def execNop (queue : Nat) (s : State) : Result :=
  .next (match servedEntry s queue with
    | none => s
    | some (q, c, j) =>
      let serial := j.nextSerial.toNat
      match c.entry.bad with
      | some off => finish (beginCmd s q j) queue serial stBadEntry off
      | none =>
        if c.entry.cmd = cmdNop then finish (beginCmd s q j) queue serial stOk 0
        else if namesNothing s j c then abortCmd (beginCmd s q j) queue serial stBinding 0
        else s)

/-! The boundary command (R244 to R247). -/

/-- The boundary command of a queue: the first fenced entry behind the last dispatched one, with no FLAG.WAIT before it. -/
def boundaryOf (q : Queue) : Option Cmd :=
  if q.cancelling then none
  else
    match (q.cmds.filter (fun c => c.phase == .fetched)).find? (fun c => c.entry.fence || c.entry.cmd == cmdFlagWait) with
    | some c => if c.entry.fence && c.entry.cmd == cmdRun && c.entry.bad.isNone then some c else none
    | none => none

/-- The weight operands of an entry: plaintext sources and header-less weights (R247). -/
def weightSources (r : OpRun) : List Nat :=
  r.sources.filter (fun k => if (r.desc k).hdr then (r.desc k).tKind == 3 else r.entry.opcode == opMatmul)

/-- The items of a weight operand that a tile reads: its own items; at a LINEAR every present diagonal of them; at a MATMUL
the weights of their outer loops (R247, R519). -/
def weightItem (r : OpRun) (p : Phase) (t : Tile) (item b1 : Nat) : Bool :=
  let mine (i : Nat) : Bool := decide (t.item ≤ i) && decide (i < t.item + t.items)
  p.item.isNone ||
    (if r.entry.opcode = opLinear then mine (item / max 1 r.present.length)
     else if r.entry.opcode = opMatmul then ((List.range t.items).map (t.item + ·)).any (fun i => i / max 1 (r.batchCounts 0).1 == b1)
     else mine item)

/-- The weight words one tile reads of a source: of its items, of an object its limb and its coefficient blocks, in Montgomery form as
the inbound path leaves them; absent blocks of a MATMUL's weights are zero (R33, R104, R192, R247). -/
def tileWeights (s : State) (r : OpRun) (p : Phase) (t : Tile) (k : Nat) : List Byte :=
  let d := r.desc k
  let n := r.batchCounts k
  let items := ((batchItems n.1 n.2).zipIdx).filter (fun b => weightItem r p t b.2 b.1.2)
  items.flatMap (fun b =>
    if d.hdr then
      let limbs := limbsAt d d.tLevel
      let qs := ((findChain s d.tChain).map (·.primes)).getD []
      let offs := (elemOffsets d (2 * d.tLevel) (objectExtents d limbs) b.1.1 b.1.2).zipIdx.filter (fun o =>
        (!p.limbAxis || limbAt d limbs o.2 == t.limb) &&
          (p.block.isNone || (decide (t.blk ≤ (payloadBlockAt d limbs (o.2 / 1024)).2) &&
            decide ((payloadBlockAt d limbs (o.2 / 1024)).2 < t.blk + t.blks))))
      let f := (r.view k).fetch s 4 (offs.map (·.1))
      (f.words.zip (offs.map (·.2))).flatMap (fun w => leBytes 4 (toMont (qs.getD (limbAt d limbs w.2) 1) w.1))
    else
      let w := fetchItem s (r.view k) d d.limbDim (fun d q x => dmaWord true d d q x) (entryPrime s r) r.lvl2 (r.extents d) b.1.1 b.1.2
      (w.data.toList.zip (indexVectors w.ext)).flatMap (fun x =>
        leBytes 4 (if weightAbsent r (x.2.getD 1 0) (x.2.getD 0 0) then 0 else x.1)))

/-- The prefetch region of a core, at the top of its scratchpad, filled as far as it reaches (R247). -/
def fillRegion (s : State) (r : OpRun) (p : Phase) (core : Nat) (t : Tile) : State :=
  let bytes := ((weightSources r).flatMap (tileWeights s r p t)).take p.prefetchRegion
  if bytes.isEmpty then s else s.updCore core (fun c => c.store [(scratchBytes - p.prefetchRegion, bytes)])

/-- One die's pre-claims: a tile of the phase for each core of the group on it, in ascending order (R247). -/
def preclaimDie (r : OpRun) (pi : Nat) (p : Phase) (s : State) (die : Nat) : State :=
  let cores := (sortBy (fun c => c) r.cores).filter (fun c => dieOfCore c == die && coreInService s c)
  let mine := (((findQueue s r.queue).bind (fun q => q.cmds.find? (fun c => c.phase == .fetched && c.early))).map (·.tiles)).getD []
  let tiles := mine.filter (fun t => t.claim.die == die && t.claim.phase == pi)
  let pairs := cores.zip tiles
  let s := if pairs.isEmpty then s
    else deviceWrite s (counterWord r.cmd.entry.counterAddr pi die) (leBytes 8 pairs.length)
  pairs.foldl (fun s x =>
    let claim := { x.2.claim with claimer := x.1, pre := true }
    let s := updCmd s r.queue (fun c => c.phase == .fetched && c.early) (fun c => { c with
      tiles := updWhere (fun t => t.claim.claimIndex == x.2.claim.claimIndex) (fun t => { t with claim := claim, status := 1, core := x.1 }) c.tiles })
    let s := s.updCore x.1 (fun c => { c with held := c.held ++ [(r.queue, claim)] })
    fillRegion (wakeCore s x.1) r p x.1 x.2) s

/-- Pre-claims of the phase marked for weight prefetch. -/
def preclaim (s : State) (r : OpRun) : State :=
  r.body.phases.zipIdx.foldl (fun s p => if p.1.weightPrefetch then (groupDies r.job).foldl (preclaimDie r p.2 p.1) s else s) s

/-- The boundary command's part of a command record: its pieces and the plan their consumer counts come from (R246), and with
EARLY_FETCH its reads. -/
def noteBoundary (r : OpRun) (ts : List Tile) (pieces : List PieceId) (early : Bool) (c : Cmd) : Cmd :=
  if early then { c with early := true, zeroed := true, boundWords := r.bound.map (BitVec.ofNat 32), bitmap := r.bitmap
                         keyList := r.keys, tiles := ts, pieces := pieces }
  else { c with keyList := r.keys, tiles := ts, pieces := pieces }

/-- Key prefetch of a boundary command and, with EARLY_FETCH, its early reads, counters and pre-claims (R245 to R247). Without
EARLY_FETCH the plan its consumer counts come from is formed from a reading of the bound block and bitmap made here, and the command
reads both again at its dispatch (DESIGN CHOICE, log 144: R246 does not say which reading the counts come from). -/
def prefetchBoundary (s : State) (q : Queue) (j : Job) (c : Cmd) (p : Program) (e : Entry) (b : BodyEntry) : State :=
  let r := opRunOf s q j c p e b boundarySerial
  if bindingFails s p r then s
  else
    let ts := planTiles s r
    let pieces := commandPieces s r ts
    let s := wakeBound s c r
    let s := if c.entry.early then zeroCounters s r ts else s
    let first (x : Cmd) : Bool := x.phase == .fetched && x.sqIndex == c.sqIndex
    let s := updCmd s q.num first (noteBoundary r ts pieces c.entry.early)
    let s := startKeys s q.num boundarySerial 3 q.priority s.tab.dispatchOrder true [] r ts
    if c.entry.early then preclaim s r else s

/-- BOUNDARY_COMMAND. -/
def execBoundaryCommand (queue : Nat) (s : State) : Result :=
  .next (match findQueue s queue with
    | none => s
    | some q =>
      match boundaryOf q, findJob s q.job with
      | some c, some j =>
        if c.early || !c.pieces.isEmpty || q.st == .stalled then s
        else match runTarget s j c.entry with
          | some (p, e, b) => prefetchBoundary s q j c p e b
          | none => s
      | _, _ => s)

/-! Commit (R82). -/

/-- Accumulator buffers of a command: core and buffer. -/
def accumsOf (s : State) (num serial : Nat) : List (Nat × Accum) :=
  s.cores.flatMap (fun c => (c.2.accums.filter (fun a => a.queue == num && a.serial == serial)).map (fun a => (c.1, a)))

/-- The canonical words of a buffer: res32 leaves Montgomery form through the store path. -/
def commitBytes (a : Accum) (b : List Byte) : List Byte :=
  if a.bind.accOp = 1 then (wordsBy 4 b).flatMap (fun w => leBytes 4 (fromMont a.prime w)) else b

/-- A buffer and its mirror copy set to zero. -/
def clearBuffer (s : State) (core : Nat) (h : HandleBind) (len : Nat) : State :=
  ({ viewOfBind core [] h with length := len } : View).storeRuns s [(h.base, zeros len)]

/-- One buffer committed: written to its part of the destination, zeroed, its log cleared. The buffers of one handle number
fill the destination in ascending core order. -/
def commitBuffer (r : OpRun) (s : State) (x : Nat × Accum) : State :=
  let part := ((accumsOf s r.queue r.serial).filter (fun y => y.2.bind.handle == x.2.bind.handle && decide (y.1 < x.1))).length
  let h := x.2.bind
  let bytes := commitBytes x.2 (memReadN (s.core x.1).scratch h.base h.length)
  let at_ : Int := ((r.desc 0).dataOffset : Int) + part * h.length
  let (s, out) := (r.view 0).put s 4 ((wordsBy 4 bytes).zipIdx.map (fun w => (at_ + 4 * (w.2 : Int), w.1)))
  let s := noteBlocks s r [((r.view 0).addr at_, h.length)]
  r.reportOut (clearBuffer s x.1 h h.length) (r.view 0) 0 0 out

/-- The commit begins to write the results of a plan with folds (R53, R82). -/
def beginHeld (r : OpRun) (s : State) (hdrs : List HeldHdr) : State :=
  hdrs.foldl (fun s x => beginDest s r ((r.view 0).addr (r.hdrAt x.b0 x.b1)) (hdrOf x.hdr)) s

/-- The run of a dispatched command. -/
def runOfCmd (s : State) (num serial : Nat) : Option (Program × OpRun) :=
  match findQueue s num, findCmd s num serial with
  | some q, some c =>
    match findJob s q.job with
    | none => none
    | some j => (runTarget s j c.entry).map (fun x =>
        (x.1, { opRunOf s q j { c with early := true } x.1 x.2.1 x.2.2 serial with keys := c.keyList }))
  | _, _ => none

/-- Every tile of a command is done. -/
def tilesDone (c : Cmd) : Bool := c.phase == .running && c.entry.cmd == cmdRun && c.tiles.all (fun t => t.status == 3)

/-- ACCUMULATOR_COMMIT: every buffer of a command whose tiles are done, in ascending core order. -/
def execAccumulatorCommit (queue serial : Nat) (s : State) : Result :=
  .next (match findCmd s queue serial, runOfCmd s queue serial with
    | some c, some (_, r) =>
      if tilesDone c && !c.committed && (accumsOf s queue serial).all (fun a => a.2.waiting.isEmpty) then
        let all := accumsOf s queue serial
        let s := all.foldl (commitBuffer r) (if r.folds then beginHeld r s c.hdrs else s)
        let s := mapCores s (fun x => { x with accums := x.accums.filter (fun a => !(a.queue == queue && a.serial == serial)) })
        updCmd s queue (isSerial serial) (fun c => { c with committed := true })
      else s
    | _, _ => s)

/-! Completion (R251, R285, R372, R373). -/

/-- The last of a command's drain before its record (R251): its results' payloads settled, free words in place of those another
access raced with (R219, R220), then their headers written. -/
def drainCommand (s : State) (num serial : Nat) : State :=
  match runOfCmd s num serial with
  | some (_, r) =>
    let raced := ((findCmd s num serial).map (·.raced)).getD false
    let s := settleScatter r s
    writeHeaders r (if raced then scrambleDest r s else s)
  | none => s

/-- What a completed command gives up on dies and cores: its packets and their log, its mirrored buffers. -/
def dropCommand (s : State) (num serial : Nat) : State :=
  mapCores (mapDies s (dropPackets num serial)) (fun c => { c with mirrors := c.mirrors.filter (fun m => !(m.queue == num && m.serial == serial)) })

/-- COMMAND_COMPLETE: the tiles are done, the accumulators committed, every packet acknowledged, the parity of every block it has
written accepted (R302); a rejected packet makes
it BINDING (R285). -/
def execCommandComplete (queue serial : Nat) (s : State) : Result :=
  .next (match findQueue s queue, findCmd s queue serial with
    | some q, some c =>
      match findJob s q.job with
      | none => s
      | some j =>
        if tilesDone c && (accumsOf s queue serial).isEmpty && (unacked s queue serial).isEmpty &&
            !c.blocks.any (fun b => s.far.deltas.any (fun d => d.block == b.1)) && !compareHeld s j c then
          let s := drainCommand s queue serial
          endCmd (releaseKeys (dropCommand s queue serial) queue serial c.pieces) queue serial (if c.rejected then stBinding else stOk) 0
        else s
    | _, _ => s)

/-- COMPLETION_RECORD_POST: the record of the oldest command that has completed, once its comparison has ended (R336, R373). A JOB_DESTROY
that waits goes on (R329). -/
def execCompletionRecordPost (queue : Nat) (s : State) : Result :=
  .next (settleDestroys (match owedRecord s queue with
    | none => s
    | some (q, c) => writeRecord s q c))

/-- COMMAND_ABORT of a running command by a class of fault (R400). -/
def execCommandAbort (queue serial cls : Nat) (s : State) : Result :=
  .next (match findCmd s queue serial with
    | some c => if c.phase == .running && decide (1 ≤ cls) && decide (cls ≤ 0x13) then abortCmd s queue serial stAborted cls else s
    | none => s)

end Sys2Proof.Machine
end

