-- ==== Sys2Proof/Machine/Service.lean ====
section
/-! DEFINITION. Service commands (R409 to R434): cores, compute dies, hubs, the firmware update, the black box. -/

namespace Sys2Proof.Machine

open Sys2Proof

/-! Physical cores (R413 to R416). -/

/-- A command that names a physical core (R428). -/
def coreSpec (code : Nat) (service : Bool) : CmdSpec :=
  { code := code, service := service, len := some 4, reserved := [(0x02, 0, 16)]
    range := fun b => if 576 ≤ leAt b 0 2 then some 0 else none }

/-- CORE_RETIRE waits for the running tasks of its logical core (R416). A core that serves none, or one already on its way
out, is refused (log 26). -/
def execCoreRetire (rq : MbxReq) (s : State) : Result :=
  mailbox s (coreSpec 0x00C1 true) rq (fun t b =>
    let p := leAt b 0 2
    match (t.physCore p).logical with
    | none => .fail t stInUse
    | some c =>
      if (t.physCore p).st != .serving || (t.physCore p).fencing || t.dev.retiring.any (fun r => r.1 == p) ||
          (spareOf t (p / 72)).isNone then .fail t stInUse
      else .stay (settleRetire (t.updDev (fun d => { d with retiring := d.retiring ++ [(p, rq.port, rq.box)] })) c))

def execCoreInfo (rq : MbxReq) (s : State) : Result :=
  mailbox s (coreSpec 0x00C3 false) rq (fun t b =>
    let c := t.physCore (leAt b 0 2)
    .okWith t (leBytes 1 c.st.code ++ leBytes 1 c.retirements ++ leBytes 2 (c.logical.getD 0xFFFF)))

/-! Self-tests (R414, R415, R417). -/

/-- Self-tests a die runs now: none on a region that is off, and a core whose test is still to start is in none (R417). -/
def testsOn (s : State) (d : Nat) : List Nat :=
  if (s.die d).powered then (physOf d).filter (fun p => (s.physCore p).st == .testing && !(s.die d).upLeft.contains p) else []

def startTest (s : State) (p : Nat) : State :=
  s.updPhys p (fun c => { c with st := .testing, logical := none, waking := .no, leaving := none })

/-- The RETIRED core of a die that was retired first. -/
def nextRetired (s : State) (d : Nat) : Option Nat :=
  (sortBy (fun p => (s.physCore p).retireOrder) ((physOf d).filter (fun p => (s.physCore p).st == .retired))).head?

/-- The CORE_TESTs of a die that wait for a core that is no longer SPARE or RETIRED are refused, the first one left is
started. -/
def startWaiting (s : State) (d : Nat) : State :=
  let still (w : Nat × Port × Nat) : Bool := (s.physCore w.1).st == .spare || (s.physCore w.1).st == .retired
  let gone := (s.die d).testWait.filter (fun w => !still w)
  let s := s.updDie d (fun x => { x with testWait := x.testWait.filter still })
  let s := gone.foldl (fun s w => respondTo s w.2.1 w.2.2 stInUse 0 []) s
  match (s.die d).testWait with
  | w :: _ => startTest s w.1
  | [] => s

/-- The next test of a die: up to eight at a time during a DIE_UP (R417), else one, in order of retirement (R414). A test of its last
spare leaves the die with none (R385). -/
def startNextTest (s : State) (d : Nat) : State :=
  refreshState (if !(s.die d).powered then s
  else if (s.die d).upBox.isSome then
    let n := 8 - (testsOn s d).length
    ((s.die d).upLeft.take n).foldl startTest (s.updDie d (fun x => { x with upLeft := x.upLeft.drop n }))
  else if !(testsOn s d).isEmpty then s
  else match nextRetired s d with
    | some p => startTest s p
    | none => startWaiting s d)

def execCoreSelfTestStart (die : Fin 8) (s : State) : Result := .next (startNextTest s die.val)

/-- CORE_TEST of a SPARE or RETIRED core of a powered die (R414, R428). -/
def execCoreTest (rq : MbxReq) (s : State) : Result :=
  mailbox s (coreSpec 0x00C2 true) rq (fun t b =>
    let p := leAt b 0 2
    if ((t.physCore p).st != .spare && (t.physCore p).st != .retired) || !(t.die (p / 72)).powered ||
        (t.die (p / 72)).upBox.isSome then .fail t stInUse
    else .stay (startNextTest (t.updDie (p / 72) (fun d => { d with testWait := d.testWait ++ [(p, rq.port, rq.box)] })) (p / 72)))

/-- The response to a DIE_UP once every core of the die is SERVING, SPARE or FAILED (R417). -/
def settleDieUp (s : State) (d : Nat) : State :=
  match (s.die d).upBox with
  | some (port, box) =>
    if (s.die d).upLeft.isEmpty && (testsOn s d).isEmpty then
      let s := mapDie (s.updDie d (fun x => { x with upBox := none })) d
      respondTo (refreshState (noteRepair s 13 d 0)) port box stOk 0 []
    else s
  | none => s

/-- A test ends: pass to SPARE, zeroed and in Sleep, fail to FAILED and Off (R414, R464); a spare then takes a logical
core out of service (R415). -/
def execCoreSelfTestDone (die : Fin 8) (pass : Bool) (s : State) : Result :=
  .next (match (testsOn s die.val).head? with
    | none => s
    | some p =>
      let up := (s.die die.val).upBox.isSome
      let s := s.updPhys p (fun c => { c with st := if pass then .spare else .failed, power := if pass then .sleep else .off })
      let s := if up && pass then s else noteRepair s (if pass then 3 else 4) p 0
      let s := if up || !pass then s else updLife s (fun l => { l with coresReturned := lifeInc l.coresReturned })
      let mine := (s.die die.val).testWait.filter (fun w => w.1 == p)
      let s := s.updDie die.val (fun x => { x with testWait := x.testWait.filter (fun w => w.1 != p) })
      let s := mine.foldl (fun s w => respondTo s w.2.1 w.2.2 stOk 0 (leBytes 4 (if pass then 0 else 1))) s
      if up then settleDieUp s die.val else refreshState (takeSpares s))

/-! Compute dies (R417). -/

def dieSpec (code : Nat) : CmdSpec :=
  { code := code, service := true, len := some 4, reserved := [(0x01, 0, 24)]
    range := fun b => if 8 ≤ leAt b 0 1 then some 0 else none }

/-- DIE_DOWN: IN_USE while a live job holds an octet of the die. A region already off stays off (log 27). A third abandonment of a held
step ends it (R410). -/
def execDieDown (rq : MbxReq) (s : State) : Result :=
  mailbox s (dieSpec 0x00C4) rq (fun t b =>
    let d := leAt b 0 1
    if t.tab.jobs.any (fun j => j.octets.any (fun o => o / 8 == d)) || (t.die d).upBox.isSome then .fail t stInUse
    else if !(t.die d).powered then .ok t
    else if !(heldStep t).1 then .fail (heldStep t).2 stAborted 0x07
    else .ok (refreshState (noteRepair (powerOffDie (endDieWork (heldStep t).2 d) d) 12 d 0)))

/-- DIE_UP powers the region, self-tests every core that is not FAILED and maps those that pass; a region already on stays
as it is (log 27). -/
def execDieUp (rq : MbxReq) (s : State) : Result :=
  mailbox s (dieSpec 0x00C5) rq (fun t b =>
    let d := leAt b 0 1
    if (t.die d).upBox.isSome then .fail t stInUse
    else if (t.die d).powered then .ok t
    else if !(heldStep t).1 then .fail (heldStep t).2 stAborted 0x07
    else
      let t := (heldStep t).2
      let left := (physOf d).filter (fun p => (t.physCore p).st != .failed)
      let t := t.updDie d (fun x => { x with
        powered := true, lost := false, netGated := false, kTherm := 16, upLeft := left, upBox := some (rq.port, rq.box) })
      .stay (settleDieUp (startNextTest t d) d))

/-! SVC_STATUS (R428). -/

def HubSvc.code : HubSvc → Nat
  | .inService => 0
  | .rejoining => 1
  | .out => 2
  | .mismatch => 3

def GroupSt.code : GroupSt → Nat
  | .normal => 0
  | .degraded => 1
  | .rebuilt => 2
  | .exposed => 3

def svcBody (s : State) : List Byte :=
  leBytes 1 (s.h0.svc.code + 4 * s.h1.svc.code + (if s.dev.lead = some .h1 then 16 else 0)) ++
  leBytes 1 (s.far.g0.st.code + 4 * s.far.g1.st.code) ++
  leBytes 1 (octetBits (nearStacks s)) ++
  leBytes 1 (octetBits ((List.range 8).filter (fun d => (s.die d).powered))) ++
  (List.range 8).flatMap (fun d => leBytes 1 ((physOf d).filter (fun p => (s.physCore p).st == .spare)).length) ++
  zeros 4 ++ digestBytes (((s.hub s.leadOr0).image.map (·.digest)).getD 0)

def execSvcStatus (rq : MbxReq) (s : State) : Result :=
  mailbox s { code := 0x00C0 } rq (fun t _ => .okWith t (svcBody t))

/-! Hubs (R420 to R426). -/

/-- A protection configuration change waits for its slice. -/
def protBusy (s : State) : Bool :=
  s.dev.slices.any (fun k => match k.kind with
    | .protChange .. => true
    | _ => false)

def swapBusy (s : State) : Bool :=
  s.dev.slices.any (fun k => match k.kind with
    | .swap => true
    | _ => false)

def execHubSwap (rq : MbxReq) (s : State) : Result :=
  mailbox s { code := 0x00C6, service := true } rq (fun t _ =>
    if !bothInService t || t.dev.lead.isNone || rejoinBusy t then .fail t stInUse
    else .stay (requestSlice t { kind := .swap, port := rq.port, box := some rq.box }))

/-- The answer of a rejoin: to HUB_REJOIN, or the next step or the end of a firmware update (R422, R426, R427). -/
def answerRejoin (s : State) (r : Rejoin) (status detail : Nat) : State :=
  if r.fwStep = 0 then respondTo s r.port r.box status detail []
  else if status != stOk then endUpdate s status detail
  else if r.fwStep = 1 then s.updDev (fun d => { d with fw := d.fw.map (fun f => { f with step := 2 }) })
  else endUpdate (updLife s (fun l => { l with fwUpdates := lifeInc l.fwUpdates })) stOk 0

/-- The BOOT cause of a rejoin (R430). -/
def Rejoin.cause (r : Rejoin) : Nat := if r.fwStep = 0 then 1 else 2

/-- A standby is reset and its image fetched; an image that cannot be read leaves it OUT (R422, R427). -/
def startRejoin (s : State) (h : Hub) (img : Option (List Byte)) (r : Rejoin) : State :=
  let s := resetHub s h .verify false
  match img with
  | some b => s.updHub h (fun x => { x with
      svc := .rejoining, offered := some (b, .otherHub), rejoin := some { r with image := b } })
  | none =>
    let s := s.updHub h (fun x => { x with phase := .out, svc := .out })
    answerRejoin (refreshState (noteBoot s h r.cause stHostAccess)) r stHostAccess 0

/-- HUB_REJOIN (R422, R428, R433): refused while another rejoin or update runs, or a HUB_SWAP waits (log 28). -/
def execHubRejoin (rq : MbxReq) (s : State) : Result :=
  mailbox s { code := 0x00C7, service := true, len := some 16, reserved := [(0x0C, 1, 31)], sizes := [(0x08, 4)]
              range := fun b => if 0x4000000 < leAt b 8 4 then some 8 else none } rq (fun t b =>
    let h := if bit (leAt b 0x0C 4) 0 then Hub.h1 else .h0
    if t.dev.lead = some h || rejoinBusy t || swapBusy t || t.record.storeFull then .fail t stInUse
    else .stay (startRejoin t h (hostRead t rq.port (leAt b 0 8) (leAt b 8 4))
      { image := [], fwStep := 0, port := rq.port, box := rq.box }))

/-- FW_LOAD (R426, R427, R433). -/
def execFwLoad (rq : MbxReq) (s : State) : Result :=
  mailbox s { loadSpec 0x0003 with
      service := true, range := fun b => if 0x4000000 < leAt b 8 6 then some 8 else none } rq (fun t b =>
    match t.dev.lead with
    | none => .fail t stInUse
    | some l =>
      if !bothInService t || rejoinBusy t || protBusy t || swapBusy t || t.record.storeFull then .fail t stInUse
      else
        let img := hostImage t rq.port b
        let f : FwUpdate := { host := leAt b 0 8, len := leAt b 8 6, port := rq.port, box := rq.box, step := 1, first := l.other
                              portWasUp := (t.port l.other.port).linkUp }
        .stay (startRejoin (t.updDev (fun d => { d with fw := some f })) l.other img
          { image := [], fwStep := 1, port := rq.port, box := rq.box }))

/-- Steps 4 and 5 of R422, the hub's GCOUNT the lead's (R368), or the answer of the step that failed. -/
def execHubRejoinDone (hub : Hub) (s : State) : Result :=
  let x := s.hub hub
  .next (match x.rejoin with
    | none => s
    | some r =>
      let clear (t : State) : State := t.updHub hub (fun x => { x with rejoin := none })
      match r.failed with
      | some (st, d) => answerRejoin (refreshState (noteBoot (clear s) hub r.cause st)) r st d
      | none =>
        if x.phase != .locked then s
        else
          let g := s.now
          let s := (clear s).updHub hub (fun x => { x with phase := .joined, svc := .inService, gcount := g })
          let s := noteRepair (noteBoot s hub r.cause stOk) 11 hub.num 0
          answerRejoin (refreshState (requestSlice s { kind := .takeBack hub })) r stOk 0)

/-- Step 3 of R426: the planned takeover, once the rejoined hub's port is up again where it was up before; the old lead
then rejoins with the same image, read again from the host (step 4). A third abandonment of the takeover ends the update with class HUB (R410). -/
def execFirmwareActivation (s : State) : Result :=
  .next (match s.dev.fw with
    | none => s
    | some f =>
      if f.step != 2 || (f.portWasUp && !(s.port f.first.port).linkUp) || !s.dev.slices.isEmpty || !sliceAllowed s then s
      else if s.dev.late = 0 then
        let img := hostRead s f.port f.host f.len
        let s := (giveLead s f.first).updDev (fun d => { d with
          lastSliceEnd := some s.now, fw := some { f with step := 4 } })
        startRejoin s f.first.other img { image := [], fwStep := 4, port := f.port, box := f.box }
      else
        let s := s.updDev (fun d => { d with
          lastSliceEnd := some s.now, late := d.late - 1, fw := some { f with abandons := f.abandons + 1 } })
        if f.abandons + 1 < 3 then s else endUpdate s stAborted 0x0D)

/-! The black box (R430 to R434). -/

def recordSpec (code : Nat) : CmdSpec := { code := code, states := [0, 1, 2, 3] }

/-- The entries BBOX_READ sees, held ones too, in ascending SEQ (R434). -/
def blackBox (s : State) : List LogEntry := sortBy (·.seq) (s.record.log ++ s.record.held)

/-- OLDEST_SEQ of an empty log is a free value (log 29). -/
def execBboxInfo (rq : MbxReq) (s : State) : Result :=
  mailbox s (recordSpec 0x00C8) rq (fun t _ =>
    let r := t.record
    let (oldest, t) := match r.log with
      | e :: _ => (leBytes 8 e.seq, t)
      | [] => freeBytes t 8
    .okWith t (oldest ++ leBytes 8 r.nextSeq ++ leBytes 4 r.held.length ++ leBytes 4 r.dropped ++
      leBytes 4 (if r.writable then 1 else 0)))

/-- NEXT_SEQ of an answer with no entry is a free value (log 29). -/
def execBboxRead (rq : MbxReq) (s : State) : Result :=
  mailbox s { recordSpec 0x00C9 with
      len := some 16, reserved := [(0x09, 0, 56)], sizes := [(0x08, 1)]
      range := fun b => if 31 < leAt b 8 1 then some 8 else none } rq (fun t b =>
    let es := ((blackBox t).filter (fun e => decide (leAt b 0 8 ≤ e.seq))).take (leAt b 8 1)
    let (next, t) := match es.getLast? with
      | some e => (leBytes 8 (e.seq + 1), t)
      | none => freeBytes t 8
    .okWith t (leBytes 1 es.length ++ zeros 7 ++ next ++ es.flatMap LogEntry.bytes))

/-- The record die can no longer be written: software sees a DEVICE_STATE event, the device state being as it was (R384, R385, R433). -/
def execRecordFault (s : State) : Result :=
  .next (if s.record.writable then
      let lost (h : HubState) : HubState := { h with recordOk := false }
      let s := noteFault (((s.updRecord (fun r => { r with writable := false })).updHub .h0 lost).updHub .h1 lost) 0x0F 0
      postBoth s { code := 0x0002, arg0 := s.dev.dstate }
    else s)

/-- An entry that keeps the sequence number it was held with (R433). -/
def RecordDie.place (r : RecordDie) (e : LogEntry) : RecordDie :=
  let r := r.reclaim
  let r := if r.log.length % entriesPerSegment = 0 then
      let m := r.make kindSummary e.gcount r.life.bytes
      { r with log := r.log ++ [m], nextSeq := r.nextSeq + 1 }
    else r
  { r with log := r.log ++ [e] }

/-- The record returns: held entries in SEQ order, then one LOST entry if any was dropped (R433). -/
def execRecordRecovered (s : State) : Result :=
  .next (if s.record.writable then s
    else
      let s := s.updRecord (fun r =>
        { ((sortBy (·.seq) r.held).foldl RecordDie.place { r with held := [] }) with writable := true })
      let back (h : HubState) : HubState := { h with recordOk := h.image.isSome }
      let s := (s.updHub .h0 back).updHub .h1 back
      let body := leBytes 4 s.record.droppedNow ++ zeros 4 ++ leBytes 8 s.record.firstDropped
      let s := if s.record.droppedNow = 0 then s else append s kindLost body
      s.updRecord (fun r => { r with droppedNow := 0, firstDropped := 0 }))

end Sys2Proof.Machine
end

