-- ==== Sys2Proof/Machine/Sched.lean ====
section
/-! DEFINITION. Claims, placement and the end of tasks (R62, R66, R68, R78, R81, R234 to R240, R405). -/

namespace Sys2Proof.Machine

open Sys2Proof

/-- Logical cores of the device (R13). -/
def numCores : Nat := 512

/-- A core takes work: it is in service and is not being moved away or fenced (R389, R416), and the memory of the smallest serving set is
left (R408). -/
def takesTasks (s : State) (core : Nat) : Bool :=
  memoryLeft s && coreInService s core && !s.dev.retiring.any (fun r => (s.physCore r.1).logical == some core) &&
    (match physServing s core with
     | some p => !(s.physCore p).fencing
     | none => false)

/-- The running command of a queue with its operation, when a core belongs to its job's group. -/
def runningOn (s : State) (core num serial : Nat) : Option (Cmd × OpRun) :=
  match findCmd s num serial, runOfCmd s num serial with
  | some c, some (_, r) => if c.phase == .running && r.job.octets.contains (core / 8) then some (c, r) else none
  | _, _ => none

/-! Claims (R234, R237). -/

/-- The tiles of a die in a phase, in ascending claim index. -/
def dieTiles (c : Cmd) (die phase : Nat) : List Tile := c.tiles.filter (fun t => t.claim.die == die && t.claim.phase == phase)

/-- A re-issued tile of the die waits to be placed, before any new claim (R236). -/
def reissueWaits (c : Cmd) (die : Nat) : Bool := c.tiles.any (fun t => t.claim.die == die && t.reissue && t.status == 1)

/-- A piece stands ready in a die's key cache. -/
def pieceReady (d : DieState) (x : PieceId) : Bool := d.cache.any (fun e => e.piece == x && e.ready)

/-- The core receives the tile the prior counter value names; its packets take their numbers (R282), the pieces it waits for go
first (R248). -/
def takeClaim (s : State) (r : OpRun) (core num serial : Nat) (t : Tile) : State :=
  let claim := { t.claim with claimer := core }
  let s := updTile s num serial t.claim.claimIndex (fun t => { t with claim := claim, status := 1, core := core })
  let s := wakeCore (s.updCore core (fun c => { c with held := c.held ++ [(num, claim)] })) core
  let s := numberTile r s { t with claim := claim }
  urge s r.cmd.prio r.cmd.dispatchOrder t.claim.claimIndex
    ((tilePieces s r t).filter (fun p => !pieceReady (s.die t.claim.die) p))

/-- CLAIM: a fetch-add of 1 on the die's counter word of the phase. A core holds at most one tile of a command that is not
placed. -/
def execClaim (core queue serial phase : Nat) (s : State) : Result :=
  if numCores ≤ core then .fault .noSuchUnit
  else .next (match runningOn s core queue serial with
    | none => s
    | some (c, r) =>
      let die := dieOfCore core
      if !takesTasks s core || decide (r.body.phases.length ≤ phase) || reissueWaits c die ||
          (s.core core).held.any (fun h => h.1 == queue && h.2.opSerial == serial) then s
      else
        let word := counterWord c.entry.counterAddr phase die
        let v := farWord s.far word
        let s := deviceWrite (touchFar s word) word (leBytes 8 (v + 1).toNat)
        match (dieTiles c die phase)[v.toNat]? with
        | some t => if t.status = 0 then takeClaim s r core queue serial t else s
        | none => s)

/-! Placement (R62, R224, R236 to R240). -/

/-- Positions `start` up to `start + len - 1` of an axis. -/
abbrev Span := Nat × Nat

def spansMeet (a b : Span) : Bool := decide (a.1 < b.1 + b.2) && decide (b.1 < a.1 + a.2)

/-- The positions of the phase before that a rule names for what a tile covers of an axis hold some of another's (R224). -/
def axisMeets (count : CountSrc → Nat) (d : AxisDep) (t u : Span) : Bool :=
  match d with
  | .all => true
  | .same => spansMeet t u
  | .span mul div add len => (List.range t.2).any (fun i =>
      spansMeet ((t.1 + i) * count mul / max 1 (count div) + count add, count len) u)

/-- The tiles of the phase before on which a tile depends: a function of its coordinates and the shape values (R224). -/
def dependsOn (r : OpRun) (p : Phase) (c : Cmd) (t : Tile) : List Tile :=
  match p.deps with
  | none => []
  | some d =>
    let meets (a : AxisDep) (x y : Span) : Bool := axisMeets (r.count (2 * r.planLevel)) a x y
    c.tiles.filter (fun u => u.claim.phase + 1 == t.claim.phase && meets d.key (t.key, 1) (u.key, 1) &&
      meets d.limb (t.limb, 1) (u.limb, 1) && meets d.blk (t.blk, t.blks) (u.blk, u.blks) &&
      meets d.item (t.item, t.items) (u.item, u.items))

/-- A tile a core may be given: queue, priority, its command, operation, phase. -/
structure Candidate where
  queue : Nat
  prio : Nat
  cmd : Cmd
  run : OpRun
  phase : Phase
  tile : Tile
deriving Repr

/-- The held tile of a core in a command, and the re-issued tiles of its die. -/
def tilesFor (s : State) (core num : Nat) (c : Cmd) : List Tile :=
  c.tiles.filter (fun t => t.status == 1 && t.claim.die == dieOfCore core &&
    (t.reissue || (s.core core).held.any (fun h => h.1 == num && h.2.opSerial == c.serial.toNat && h.2.claimIndex == t.claim.claimIndex)))

def candidates (s : State) (core : Nat) : List Candidate :=
  s.tab.queues.flatMap (fun q => q.cmds.flatMap (fun c =>
    match runningOn s core q.num c.serial.toNat with
    | some (c, r) => (tilesFor s core q.num c).filterMap (fun t =>
        (r.body.phases[t.claim.phase]?).map (fun p =>
          { queue := q.num, prio := c.prio, cmd := c, run := r, phase := p, tile := t }))
    | none => []))

/-- The lowest free slot a phase may use (R61, R225); R62 says a free slot and no more (DESIGN CHOICE, log 140). -/
def slotFor (c : CoreCtx) (p : Phase) : Option Nat := lowestFree (min 4 p.slots) (c.slots.map (·.1))

/-- The buddy of a mirrored binding: the core it names, or where that is out of service the lowest other core of the group in
service (R85: a new buddy is assigned at the next operation; which one is open, DESIGN CHOICE, log 113). -/
def buddyOf (s : State) (r : OpRun) (core : Nat) (b : HandleBind) : Option Nat :=
  if coreInService s b.peer then some b.peer else minList (r.cores.filter (fun c => c != core && coreInService s c))

/-- The entry the die controller writes for a binding (R68 to R70): a copy only of a LOCAL buffer, an operation only of an
accumulator, a peer only where one is named. An OWNER of 0 to 3 in a binding list stands for the task's own slot, whichever that is:
the spec does not say how a binding list, which is written before the slot is known, names it (DESIGN CHOICE, log 141). -/
def handleOf (slot : Nat) (bound : List Nat) (buddy : Nat) (t : Tile) (b : HandleBind) : Handle :=
  let mirror := b.mirror && b.place == 0
  { valid := true, place := b.place, owner := if b.owner = 4 then 4 else slot, mirror := mirror, accum := b.accum
    accOp := if b.accum then b.accOp else 0
    peer := if b.place = 1 then b.peer else if mirror then buddy else 0
    buddyBase := if mirror then b.buddyBase else 0, base := handleBase b bound (tileStep b t), length := b.length }

/-- The handles of a binding list that a task owns. -/
def ownedHandles (p : Phase) : List Nat := (p.binds.filter (fun b => b.owner != 4)).map (·.handle)

/-- The entries of a tile's bindings on a core: those the task owns lie `slotStep` further on for each slot (R62, R85, R207). -/
def tileHandles (s : State) (x : Candidate) (core slot : Nat) : List (Nat × Handle) :=
  x.phase.binds.map (fun b => (if b.owner = 4 then b.handle else b.handle + slot * x.phase.slotStep,
    handleOf slot x.run.bound ((buddyOf s x.run core b).getD b.peer) x.tile b))

/-- An entry to be written stands already for another buffer and is in use: owned by a task in another slot, or shared while tasks
run there (R62, R65). -/
def entryTaken (c : CoreCtx) (e : Nat × Handle) : Bool :=
  let h := tabGet ({} : Handle) c.handles e.1
  h.valid && h != e.2 && (if h.owner = 4 then !c.slots.isEmpty else c.slots.any (fun t => t.1 == h.owner))

/-- The accumulator buffers a tile names, each with the core that holds it and its base. -/
def accumNames (x : Candidate) (core : Nat) : List (Nat × Nat) :=
  (x.phase.binds.filter (·.accum)).map (fun b => (if b.place = 1 then b.peer else core, handleBase b x.run.bound (tileStep b x.tile)))

/-- The accumulator buffers a tile would open leave no core with more than 16 (R78). -/
def accumsFit (s : State) (x : Candidate) (core : Nat) : Bool :=
  let names := (accumNames x core).eraseDups
  let fresh := names.filter (fun n => !(s.core n.1).accums.any (fun a =>
    a.queue == x.queue && a.serial == x.run.serial && a.bind.base == n.2))
  names.all (fun n => !fresh.contains n ||
    decide ((s.core n.1).accums.length + (fresh.filter (fun y => y.1 == n.1)).length ≤ accumMax))

/-- A candidate can be placed now. -/
def placeable (s : State) (core : Nat) (x : Candidate) : Bool :=
  let c := s.core core
  ((slotFor c x.phase).map (fun slot => !(tileHandles s x core slot).any (entryTaken c))).getD false && accumsFit s x core &&
    c.slots.all (fun t => ofCommand x.run.job.id x.run.serial t.2) &&
    (dependsOn x.run x.phase x.cmd x.tile).all (fun t => t.status == 3) && packetsFit s x.run x.tile

/-- The order of choice of R238. -/
def commandKey (prio order : Nat) : Nat := (256 - prio) * 2 ^ 65 + order * 2

def candidateKey (x : Candidate) : Nat := commandKey x.prio x.cmd.dispatchOrder + (if x.tile.reissue then 0 else 1)

/-- A tile of a command is there to be claimed for a core (R234, R237, R238). -/
def claimable (s : State) (core num : Nat) (c : Cmd) (r : OpRun) : Bool :=
  let die := dieOfCore core
  !reissueWaits c die && !(s.core core).held.any (fun h => h.1 == num && h.2.opSerial == c.serial.toNat) &&
    (List.range r.body.phases.length).any (fun p =>
      decide ((farWord s.far (counterWord c.entry.counterAddr p die)).toNat < (dieTiles c die p).length))

/-- The places in the order of R238 of the commands a core could claim from. While it holds a task it takes only its command. -/
def claimKeys (s : State) (core : Nat) : List Nat :=
  s.tab.queues.flatMap (fun q => q.cmds.filterMap (fun c =>
    match runningOn s core q.num c.serial.toNat with
    | some (c, r) =>
      if claimable s core q.num c r && (s.core core).slots.all (fun t => ofCommand r.job.id r.serial t.2)
      then some (commandKey c.prio c.dispatchOrder) else none
    | none => none))

/-- LEVEL of the header of a tile's first operand, as the die controller reads it at placement (R239). -/
def headerLevel (s : State) (r : OpRun) (t : Tile) : Option Nat :=
  (r.sources.find? (fun k => (r.desc k).hdr)).map (fun k =>
    let b := itemAt (r.batchCounts k).1 t.item
    (readHdr s r k b.1 b.2).hdr.level)

/-- The level by which the reads of a phase are cut: that of the operand's header, where the phase works at it (R239). A
bootstrap does so in StC alone, at three pairs at most (R258); SWITCH.OUT reads as at level 1 (R263); LUT and REPACK work at
levels of their own (R265, R270). -/
def skipLevel (r : OpRun) (p : Phase) (header : Nat) : Option Nat :=
  let op := r.entry.opcode
  if op = opBootstrap then (if r.phaseLevel p ≤ 3 then some (min 3 header) else none)
  else if op = opRepack ∨ op = opLut then none
  else if op = opSwitchOut then some 1
  else some header

/-- The tile's LIMB position lies at or above the level of its operand. -/
def limbSkipped (r : OpRun) (p : Phase) (t : Tile) (level : Nat) : Bool :=
  p.limbAxis && decide (2 * level ≤ t.limb) && decide (t.limb < 2 * r.phaseLevel p)

/-- A piece that a level leaves unread: of a digit at or above D(ℓ), or of a pair limb at or above 2ℓ (R147, R239, R240). -/
def pieceSkipped (s : State) (r : OpRun) (level : Nat) (x : PieceId) : Bool :=
  match findCaddy s x.caddy, r.chain s with
  | some c, some ch =>
    match c.keys[x.key]? with
    | some e => (e.kkind == 1 || e.kkind == 2) && (decide (digitsAt ch.pairs.length c.dnum level ≤ x.digit) ||
        (decide (2 * level ≤ x.limb) && decide (x.limb < 2 * pairsOf s c)))
    | none => false
  | _, _ => false

/-- The level of a candidate's reads, as the die controller sees it at placement. -/
def Candidate.skip (s : State) (x : Candidate) : Option Nat := (headerLevel s x.run x.tile).bind (skipLevel x.run x.phase)

/-- A tile gives up its reads of pieces: an entry with neither pin nor reader left is freed (R167, R168, R240). A prefetch pin
goes with the last read of its command, that of a command which marks its keys as reused stays (R168, R246). -/
def dropReads (num serial index : Nat) (keepPins : Bool) (gone : PieceId → Bool) (d : DieState) : DieState :=
  let me (r : Nat × Nat × Nat) : Bool := r == (num, serial, index)
  { d with cache := ((d.cache.map (fun e =>
      if gone e.piece && e.readers.any me then
        let left := e.readers.filter (fun r => !me r)
        { e with readers := left
                 pins := if keepPins || left.any (fun r => r.1 == num && r.2.1 == serial) then e.pins
                   else e.pins.filter (· != (num, serial)) }
      else e)).filter (fun e => !(e.pins.isEmpty && e.readers.isEmpty))) }

/-- The mirrored buffer of a handle stands in its core's list, once per operation. The copy of an accumulator buffer into which
cores that name it REMOTE have folded already starts as the buffer stands (R83, log 113). -/
def openMirror (num serial core : Nat) (s : State) (h : Handle) : State :=
  if !h.mirror || (s.core core).mirrors.any (fun m => m.base == h.base && m.queue == num && m.serial == serial) then s
  else
    let m : MirrorBuf :=
      { base := h.base, length := h.length, buddy := h.peer, buddyBase := h.buddyBase, queue := num, serial := serial }
    let bytes := memReadN (s.core core).scratch h.base h.length
    let s := if h.accum then s.updCore h.peer (fun c => c.store [(h.buddyBase, bytes)]) else s
    s.updCore core (fun c => { c with mirrors := c.mirrors ++ [m] })

/-- The accumulator buffer a binding names stands on the core that holds it (R78). -/
def ensureAccum (num serial lowest base : Nat) (b : HandleBind) (c : CoreCtx) : CoreCtx :=
  let h : HandleBind := { b with base := base, word := none, step := {} }
  let mine (a : Accum) : Bool := a.queue == num && a.serial == serial && a.bind.base == h.base
  if c.accums.any mine then
    (if b.place = 0 then { c with accums := updWhere mine (fun a => { a with bind := h }) c.accums } else c)
  else { c with accums := c.accums ++ [{ handle := b.handle, queue := num, serial := serial, lowest := lowest
                                         bind := if b.place = 0 then h else { h with place := 0, peer := 0, mirror := false } }] }

/-- The phase of an entry that folds into a buffer (R78). -/
def foldPhase (b : BodyEntry) (h : HandleBind) : Option Nat := ((foldedBuffers b).find? (fun x => buffersMeet x.1 h)).map (·.2)

/-- The accumulator buffers a tile names stand; a log counts from the lowest claim index of the phase that folds (R78, R80). -/
def openAccums (s : State) (x : Candidate) (core : Nat) : State :=
  (x.phase.binds.filter (·.accum)).foldl (fun s b =>
    let phase := (foldPhase x.run.body b).getD x.tile.claim.phase
    let lowest := (minList ((x.cmd.tiles.filter (fun t => t.claim.phase == phase)).map (·.claim.claimIndex))).getD 0
    s.updCore (if b.place = 1 then b.peer else core)
      (ensureAccum x.queue x.run.serial lowest (handleBase b x.run.bound (tileStep b x.tile)) b)) s

/-- Event counters are zero before the first task of an operation on a core (R66). -/
def firstTask (s : State) (num serial core : Nat) : State :=
  match findCmd s num serial with
  | some c => if c.cores.contains core then s
    else updCmd (s.updCore core (fun x => { x with events := [] })) num (isSerial serial) (fun c => { c with cores := c.cores ++ [core] })
  | none => s

/-- Reads a tile skips at its placement are taken off the consumer counts (R239, R240). -/
def skipReads (s : State) (x : Candidate) (gone : PieceId → Bool) : State :=
  s.updDie x.tile.claim.die (dropReads x.queue x.run.serial x.tile.claim.claimIndex (pinsKeys x.run) gone)

/-- A tile is reported done. -/
def tileDone (s : State) (num serial index : Nat) : State := updTile s num serial index (fun t => { t with status := 3, reissue := false })

def unhold (num serial index : Nat) (c : CoreCtx) : CoreCtx :=
  { c with held := c.held.filter (fun h => !(h.1 == num && h.2.opSerial == serial && h.2.claimIndex == index)) }

/-- The task of a tile in a slot; `skip` is the level by which its reads are cut. -/
def taskOf (s : State) (x : Candidate) (skip : Option Nat) : Task :=
  let gone (p : PieceId) : Bool := (skip.map (fun l => pieceSkipped s x.run l p)).getD false
  let need := (tilePieces s x.run x.tile).filter (fun p => !gone p)
  { job := x.run.job.id, queue := x.queue, claim := x.tile.claim, code := x.phase.code, bound := x.run.bound.map (BitVec.ofNat 32)
    key := x.tile.key, limb := x.tile.limb, blk := x.tile.blk, owned := ownedHandles x.phase, sregs := taskSregs x.run x.phase x.tile, waitSince := s.now
    keysPending := need.filter (fun p => !pieceReady (s.die x.tile.claim.die) p) }

/-- The chosen tile is placed: its packets sent; skipped whole where R239 says so, else its task, its handle entries, its
buffers. -/
def placeTile (s : State) (core : Nat) (x : Candidate) : State :=
  let serial := x.run.serial
  let index := x.tile.claim.claimIndex
  let skip := x.skip s
  let s := sendTile x.run s x.tile
  let s := s.updCore core (unhold x.queue serial index)
  if (skip.map (limbSkipped x.run x.phase x.tile)).getD false then
    idleCore (tileDone (skipReads s x (fun _ => true)) x.queue serial index) core
  else
    match slotFor (s.core core) x.phase with
    | none => s
    | some slot =>
      let task := { taskOf s x skip with shift := slot * x.phase.slotStep }
      let s := skipReads s x (fun p => (skip.map (fun l => pieceSkipped s x.run l p)).getD false)
      let s := firstTask s x.queue serial core
      let s := openAccums s x core
      let hs := tileHandles s x core slot
      let s := hs.foldl (fun s h => openMirror x.queue serial core s h.2) s
      let s := s.updCore core (fun c => { c with
        slots := tabSet c.slots slot task
        handles := hs.foldl (fun t h => tabPut {} t h.1 h.2) c.handles })
      let s := updTile s x.queue serial index (fun t => { t with status := 2, core := core, reissue := false })
      wakeCore (urge s x.prio x.cmd.dispatchOrder index task.keysPending) core

/-- TASK_PLACE: the tile first in the order of R238, unless a command before it has one to claim for the core (log 112). -/
def execTaskPlace (core : Nat) (s : State) : Result :=
  if numCores ≤ core then .fault .noSuchUnit
  else .next (if !takesTasks s core then s
    else match (sortBy candidateKey ((candidates s core).filter (placeable s core))).head? with
      | some x => if (claimKeys s core).any (fun k => decide (k < commandKey x.prio x.cmd.dispatchOrder)) then s
        else placeTile s core x
      | none => s)

/-! The end of a task (R62, R86, R235, R405). -/

/-- Every instruction of a slot's task has completed. -/
def taskEnded (c : CoreCtx) (slot : Nat) (t : Task) : Bool :=
  decide (t.code.length ≤ t.ip) && !c.flight.any (fun i => i.slot == slot)

/-- The slot is freed, the handle entries the task owned become invalid. -/
def freeTask (slot : Nat) (c : CoreCtx) : CoreCtx :=
  { c with slots := tabErase c.slots slot
           handles := (c.handles.map (fun h => if h.2.owner = slot then (h.1, ({} : Handle)) else h)).filter (fun h => h.2 != {}) }

/-- The claim is reported done; a report with another ATTEMPT than the controller's copy is discarded. -/
def reportDone (s : State) (t : Task) : State :=
  match (tilesOf s t.queue t.claim.opSerial).find? (fun u => u.claim.claimIndex == t.claim.claimIndex) with
  | some u => if u.claim.attempt = t.claim.attempt && u.status == 2 then tileDone s t.queue t.claim.opSerial t.claim.claimIndex else s
  | none => s

/-- TASK_COMPLETE. -/
def execTaskComplete (core slot : Nat) (s : State) : Result :=
  if numCores ≤ core then .fault .noSuchUnit
  else .next (match tabGet? (s.core core).slots slot with
    | none => s
    | some t =>
      if !taskEnded (s.core core) slot t then s
      else
        let s := reportDone (s.updCore core (freeTask slot)) t
        let keep := ((runOfCmd s t.queue t.claim.opSerial).map (fun r => pinsKeys r.2)).getD false
        let s := s.updDie t.claim.die (dropReads t.queue t.claim.opSerial t.claim.claimIndex keep (fun _ => true))
        idleCore (settleRetire s core) core)

/-! Pass notices (R81). -/

/-- The bit of a tile in a buffer's fold log. -/
def logBit (a : Accum) (c : Claim) : Nat := c.claimIndex - a.lowest

/-- The buffer a fold or a notice reaches: of the claim's command. -/
def takesFrom (s : State) (a : Accum) (c : Claim) : Bool :=
  a.serial == c.opSerial && decide (a.lowest ≤ c.claimIndex) && decide (logBit a c < 4096) &&
    (tilesOf s a.queue a.serial).any (fun t => t.claim.claimIndex == c.claimIndex && t.claim.phase == c.phase)

def markLog (a : Accum) (c : Claim) : Accum := { a with log := a.log ||| (1#4096 <<< logBit a c) }

/-- PASS_NOTICE: a tile that completed without a fold into the buffer. -/
def execPassNotice (core handle : Nat) (claim : Claim) (s : State) : Result :=
  if numCores ≤ core then .fault .noSuchUnit
  else
    let due (a : Accum) : Bool := a.handle == handle && takesFrom s a claim &&
      !a.waiting.any (fun w => w.claim.claimIndex == claim.claimIndex) &&
      (tilesOf s a.queue a.serial).any (fun t => t.claim.claimIndex == claim.claimIndex && t.status == 3)
    .next (s.updCore core (fun c => { c with accums := updWhere due (fun a => markLog a claim) c.accums }))

end Sys2Proof.Machine
end

