-- ==== Sys2Proof/Machine/CoreInstr.lean ====
section
/-! DEFINITION. The core's instructions: which slot issues (R58, R59, R64), the engines, DMA movers and folds (R79 to R81,
R94, R117, R122, R135, R242), events and fences (R66, R67, R86), the issuer's own instructions (R57). -/

namespace Sys2Proof.Machine

open Sys2Proof

/-! What an instruction names. -/

/-- The handles an instruction writes, an accumulator buffer among them. -/
def handlesWritten (i : CoreInstr) : List Nat := (writtenHandle i).toList ++ (foldHandle i).toList

/-- The target of an instruction: 0 NTT engine, 1 MXA, 2 VXE, 3 DMA movers, 4 an accumulator buffer; none: the event unit
or the issuer (R57). Which of the six targets a FOLD issues to the spec does not say, nor whether the four entries of R58 hold
for it: here it is a target of its own, started at once and without a limit (DESIGN CHOICE, log 115). -/
def targetOf : CoreInstr → Option Nat
  | .nttFwd _ | .nttInv _ => some 0
  | .matmul _ | .inner _ | .bconvFast _ | .bconvExact _ => some 1
  | .vxe _ => some 2
  | .dma _ => some 3
  | .fold _ => some 4
  | _ => none

def isKeySwitch (i : CoreInstr) : Bool := (keyUse i).isSome

/-! An instruction as it runs. -/

/-- An instruction as it runs: its core, task and operation, the scalar registers and the operation's level at its issue, the count of
its inner batch loop. -/
structure Issue where
  core : Nat
  task : Task
  sregs : Tab W64
  lvl2 : Nat
  run : Option OpRun
  racy : Bool := false
  n0 : Nat := 1
deriving Repr

def runOfTask (s : State) (t : Task) : Option OpRun := (runOfCmd s t.queue t.claim.opSerial).map (·.2)

/-- An instruction of a task as it would issue now. -/
def issueNow (s : State) (core : Nat) (t : Task) : Issue :=
  let r := runOfTask s t
  { core := core, task := t, sregs := t.sregs, lvl2 := (r.map (·.lvl2)).getD 0, run := r }

def Issue.bound (x : Issue) : List Nat := x.task.bound.map (·.toNat)
def Issue.count (x : Issue) (c : CountSrc) : Nat := countOf x.sregs x.bound x.lvl2 c
def Issue.view (x : Issue) (s : State) (h : Nat) : View := viewOfHandle x.core (tabGet {} (s.core x.core).handles (x.task.entryOf h))

/-- The extents of a descriptor at issue and the dimensions held to ALLOC (R178). -/
def Issue.extents (x : Issue) (lvl2 : Nat) (d : Desc) : List Nat × List Nat := extentsOf d x.sregs x.bound lvl2

/-- The tile the instruction's task works on. -/
def Issue.tile (x : Issue) (s : State) : Option Tile :=
  (tilesOf s x.task.queue x.task.claim.opSerial).find? (fun t => t.claim.claimIndex == x.task.claim.claimIndex)

/-- The chain of the program a task runs (R205). -/
def Issue.chain (x : Issue) (s : State) : Option Chain :=
  (runOfCmd s x.task.queue x.task.claim.opSerial).bind (fun r => findChain s r.1.chainId)

/-- The prime of a slot of that chain, 0 where it names none (R93). -/
def Issue.prime (x : Issue) (s : State) (slot : Nat) : Nat := (((x.chain s).bind (·.slotPrime slot))).getD 0

/-! Items and levels (R177 to R180, R184). -/

/-- Batch items of an instruction, b1-major. -/
def Issue.items (x : Issue) (b0 b1 : CountSrc) : List (Nat × Nat) :=
  (List.range (x.count b0 * x.count b1)).map (itemAt (x.count b0))

/-- The batch item of the command that an item of an instruction is: the tile's own, counted on. -/
def Issue.itemOf (x : Issue) (s : State) (i : Nat) : Nat := ((x.tile s).map (·.item)).getD 0 + i

/-- The batch loops of an instruction. -/
def instrBatch : CoreInstr → CountSrc × CountSrc
  | .matmul o | .inner o => (o.batch0, o.batch1)
  | .bconvFast o | .bconvExact o => (o.batch0, o.batch1)
  | .vxe o => (o.batch0, o.batch1)
  | .dma o => (o.batch0, o.batch1)
  | _ => (.fixed 1, .fixed 1)

/-- The issue of one instruction. -/
def Issue.of (x : Issue) (i : CoreInstr) : Issue := { x with n0 := x.count (instrBatch i).1 }

/-- LEVEL of the object an instruction reads or writes as an item of a descriptor with a header: its header's, or that held for the
result of its item (R179); the template's where only one of the two is an LWE batch (R184). -/
def Issue.hdrLevel (x : Issue) (s : State) (dst : Bool) (d : Desc) (b : Nat × Nat) : Nat :=
  let level (h : Hdr) : Nat := if (h.kind == 4) != (d.tKind == 4) then d.tLevel else h.level
  if dst then
    let item := x.itemOf s (b.2 * x.n0 + b.1)
    ((((findCmd s x.task.queue x.task.claim.opSerial).map (·.hdrs)).getD []).find? (fun h => h.item == item)).elim
      d.tLevel (fun h => level (hdrOf h.hdr))
  else
    let f := (x.view s d.handle).fetch s 64 [(d.hdrOffset : Int) + itemOffset d b.1 b.2]
    let bytes := leBytes 64 (f.words.getD 0 0)
    if malformed s.tab.chains bytes then d.tLevel else level (hdrOf bytes)

/-- 2ℓ for an item of a descriptor (R179). -/
def Issue.lvlOf (x : Issue) (s : State) (dst : Bool) (d : Desc) (b : Nat × Nat) : Nat :=
  if d.hdr then 2 * x.hdrLevel s dst d b else x.lvl2

/-- An extent of an MXA instruction at one of its items: its count, held to the extents its operands have along it (R117, R177,
R178). -/
def Issue.mxaExtent (x : Issue) (s : State) (c : CountSrc) (dst : Desc) (ds : List (Desc × Nat)) (b : Nat × Nat) : Nat :=
  (minList (x.count c :: ds.map (fun d => (x.extents (x.lvlOf s (d.1 == dst) d.1 b) d.1).1.getD d.2 1))).getD 0

/-! Key pieces an instruction names (R147, R164). -/

/-- The limb of a key under a position of a phase's basis. -/
def keyLimb (own level : Nat) (e : KeyEntry) (y : Nat) : Nat :=
  if e.kkind = 5 then y
  else if e.kkind = 3 then (if y < 2 then y else 2 + (y - 2 * level))
  else if y < 2 * level then y
  else 2 * own + (y - 2 * level)

/-- The piece an element of a key-switch operand lies in: summed index t, column c; none where the key has no such piece
(R174). -/
def Issue.piece (x : Issue) (s : State) (u : KeyUse) (t c : Nat) : Option PieceId :=
  match x.run with
  | none => none
  | some r =>
    match (r.keys[u.key.getD x.task.key]?).bind (r.key s), r.body.phases[x.task.claim.phase]? with
    | some (k, ix, e), some p =>
      let limb := match u.limb with
        | some l => l + c
        | none => keyLimb (pairsOf s k) (r.phaseLevel p) e (x.task.limb + c)
      if u.digit + t < e.digits ∧ limb < e.limbs then some { caddy := k.index, key := ix, digit := u.digit + t, limb := limb } else none
    | _, _ => none

/-- The pieces of a key switch's operand for its summed and column extents. -/
def Issue.piecesTo (x : Issue) (s : State) (u : KeyUse) (n cols : Nat) : List PieceId :=
  ((List.range n).flatMap (fun t => (List.range cols).filterMap (fun c => x.piece s u t c))).eraseDups

/-- The pieces an instruction names. -/
def namedPieces (s : State) (x : Issue) (i : CoreInstr) : List PieceId :=
  let x := x.of i
  let named (inner : Bool) (o : MxaOp) : List PieceId :=
    match o.key with
    | none => []
    | some u => ((x.items o.batch0 o.batch1).flatMap (fun b => x.piecesTo s u
        (if inner then x.mxaExtent s o.inner o.dst (mxaSummed inner o) b else 1) (x.mxaExtent s o.cols o.dst (mxaCols inner o) b))).eraseDups
  match i with
  | .matmul o => named false o
  | .inner o => named true o
  | _ => []

/-- The pieces an instruction could name: with every extent at the most its descriptors allocate (R178). -/
def couldName (s : State) (x : Issue) (i : CoreInstr) : List PieceId :=
  let most (ds : List (Desc × Nat)) : Nat := (minList (ds.map (fun d => (d.1.dim d.2).alloc))).getD 0
  let named (inner : Bool) (o : MxaOp) : List PieceId :=
    match o.key with
    | none => []
    | some u => x.piecesTo s u (if inner then most (mxaSummed inner o) else 1) (most (mxaCols inner o))
  match i with
  | .matmul o => named false o
  | .inner o => named true o
  | _ => []

/-! Issue (R58, R59, R64). -/

def nextInstr (t : Task) : Option CoreInstr := t.code[t.ip]?

def slotFlight (c : CoreCtx) (slot : Nat) : List InFlight := c.flight.filter (fun i => i.slot == slot)

/-- An instruction in flight that a later one of its slot waits for (R59). -/
def hazard (i : CoreInstr) (f : InFlight) : Bool :=
  f.writes.any (fun h => (readHandles i).contains h || (handlesWritten i).contains h) ||
    f.reads.any (fun h => (handlesWritten i).contains h)

/-- Issued and not started instructions of a target. -/
def notStarted (c : CoreCtx) (target : Nat) : Nat := (c.flight.filter (fun f => f.target == target && !f.started)).length

def eventCount (c : CoreCtx) (e : Nat) : W32 := tabGet 0 c.events e

/-- A key piece an instruction names has not yet come from the die key cache (R63). -/
def waitsForKey (s : State) (core : Nat) (t : Task) (i : CoreInstr) : Bool :=
  isKeySwitch i && (namedPieces s (issueNow s core t) i).any (fun p => t.keysPending.contains p)

/-- The next instruction of a slot can issue (R58, R66, R86). A key switch issues with every piece it names; a FENCE.KEY waits
until the earlier ones have read theirs (R172). -/
def canIssue (s : State) (core slot : Nat) : Bool :=
  let c := s.core core
  match tabGet? c.slots slot with
  | none => false
  | some t =>
    match nextInstr t with
    | none => false
    | some i => match i with
      | .scalar _ => true
      | .signal _ | .fenceSlot => (slotFlight c slot).isEmpty
      | .wait e v => decide (v ≤ (eventCount c e).toNat)
      | .fenceKey => !(slotFlight c slot).any (fun f => isKeySwitch f.instr)
      | _ => (targetOf i == some 4 || decide (notStarted c ((targetOf i).getD 0) < 4)) && !(slotFlight c slot).any (hazard i) &&
          !waitsForKey s core t i

/-- A running slot gives way: its task has ended, or its next instruction waits on late data: an operand that an inbound
transfer is still to write, an event, a key piece (R63, R64). -/
def givesWay (s : State) (core slot : Nat) : Bool :=
  let c := s.core core
  match tabGet? c.slots slot with
  | none => true
  | some t =>
    match nextInstr t with
    | none => true
    | some i => match i with
      | .wait _ _ => true
      | .signal _ | .fenceSlot | .fenceKey | .scalar _ => false
      | _ => (slotFlight c slot).any (fun f => inboundFlight c f && f.writes.any (fun h => (readHandles i).contains h)) ||
          waitsForKey s core t i

/-- The slot that issues. -/
def issueSlot (s : State) (core : Nat) : Option Nat :=
  let c := s.core core
  if canIssue s core c.running then some c.running
  else if givesWay s core c.running then ([1, 2, 3].map (fun k => (c.running + k) % 4)).find? (canIssue s core)
  else none

/-- A core issues while its physical core runs and is not fenced (R464, R389), and the memory of the smallest serving set is left
(R408). -/
def issues (s : State) (core : Nat) : Bool :=
  match physServing s core with
  | some p => memoryLeft s && (s.physCore p).power == .run && !(s.physCore p).fencing
  | none => false

/-- The task moves past its instruction. -/
def advance (now : W64) (t : Task) : Task := { t with ip := t.ip + 1, waitSince := now }

def updTask (c : CoreCtx) (slot : Nat) (f : Task → Task) : CoreCtx :=
  match tabGet? c.slots slot with
  | some t => { c with slots := tabSet c.slots slot (f t) }
  | none => c

/-- An instruction of an engine or of the movers enters its queue; an engine starts it at once when it can (R58, R106). -/
def enqueueInstr (now : W64) (slot target : Nat) (i : CoreInstr) (lvl2 : Nat) (t : Task) (c : CoreCtx) : CoreCtx :=
  startEngines (updTask { c with
    running := slot
    nextId := c.nextId + 1
    flight := c.flight ++ [{ id := c.nextId, slot := slot, target := target, started := target == 4
                             reads := readHandles i, writes := handlesWritten i, instr := i, scalars := t.sregs, lvl2 := lvl2
                             claim := t.claim }] }
    slot (advance now))

/-- The core issues its next instruction when that is one of a kind; `go` is what issuing it does. -/
def issueRow (core : Nat) (kind : CoreInstr → Bool) (go : State → Nat → Task → CoreInstr → State) (s : State) : Result :=
  if numCores ≤ core then .fault .noSuchUnit
  else .next (if !issues s core then s
    else match issueSlot s core with
      | none => s
      | some slot =>
        match tabGet? (s.core core).slots slot with
        | none => s
        | some t => match nextInstr t with
          | some i => if kind i then go s slot t i else s
          | none => s)

/-- The instructions of a task that are still to come, those a branch may return to, or in flight. A task that loops or branches is
taken to read every piece its code names again (DESIGN CHOICE, log 147: R167 does not say which of a task's several reads of one piece
lowers its count; the last one does here). -/
def restOf (s : State) (x : Issue) (slot : Nat) (id : Nat) : List CoreInstr :=
  let t := x.task
  let back := !t.loops.isEmpty || t.code.any (fun i => match i with
    | .scalar (.branch _) => true
    | _ => false)
  (if back then t.code else t.code.drop t.ip) ++ ((slotFlight (s.core x.core) slot).filter (fun f => f.id != id)).map (·.instr)

/-- Reads of key pieces that an issue skips are taken off the consumer counts at once: pieces that the instruction's extents, cut at
its issue, leave out and nothing else of its task can name (R240). -/
def skipAtIssue (s : State) (core slot : Nat) (t : Task) (i : CoreInstr) (id : Nat) : State :=
  let x := issueNow s core t
  let skipped := (couldName s x i).filter (fun p => !(namedPieces s x i).contains p)
  if skipped.isEmpty then s
  else
    let other := (restOf s { x with task := { t with ip := t.ip + 1 } } slot id).flatMap (couldName s x)
    let keep := (x.run.map pinsKeys).getD false
    s.updDie t.claim.die (dropReads t.queue t.claim.opSerial t.claim.claimIndex keep (fun p => skipped.contains p && !other.contains p))

def issueEngine (core : Nat) (s : State) (slot : Nat) (t : Task) (i : CoreInstr) : State :=
  let id := (s.core core).nextId
  let s := if isKeySwitch i then skipAtIssue s core slot t i id else s
  s.updCore core (enqueueInstr s.now slot ((targetOf i).getD 0) i (issueNow s core t).lvl2 t)

/-- NTT_FWD_INSTRUCTION. -/
def execNttFwdInstruction (core : Nat) (s : State) : Result :=
  issueRow core (fun i => match i with | .nttFwd _ => true | _ => false) (issueEngine core) s

/-- NTT_INV_INSTRUCTION. -/
def execNttInvInstruction (core : Nat) (s : State) : Result :=
  issueRow core (fun i => match i with | .nttInv _ => true | _ => false) (issueEngine core) s

/-- MXA_MATMUL. -/
def execMxaMatmul (core : Nat) (s : State) : Result :=
  issueRow core (fun i => match i with | .matmul _ => true | _ => false) (issueEngine core) s

/-- INNER. -/
def execInner (core : Nat) (s : State) : Result :=
  issueRow core (fun i => match i with | .inner _ => true | _ => false) (issueEngine core) s

/-- BCONV_FAST. -/
def execBconvFast (core : Nat) (s : State) : Result :=
  issueRow core (fun i => match i with | .bconvFast _ => true | _ => false) (issueEngine core) s

/-- BCONV_EXACT. -/
def execBconvExact (core : Nat) (s : State) : Result :=
  issueRow core (fun i => match i with | .bconvExact _ => true | _ => false) (issueEngine core) s

/-- VXE_CHAIN. -/
def execVxeChain (core : Nat) (s : State) : Result :=
  issueRow core (fun i => match i with | .vxe _ => true | _ => false) (issueEngine core) s

/-- DMA. -/
def execDma (core : Nat) (s : State) : Result :=
  issueRow core (fun i => match i with | .dma _ => true | _ => false) (issueEngine core) s

/-! Operands of an instruction. -/

/-- The elements an instruction touches through one descriptor, and those at its indices in order: where an automorphism or a STRIDE load
takes them from does not matter, since it reads its limb or run before any is delivered (R107). -/
structure Access where
  d : Desc
  view : View
  offs : List Int
  plain : List Int
deriving Repr

/-- One batch item of an instruction: what its operands and an accumulated destination read, what it writes, whether a block
check failed. -/
structure InstrItem where
  srcs : List Access
  prior : List Access := []
  writes : List (Int × Nat)
  bad : Bool
deriving Repr

/-- The load of an operand. -/
def Issue.access (x : Issue) (s : State) (d : Desc) (lvl2 : Nat) (ext : List Nat) (b : Nat × Nat) : Access :=
  { d := d, view := x.view s d.handle, offs := elemOffsets d lvl2 (readExtents d ext) b.1 b.2
    plain := elemOffsets (indexDesc d) lvl2 ext b.1 b.2 }

/-! NTT (R90 to R94, R97). -/

/-- Limb l of an NTT instruction under its prime: any word is taken modulo q (R92). Where a limb lies in its handle is open:
limb l stands at byte 4 · l · N from the base, in source and destination alike (DESIGN CHOICE, log 116). -/
def nttLimb (f : Nat → Nat → Limb → Limb) (x : Issue) (o : NttOp) (s : State) (l q : Nat) : InstrItem :=
  let n := 2 ^ o.log2n
  let d : Desc := { nttStream o with dataOffset := 4 * (l * n) }
  let ext := [n, 1, 1, 1, 1, 1]
  let w := fetchItem s (x.view s o.src) d 6 (deliver false) (fun _ => q) 0 ext 0 0
  { srcs := [x.access s d 0 ext (0, 0)], bad := w.bad
    writes := ((List.range n).map (fun i => ((4 * (l * n + i) : Nat) : Int))).zip (f o.log2n q (w.data.toList.map (· % q))) }

/-- NTT.FWD and NTT.INV (R94): limb l under the prime of slot s + l; a limb whose slot names no prime is absent. -/
def nttItems (f : Nat → Nat → Limb → Limb) (x : Issue) (o : NttOp) (s : State) : List InstrItem :=
  (List.range (x.count o.limbs)).filterMap (fun l =>
    ((findChain s o.chain).bind (·.slotPrime (o.slot0 + l))).map (nttLimb f x o s l))

/-! MXA (R117 to R121, R192). -/

/-- A part of block-sparse weights: an absent block is zero without being read (R192); every run is read whole (R103), and a COEFF
automorphism negates what it marks (R110). -/
def Issue.sparseItem (x : Issue) (s : State) (r : OpRun) (at_ : Nat × Nat) (d : Desc) (prime : Nat → Nat) (lvl2 : Nat)
    (ext : List Nat) (b : Nat × Nat) : Words × Access :=
  let absent (v : List Nat) : Bool := weightAbsent r (at_.1 + v.getD 1 0) (at_.2 + v.getD 0 0)
  let full := readExtents d ext
  let vs := indexVectors full
  let offs := ((elemOffsets d lvl2 full b.1 b.2).zip vs).filter (fun e => !absent e.2)
  let f := (x.view s d.handle).fetch s d.width (offs.map (·.1))
  let of (p : Nat) : Nat := prime (limbIndex 0 ext p)
  let ws := ltuNegated d (ext.getD 0 1) of (deliveredPart d ext (spreadWords absent vs f.words))
  ({ ext := ext, data := (ws.zipIdx.map (fun w => deliver false d (of w.2) w.1)).toArray, bad := f.bad, out := f.out },
    { d := d, view := x.view s d.handle, offs := offs.map (·.1)
      plain := ((elemOffsets (indexDesc d) lvl2 ext b.1 b.2).zip (indexVectors ext)).filterMap (fun e =>
        if absent e.2 then none else some e.1) })

/-- The B operand of a key switch: element [c, r, t] of an INNER is word r of the piece for (t, c), counted from the tile's
first coefficient block; element [c, i] of a MATMUL is word i of it. -/
def Issue.keyItem (x : Issue) (s : State) (u : KeyUse) (inner : Bool) (prime : Nat → Nat) (ext : List Nat) : Words :=
  let cols := ext.getD 0 1
  let sums := if inner then ext.getD 2 1 else 1
  let first := if inner then 1024 * x.task.blk else 0
  let hs : Array (List Nat × Bool) := ((List.range sums).flatMap (fun t => (List.range cols).map (fun c =>
    match x.piece s u t c with
    | some p => coreHalf s x.task.claim.die p u.aHalf (prime c)
    | none => ([], true)))).toArray
  let word (v : List Nat) : Nat :=
    let t := if inner then v.getD 2 0 else 0
    ((hs.getD (t * cols + v.getD 0 0) ([], true)).1).getD (first + v.getD 1 0) 0
  { ext := ext, data := ((indexVectors ext).map word).toArray, bad := hs.toList.any (fun h => !h.2), out := none }

/-- The B operand of an MXA instruction, with what it touches in memory. -/
def Issue.mxaB (x : Issue) (s : State) (inner : Bool) (o : MxaOp) (prime : Nat → Nat) (ext : List Nat) (b : Nat × Nat) :
    Words × List Access :=
  let l := x.lvlOf s false o.b b
  match o.key, o.sparse, x.run with
  | some u, _, _ => (x.keyItem s u inner prime ext, [])
  | none, some at_, some r =>
    let w := x.sparseItem s r at_ o.b prime l ext b
    (w.1, [w.2])
  | none, _, _ =>
    (fetchItem s (x.view s o.b.handle) o.b 0 (deliver false) prime l ext b.1 b.2, [x.access s o.b l ext b])

/-- One item of a MATMUL or INNER. -/
def mxaItem (inner : Bool) (x : Issue) (o : MxaOp) (s : State) (rows n cols : Nat) (b : Nat × Nat) : InstrItem :=
  let prime (i : Nat) : Nat := x.prime s (if o.seq then o.slot0 + i else o.slot0)
  let la := x.lvlOf s false o.a b
  let aExt := mxaExtents inner false o.a rows n cols
  let a := fetchItem s (x.view s o.a.handle) o.a (if inner then 0 else 6) (deliver false) prime la aExt b.1 b.2
  let bw := x.mxaB s inner o prime (mxaExtents inner true o.b rows n cols) b
  let bounds := mxaBounds o.dst rows cols
  let ext := [bounds.2, bounds.1, 1, 1, 1, 1]
  let v := x.view s o.dst.handle
  let offs := elemOffsets (storeDesc o.dst) (x.lvlOf s true o.dst b) ext b.1 b.2
  let old := if o.accum then v.fetch s (4 * drainWords o.drain) offs else { words := [], bad := false, out := none }
  let prior := old.words.toArray
  { srcs := x.access s o.a la aExt b :: bw.2
    prior := if o.accum then [{ d := o.dst, view := v, offs := offs, plain := offs }] else []
    bad := a.bad || bw.1.bad || old.bad
    writes := (offs.zip (indexVectors ext)).zipIdx.map (fun e =>
      let c := e.1.2.getD 0 0
      let q := prime c
      let w := prior.getD e.2 0
      let c0 := if o.a.etype = tyRes32 ∧ !o.dst.form then toMont q w else w
      (e.1.1, stored o.dst q (mxaValue o q c0 (mxaPairs inner a bw.1 n (e.1.2.getD 1 0) c)))) }

/-- MATMUL and INNER (R117 to R121); an extent of 0 makes them no-ops. An extent read at run time above the limits of the table MXA
operations runs as it is (DESIGN CHOICE, log 146: no rule gives it another outcome). -/
def mxaItems (inner : Bool) (x : Issue) (o : MxaOp) (s : State) : List InstrItem :=
  (x.items o.batch0 o.batch1).filterMap (fun b =>
    let rows := x.mxaExtent s o.rows o.dst (mxaRows inner o) b
    let n := x.mxaExtent s o.inner o.dst (mxaSummed inner o) b
    let cols := x.mxaExtent s o.cols o.dst (mxaCols inner o) b
    if rows = 0 ∨ n = 0 ∨ cols = 0 then none else some (mxaItem inner x o s rows n cols b))

/-! Base conversion (R122). -/

/-- Primes of a slot range. -/
def Issue.primes (x : Issue) (s : State) (first count : Nat) : List Nat := (List.range count).map (fun i => x.prime s (first + i))

/-- One item of a base conversion: whole row tiles, pad included (R117, R187), the first limbs of its pair. -/
def bconvItem (exact : Bool) (x : Issue) (o : BconvOp) (s : State) (rows ins outs : Nat) (b : Nat × Nat) : InstrItem :=
  let src := x.primes s o.pair.srcFirst ins
  let dst := x.primes s o.pair.dstFirst outs
  let l := x.lvlOf s false o.src b
  let read := [paddedExtent rows (o.src.granule 0 true), ins, 1, 1, 1, 1]
  let wide := paddedExtent rows (o.dst.granule 0 true)
  let w := fetchItem s (x.view s o.src.handle) o.src 1 (deliver false) (fun i => src.getD i 1) l read b.1 b.2
  let out := bconvWords exact src dst w wide
  { srcs := [x.access s o.src l read b], bad := w.bad
    writes := itemWrites o.dst (x.lvlOf s true o.dst b) [wide, outs, 1, 1, 1, 1] b.1 b.2 (fun v =>
      stored o.dst (dst.getD (v.getD 1 0) 1) ((out.getD (v.getD 1 0) []).getD (v.getD 0 0) 0)) }

/-- BCONV.FAST and BCONV.EXACT: the limbs of the pair, held to what the descriptors have along d1 (R177, R178). -/
def bconvItems (exact : Bool) (x : Issue) (o : BconvOp) (s : State) : List InstrItem :=
  (x.items o.batch0 o.batch1).filterMap (fun b =>
    let rows := x.mxaExtent s o.rows o.dst [(o.src, 0), (o.dst, 0)] b
    let ins := x.mxaExtent s (.fixed o.pair.srcCount) o.dst [(o.src, 1)] b
    let outs := x.mxaExtent s (.fixed o.pair.dstCount) o.dst [(o.dst, 1)] b
    if rows = 0 ∨ ins = 0 ∨ outs = 0 then none else some (bconvItem exact x o s rows ins outs b))

/-! VXE and DMA. -/

/-- The extents operands share (R177); a result's reduced dimensions do not count. -/
def Issue.shared (x : Issue) (s : State) (srcs : List Desc) (dst : Desc) (reduced : Nat) (b : Nat × Nat) : List Nat :=
  (List.range 6).map (fun i => (minList ((srcs.map (fun d => (x.extents (x.lvlOf s false d b) d).1.getD i 1)) ++
    (if reduced ≤ i then [(x.extents (x.lvlOf s true dst b) dst).1.getD i 1] else []))).getD 1)

/-- One item of a VXE chain (R135 to R140); none where an extent is 0. -/
def vxeInstrItem (x : Issue) (o : VxeOp) (s : State) (b : Nat × Nat) : Option InstrItem :=
  let ext := x.shared s o.srcs o.dst o.reduce b
  let prime (i : Nat) : Nat := x.prime s (o.slot0 + i)
  if ext.any (· == 0) then none
  else
    let ws := o.srcs.map (fun d =>
      fetchItem s (x.view s d.handle) d (vxeLimbDim o) (deliver false) prime (x.lvlOf s false d b) (padded d [] o.reduce ext) b.1 b.2)
    some { srcs := o.srcs.map (fun d => x.access s d (x.lvlOf s false d b) (padded d [] o.reduce ext) b), bad := ws.any (·.bad)
           writes := vxeItem o prime (chainScalars o x.sregs) (x.lvlOf s true o.dst b) ext ws b.1 b.2 }

/-- One item of a DMA transfer (R99, R101, R104, R241): the inbound path transforms, the store path converts form alone. -/
def dmaItem (x : Issue) (o : DmaOp) (s : State) (b : Nat × Nat) : Option InstrItem :=
  let ext := x.shared s [o.src] o.dst 0 b
  let prime (i : Nat) : Nat := x.prime s (o.slot0 + i)
  if ext.any (· == 0) then none
  else
    let inbound := (x.view s o.src.handle).place != 0 && (x.view s o.dst.handle).place == 0
    let d := if inbound then o.src else storeDesc o.src
    let l := x.lvlOf s false d b
    let w := fetchItem s (x.view s d.handle) d (instrLimbDim [o.src] o.dst) (fun d q v => dmaWord inbound d o.dst q v) prime l
      (padded d [] 0 ext) b.1 b.2
    some { srcs := [x.access s d l (padded d [] 0 ext) b], bad := w.bad
           writes := itemWrites o.dst (x.lvlOf s true o.dst b) (padded o.dst [] 0 ext) b.1 b.2 (wordAt w) }

/-! What an instruction does. -/

/-- An instruction's destination, its element width, whether its result may not even coincide with a source, and its items. -/
structure InstrRun where
  dst : Desc
  width : Nat
  strict : Bool
  batch : CountSrc × CountSrc
  items : List InstrItem
deriving Repr

def instrRun (x : Issue) (i : CoreInstr) (s : State) : Option InstrRun :=
  let x := x.of i
  let ntt (o : NttOp) (l : List InstrItem) : InstrRun :=
    { dst := { (default : Desc) with handle := o.dst }, width := 4, strict := false, batch := (.fixed 1, .fixed 1), items := l }
  let mxa (o : MxaOp) (l : List InstrItem) : InstrRun :=
    { dst := o.dst, width := 4 * drainWords o.drain, strict := true, batch := (o.batch0, o.batch1), items := l }
  let conv (o : BconvOp) (l : List InstrItem) : InstrRun :=
    { dst := o.dst, width := 4, strict := true, batch := (o.batch0, o.batch1), items := l }
  match i with
  | .nttFwd o => some (ntt o (nttItems nttForward x o s))
  | .nttInv o => some (ntt o (nttItems nttInverse x o s))
  | .matmul o => some (mxa o (mxaItems false x o s))
  | .inner o => some (mxa o (mxaItems true x o s))
  | .bconvFast o => some (conv o (bconvItems false x o s))
  | .bconvExact o => some (conv o (bconvItems true x o s))
  | .vxe o => some { dst := o.dst, width := o.dst.width, strict := o.reduce != 0, batch := (o.batch0, o.batch1)
                     items := (x.items o.batch0 o.batch1).filterMap (vxeInstrItem x o s) }
  | .dma o => some { dst := o.dst, width := o.dst.width, strict := false, batch := (o.batch0, o.batch1)
                     items := (x.items o.batch0 o.batch1).filterMap (dmaItem x o s) }
  | _ => none

/-! Undefined cases of an instruction (R97, R107, R139, R219 cases 1, 3, 4 and 6). -/

/-- Elements of w bytes of a rising list of addresses overlap. -/
def selfMeet (w : Nat) : List Nat → Bool
  | x :: y :: r => decide (y < x + w) || selfMeet w (y :: r)
  | _ => false

def addrsMeet (w1 w2 : Nat) (a b : List Nat) : Bool :=
  a.any (fun x => b.any (fun y => decide (x < y + w2) && decide (y < x + w1)))

/-- An instruction's destination meets one of its sources other than as the same item, element for element at each index, or two of
its elements overlap, as wide as it writes them (R139, R181). -/
def InstrRun.undefinedOverlap (r : InstrRun) (v : View) : Bool :=
  let dsts := r.items.zipIdx.map (fun i => (i.2, i.1.writes.map (fun w => v.addr w.1)))
  let srcs := r.items.zipIdx.flatMap (fun i => i.1.srcs.map (fun a => (i.2, a.d.width, a.offs.map a.view.addr, a.plain.map a.view.addr)))
  selfMeet r.width (sortBy (fun a => a) (dsts.flatMap (·.2))) ||
    dsts.any (fun d => srcs.any (fun a => addrsMeet r.width a.2.1 d.2 a.2.2.1 && (r.strict || d.1 != a.1 || d.2 != a.2.2.2)))

/-- Free words in place of what an instruction writes (R220, log 2). -/
def freeWrites (s : State) (w : Nat) (l : List (Int × Nat)) : State × List (Int × Nat) :=
  let n := s.freeCtr
  let k := l.length
  let word (i : Nat) : Nat := (Config.freeWord (n + i)).toNat + 2 ^ 32 * (Config.freeWord (n + k + i)).toNat +
    2 ^ 64 * (Config.freeWord (n + 2 * k + i)).toNat
  ({ s with freeCtr := n + 3 * k }, l.zipIdx.map (fun x => (x.1.1, word x.2 % 2 ^ (8 * w))))

/-! Reports of an instruction (R71, R177, R178, R518): they count for the command's descriptor that it uses, else for the one
under its handle number (DESIGN CHOICE, log 114). -/

/-- The command's descriptor an instruction's descriptor stands for. -/
def Issue.unit (x : Issue) (d : Desc) : Option (OpRun × Nat) :=
  x.run.bind (fun r =>
    let ks := List.range r.descs.length
    (((ks.find? (fun k => r.desc k == d)).orElse (fun _ => ks.find? (fun k => (r.desc k).handle == d.handle)))).map (fun k => (r, k)))

def Issue.report (x : Issue) (d : Desc) (item rule : Nat) (event : OpRun → Nat → Option Nat) (s : State) : State :=
  match x.unit d with
  | some (r, k) => r.reportBy x.core s k item rule (event r k)
  | none => s

/-- Bytes beyond a handle. -/
def Issue.reportOut (x : Issue) (d : Desc) (v : View) (w item : Nat) (offs : List Int) (s : State) : State :=
  match lowest (offs.filterMap (v.outside w)) with
  | some o => x.report d item ruleAccess (fun _ _ => some (v.addr o)) s
  | none => s

/-- Extents of a descriptor held to ALLOC, for every item, each at its own level. Of several dimensions held for one pair ARG1 names the
lowest (DESIGN CHOICE, log 149: R518 names one dimension and does not say which). -/
def Issue.reportHeld (x : Issue) (items : List (Nat × Nat)) (s : State) (u : DescUse) : State :=
  items.zipIdx.foldl (fun s b =>
    match (x.extents (x.lvlOf s u.dst u.d b.1) u.d).2.head? with
    | some k => x.report u.d (x.itemOf s b.2) ruleAlloc (fun r n => some (allocArg r n k)) s
    | none => s) s

/-- The operands of an instruction have extents at one of its items that differ. -/
def Issue.differ (x : Issue) (s : State) (i : CoreInstr) (b : Nat × Nat) : Bool :=
  let along (dst : Desc) (c : CountSrc) (ds : List (Desc × Nat)) : Bool :=
    let e := x.mxaExtent s c dst ds b
    x.count c != e || ds.any (fun d => (x.extents (x.lvlOf s (d.1 == dst) d.1 b) d.1).1.getD d.2 1 != e)
  let ext (dst : Bool) (d : Desc) : List Nat := (x.extents (x.lvlOf s dst d b) d).1
  match i with
  | .matmul o => along o.dst o.rows (mxaRows false o) || along o.dst o.inner (mxaSummed false o) || along o.dst o.cols (mxaCols false o)
  | .inner o => along o.dst o.rows (mxaRows true o) || along o.dst o.inner (mxaSummed true o) || along o.dst o.cols (mxaCols true o)
  | .bconvFast o | .bconvExact o => along o.dst o.rows [(o.src, 0), (o.dst, 0)] ||
      along o.dst (.fixed o.pair.srcCount) [(o.src, 1)] || along o.dst (.fixed o.pair.dstCount) [(o.dst, 1)]
  | .vxe o => o.srcs.any (fun d => some (ext false d) != (o.srcs.head?).map (ext false) ||
      (ext false d).drop o.reduce != (ext true o.dst).drop o.reduce)
  | .dma o => ext false o.src != ext true o.dst
  | _ => false

/-- Every report of an instruction. -/
def Issue.reportRun (x : Issue) (i : CoreInstr) (r : InstrRun) (s : State) : State :=
  let x := x.of i
  let ds := instrUses [] i
  let items := x.items r.batch.1 r.batch.2
  let s := ds.foldl (x.reportHeld items) s
  let s := items.zipIdx.foldl (fun s b =>
    if x.differ s i b.1 then ds.foldl (fun s u => x.report u.d (x.itemOf s b.2) ruleDiffer (fun _ _ => none) s) s else s) s
  let v := x.view s r.dst.handle
  r.items.zipIdx.foldl (fun s t =>
    let item := x.itemOf s t.2
    let s := (t.1.srcs ++ t.1.prior).foldl (fun s a => x.reportOut a.d a.view a.d.width item a.offs s) s
    x.reportOut r.dst v r.width item (t.1.writes.map (·.1)) s) s

/-! Completion of an instruction. -/

/-- The results a tile's instruction has a part in: of the tile's items, or of all where its phase has no ITEM axis (R49,
R108). -/
def Issue.covers (x : Issue) (s : State) (item : Nat) : Bool :=
  match x.run.bind (fun r => r.body.phases[x.task.claim.phase]?), x.tile s with
  | some p, some t => p.item.isNone || (decide (t.item ≤ item) && decide (item < t.item + t.items))
  | _, _ => true

/-- The tile has begun to write its operation's destination (R395). -/
def Issue.begin (x : Issue) (v : View) (w : Nat) (writes : List (Int × Nat)) (s : State) : State :=
  match x.run with
  | some r =>
    let d := r.view 0
    if d.length != 0 && writes.any (fun y => v.inside y.1 w && decide (d.addr 0 ≤ v.addr y.1) && decide (v.addr y.1 < d.addr 0 + d.length)) then
      updTile s r.queue r.serial x.task.claim.claimIndex (fun t => { t with begun := true })
    else s
  | none => s

/-- The far ranges an instruction has written stand in its command's record (R53, R372, R401). -/
def Issue.noteWritten (x : Issue) (v : View) (w : Nat) (writes : List (Int × Nat)) (s : State) : State :=
  match x.run with
  | some r => if v.place = 3 then noteBlocks s r ((v.runs w writes).map (fun y => (y.1, y.2.length))) else s
  | none => s

/-- The sources of an instruction repaired before it has them (R387, R388). -/
def Issue.repair (x : Issue) (r : InstrRun) (s : State) : State :=
  r.items.foldl (fun s i => (i.srcs ++ i.prior).foldl (fun s a => a.view.repair s x.task.job a.d.width a.offs) s) s

/-- What an instruction does: its sources repaired and read whole, its result written, or free words where that is undefined;
failing checks mark the results, accesses that are held back are reported. -/
def instrEffect (x : Issue) (i : CoreInstr) (s : State) : State :=
  match instrRun x i s with
  | none => s
  | some r0 =>
    let s := x.repair r0 s
    let r := (instrRun x i s).getD r0
    let v := x.view s r.dst.handle
    let writes := r.items.flatMap (·.writes)
    let fw := if x.racy || r.undefinedOverlap v then freeWrites s r.width writes else (s, writes)
    let s := x.begin v r.width fw.2 (v.put fw.1 r.width fw.2).1
    let s := x.noteWritten v r.width fw.2 s
    let s := if r.items.any (·.bad) then markHeld s x.task.queue x.task.claim.opSerial (x.covers s) cFault else s
    x.reportRun i r s

/-! Races (R60, R219 case 1): two instructions in flight at once are ordered by nothing; where ranges of their handles overlap
and one of them writes, what both write is open. -/

/-- The range of a handle as addresses. -/
def handleRange (s : State) (core slot h : Nat) : Nat × Nat :=
  let v := viewOfHandle core ((s.core core).entry slot h)
  (v.addr 0, v.length)

/-- Two instructions in flight conflict; folds are the adder's. -/
def conflicts (s : State) (c1 : Nat) (f1 : InFlight) (c2 : Nat) (f2 : InFlight) : Bool :=
  let w (c : Nat) (f : InFlight) : List (Nat × Nat) := (writtenHandle f.instr).toList.map (handleRange s c f.slot)
  let r (c : Nat) (f : InFlight) : List (Nat × Nat) := f.reads.map (handleRange s c f.slot)
  let meet (a b : List (Nat × Nat)) : Bool := a.any (fun x => b.any (rangesMeet x))
  meet (w c1 f1) (w c2 f2 ++ r c2 f2) || meet (w c2 f2) (r c1 f1)

/-- An instruction in flight on some core conflicts with one. -/
def racesNow (s : State) (core : Nat) (f : InFlight) : Bool :=
  s.cores.any (fun c => c.2.flight.any (fun g => (c.1 != core || g.id != f.id) && conflicts s core f c.1 g))

/-- Those that conflict with one that completes are marked. -/
def markRacy (s : State) (core : Nat) (f : InFlight) : State :=
  let hit (c : Nat) (g : InFlight) : Bool := (c != core || g.id != f.id) && conflicts s core f c g
  let mark (g : InFlight) : InFlight := { g with racy := true }
  (s.cores.map (·.1)).foldl (fun t c =>
    if (s.core c).flight.any (hit c) then t.updCore c (fun x => { x with flight := updWhere (hit c) mark x.flight }) else t) s

/-! A source lost in a scratchpad (R387): the tile that made it is re-issued, the instruction waits. -/

/-- Where a binding of a tile lies: the core whose scratchpad holds it and its base; none outside the scratchpads. -/
def tileBase (r : OpRun) (t : Tile) (b : HandleBind) : Option (Nat × Nat) :=
  if 2 ≤ b.place then none else some (if b.place = 1 then b.peer else t.core, handleBase b r.bound (tileStep b t))

/-- A tile writes a block of a core's scratchpad. -/
def makes (r : OpRun) (core blk : Nat) (t : Tile) : Bool :=
  match r.body.phases[t.claim.phase]? with
  | some p => ((p.code.filterMap writtenHandle).filterMap (bindOf p.binds)).any (fun b =>
      match tileBase r t b with
      | some (c, base) => c == core && decide (base ≤ blk * blockBytes) && decide (blk * blockBytes < base + b.length)
      | none => false)
  | none => false

/-- The tiles of running commands that made a block of a scratchpad. -/
def makersOf (s : State) (x : Nat × Nat) : List (Nat × Nat × Nat) :=
  s.tab.queues.flatMap (fun q => (q.cmds.filter (·.phase == .running)).flatMap (fun c =>
    match runOfCmd s q.num c.serial.toNat with
    | some (_, r) => (c.tiles.filter (fun t => 2 ≤ t.status && makes r x.1 x.2 t)).map (fun t => (q.num, c.serial.toNat, t.claim.claimIndex))
    | none => []))

/-- The scratchpad blocks an instruction reads that are lost. -/
def Issue.lostSources (x : Issue) (i : CoreInstr) (s : State) : List (Nat × Nat) :=
  (((instrRun x i s).map (·.items)).getD []).flatMap (fun it => (it.srcs ++ it.prior).flatMap (fun a =>
    if a.view.place < 2 then
      ((a.view.blocks a.d.width a.offs).filter (scratchLost s a.view.core)).map (fun b => (a.view.core, b))
    else []))

def failTiles (s : State) (l : List (Nat × Nat × Nat)) (cls : Nat) : State :=
  l.foldl (fun s x => failTile s x.1 x.2.1 x.2.2 cls) s

/-! Reads of key pieces (R167). -/

/-- The pieces that a task's instructions still to come, or in flight, name. -/
def laterPieces (s : State) (x : Issue) (slot : Nat) (id : Nat) : List PieceId := (restOf s x slot id).flatMap (namedPieces s x)

/-- The last read a task makes of a piece lowers its consumer count. -/
def readPieces (s : State) (x : Issue) (f : InFlight) : State :=
  let named := namedPieces s x f.instr
  if named.isEmpty then s
  else
    let later := laterPieces s x f.slot f.id
    let keep := (x.run.map pinsKeys).getD false
    s.updDie x.task.claim.die (dropReads x.task.queue x.task.claim.opSerial x.task.claim.claimIndex keep
      (fun p => named.contains p && !later.contains p))

/-- The core port is cut: a write in flight when the core failed is dropped with the fence (R389, log 148). -/
def fenced (s : State) (core : Nat) : Bool :=
  match physServing s core with
  | some p => (s.physCore p).fencing
  | none => false

/-- INSTRUCTION_COMPLETE: the last write of a started instruction becomes visible; one that finds a source lost waits for the tile
that made it (R387); one behind a fence writes nothing (R389). -/
def execInstructionComplete (core id : Nat) (s : State) : Result :=
  if numCores ≤ core then .fault .noSuchUnit
  else if fenced s core then .next s
  else .next (match (s.core core).flight.find? (fun f => f.id == id && f.started && f.target != 4) with
    | none => s
    | some f => match tabGet? (s.core core).slots f.slot with
      | none => s
      | some t =>
        let x : Issue := { core := core, task := t, sregs := f.scalars, lvl2 := f.lvl2, run := runOfTask s t
                           racy := f.racy || racesNow s core f }
        let again := ((x.lostSources f.instr s).flatMap (makersOf s)).eraseDups
        if !again.isEmpty then failTiles s again 3
        else
          let s := readPieces (instrEffect x f.instr (markRacy s core f)) x f
          s.updCore core (fun c => startEngines { c with flight := c.flight.filter (fun g => g.id != id) }))

/-! The movers (R241, R242). -/

/-- A queue of a task starts a transfer below its limit, 4 where the task sets none. -/
def queueLimit (c : CoreCtx) (slot pq : Nat) : Nat :=
  match tabGet? c.slots slot with
  | some t => tabGet 4 t.pqLimit pq
  | none => 4

def onQueue (pq : Nat) (f : InFlight) : Bool :=
  match f.instr with
  | .dma o => o.pq == pq
  | _ => false

/-- A queue can start its oldest waiting transfer: below its limit, with fewer than 64 outstanding, and with the inbound reorder
buffer free for a load that needs it (R106, R242). -/
def queueStarts (c : CoreCtx) (pq : Nat) : Bool :=
  match c.flight.find? (fun f => onQueue pq f && !f.started) with
  | none => false
  | some f =>
    decide ((c.flight.filter (fun g => onQueue pq g && g.started)).length < queueLimit c f.slot pq) &&
      decide ((c.flight.filter (fun g => g.target == 3 && g.started)).length < 64) &&
      (!inboundFlight c f || decide (reorderNeed f.instr ≤ freeBuffers c true))

/-- The queue whose turn it is: the first that can start, round robin. -/
def queueTurn (c : CoreCtx) : Option Nat := ((List.range 16).map (fun i => (c.robin + i) % 16)).find? (queueStarts c)

/-- DMA_TRANSFER_START: the oldest waiting transfer of the queue whose turn it is. -/
def execDmaTransferStart (core pq : Nat) (s : State) : Result :=
  if numCores ≤ core then .fault .noSuchUnit
  else
    let c := s.core core
    .next (if queueTurn c != some pq || fenced s core then s
      else match c.flight.find? (fun f => onQueue pq f && !f.started) with
        | none => s
        | some f => s.updCore core (fun c => { c with
            robin := (pq + 1) % 16
            flight := updWhere (fun g => g.id == f.id) (fun g => { g with started := true }) c.flight }))

/-! Folds (R79 to R81). -/

/-- The buffer a fold names: the core that holds it and its base. -/
def foldTarget (x : Issue) (s : State) (o : FoldOp) : Nat × Nat :=
  let v := x.view s o.acc
  (v.core, v.base)

def isTarget (claim : Claim) (queue base : Nat) (a : Accum) : Bool :=
  a.queue == queue && a.serial == claim.opSerial && a.bind.base == base

/-- The fold leaves its core whole: its words, whether every block check of the source holds, its prime. -/
def foldOf (x : Issue) (s : State) (o : FoldOp) : WaitingFold :=
  let v := x.view s o.src
  { claim := x.task.claim, data := memReadN (s.core v.core).scratch v.base v.length
    dataOk := (blocksOf v.base v.length).all (fun b => (scratchBlock (s.core v.core) b).2)
    prime := ((findChain s o.chain).bind (·.slotPrime o.slot)).getD 0, fromCore := x.core, fromHandle := o.src }

def sendFold (core : Nat) (s : State) (slot : Nat) (t : Task) (i : CoreInstr) : State :=
  match i with
  | .fold o =>
    let x := issueNow s core t
    let d := foldTarget x s o
    let w := foldOf x s o
    let s := issueEngine core s slot t i
    let add (a : Accum) : Accum := { a with waiting := a.waiting ++ [w] }
    s.updCore d.1 (fun c => { c with accums := updWhere (isTarget t.claim t.queue d.2) add c.accums })
  | _ => s

/-- FOLD. -/
def execFold (core : Nat) (s : State) : Result :=
  issueRow core (fun i => match i with | .fold _ => true | _ => false) (sendFold core) s

/-- A fold whose bit is set is discarded; of the others res32 and int64 apply in arrival order, fp32 and fp64 when every
lower bit is set. -/
def logged (a : Accum) (k : Nat) : Bool := a.log.getLsbD k

def foldReady (a : Accum) (w : WaitingFold) : Bool :=
  logged a (logBit a w.claim) || a.bind.accOp == 1 || a.bind.accOp == 2 || (List.range (logBit a w.claim)).all (logged a)

/-- The sender's instruction completes, its source buffer is free. -/
def releaseFold (w : WaitingFold) (c : CoreCtx) : CoreCtx :=
  { c with flight := c.flight.filter (fun f => !(f.target == 4 && f.claim == w.claim && f.reads == [w.fromHandle])) }

/-- The buffer after a fold, its copy too. -/
def addFold (s : State) (core : Nat) (a : Accum) (w : WaitingFold) : State :=
  let v : View := viewOfBind core [] a.bind
  let prior := memReadN (s.core core).scratch a.bind.base (min w.data.length a.bind.length)
  v.storeRuns s [(a.bind.base, addPayload a.bind.accOp w.prime prior w.data)]

/-- A fold applied: its bit set, its prime kept for the commit. -/
def logFold (w : WaitingFold) (a : Accum) : Accum :=
  let b := markLog a w.claim
  { b with prime := w.prime }

/-- FOLD_APPLY: the next fold of a buffer. One whose block check fails is not added, and the tile that produced it fails
(R387). -/
def applyFold (s : State) (core : Nat) (a : Accum) (w : WaitingFold) : State :=
  let mine (x : Accum) : Bool := x.queue == a.queue && x.serial == a.serial && x.bind == a.bind
  let drop (x : Accum) : Accum := { x with waiting := x.waiting.filter (· != w) }
  let s := s.updCore core (fun c => { c with accums := updWhere mine drop c.accums })
  let s := s.updCore w.fromCore (releaseFold w)
  if logged a (logBit a w.claim) then s
  else if !w.dataOk then failTile (noteFault s 3 core) a.queue a.serial w.claim.claimIndex 3
  else
    let s := addFold s core a w
    s.updCore core (fun c => { c with accums := updWhere mine (logFold w) c.accums })

def execFoldApply (core handle : Nat) (s : State) : Result :=
  if numCores ≤ core then .fault .noSuchUnit
  else .next (match (s.core core).accums.findSome? (fun a => if a.handle = handle
      then (a.waiting.find? (fun w => takesFrom s a w.claim && foldReady a w)).map (fun w => (a, w)) else none) with
    | some (a, w) => applyFold s core a w
    | none => s)

/-! Events and fences (R66, R67, R86). -/

/-- A task that waits on a counter. -/
def waitsOn (e : Nat) (t : Task) : Bool :=
  match nextInstr t with
  | some (.wait f _) => f == e
  | _ => false

/-- Adds 1 to a counter, saturating; the time its waiters have waited starts again. -/
def signalEvent (now : W64) (e : Nat) (c : CoreCtx) : CoreCtx :=
  { c with events := tabPut 0 c.events e (satInc (eventCount c e))
           slots := c.slots.map (fun t => if waitsOn e t.2 then (t.1, { t.2 with waitSince := now }) else t) }

/-- The issuer's own step: the task moves on, the slot runs. -/
def issueLocal (core : Nat) (f : Task → CoreInstr → Task) (s : State) (slot : Nat) (_ : Task) (i : CoreInstr) : State :=
  s.updCore core (fun c => updTask { c with running := slot } slot (fun t => f t i))

/-- SIGNAL. -/
def execSignal (core : Nat) (s : State) : Result :=
  issueRow core (fun i => match i with | .signal _ => true | _ => false) (fun s slot t i =>
    match i with
    | .signal e => issueLocal core (fun t _ => advance s.now t) (s.updCore core (signalEvent s.now e)) slot t i
    | _ => s) s

/-- WAIT. -/
def execWait (core : Nat) (s : State) : Result :=
  issueRow core (fun i => match i with | .wait _ _ => true | _ => false) (fun s => issueLocal core (fun t _ => advance s.now t) s) s

/-- FENCE_SLOT. -/
def execFenceSlot (core : Nat) (s : State) : Result :=
  issueRow core (fun i => match i with | .fenceSlot => true | _ => false) (fun s => issueLocal core (fun t _ => advance s.now t) s) s

/-- FENCE_KEY. -/
def execFenceKey (core : Nat) (s : State) : Result :=
  issueRow core (fun i => match i with | .fenceKey => true | _ => false) (fun s => issueLocal core (fun t _ => advance s.now t) s) s

/-- EVENT_TIMEOUT: the operation is aborted (R67). -/
def execEventTimeout (core slot : Nat) (s : State) : Result :=
  if numCores ≤ core then .fault .noSuchUnit
  else .next (match tabGet? (s.core core).slots slot with
    | none => s
    | some t => match nextInstr t with
      | some (.wait e v) =>
        if decide (v ≤ (eventCount (s.core core) e).toNat) || decide (s.since t.waitSince < 100 * msTicks) then s
        else
          let s := postBoth s { code := 0x0009, job := t.job, queue := t.queue, arg0 := core, arg1 := e }
          abortCmd s t.queue t.claim.opSerial stEventTimeout 0
      | _ => s)

/-! The issuer's own instructions (R57, R61, R241). -/

def sreg (t : Task) (r : Nat) : W64 := tabGet 0 t.sregs r

/-- The count of a loop that a task reads at issue. -/
def taskCount (t : Task) (lvl2 : Nat) (c : CountSrc) : Nat := countOf t.sregs (t.bound.map (·.toNat)) lvl2 c

/-- One scalar, loop or queue-limit instruction on its task. -/
def scalarStep (o : ScalarOp) (lvl2 : Nat) (t : Task) : Task :=
  match o with
  | .write rd v => { t with ip := t.ip + 1, sregs := tabPut 0 t.sregs rd v }
  | .addImm rd rs v => { t with ip := t.ip + 1, sregs := tabPut 0 t.sregs rd (sreg t rs + v) }
  | .loopBegin c =>
    if taskCount t lvl2 c = 0 then { t with ip := skipLoop 0 (t.code.drop (t.ip + 1)) (t.ip + 1) }
    else { t with ip := t.ip + 1, loops := { start := t.ip + 1, left := taskCount t lvl2 c } :: t.loops }
  | .loopEnd =>
    match t.loops with
    | [] => { t with ip := t.ip + 1 }
    | l :: r => if 1 < l.left then { t with ip := l.start, loops := { l with left := l.left - 1 } :: r }
      else { t with ip := t.ip + 1, loops := r }
  | .branch target => { t with ip := target }
  | .queueLimit pq n => { t with ip := t.ip + 1, pqLimit := tabPut 4 t.pqLimit pq n }

/-- SCALAR_INSTRUCTION. -/
def execScalarInstruction (core : Nat) (s : State) : Result :=
  issueRow core (fun i => match i with | .scalar _ => true | _ => false) (fun s slot t i =>
    issueLocal core (fun t i => match i with
      | .scalar o => let u := scalarStep o (issueNow s core t).lvl2 t; { u with waitSince := s.now }
      | _ => t) s slot t i) s

end Sys2Proof.Machine
end

