-- ==== Sys2Proof/Machine/KeyStream.lean ====
section
/-! DEFINITION. The key roots, the broadcast and the die key caches (R158, R161, R164 to R172, R231, R246, R248, R399). -/

namespace Sys2Proof.Machine

open Sys2Proof

/-! Pieces. -/

/-- The root that sends a piece: that of its stack, for a piece on no stack that of the stack it had; the surviving root
for one that is out of service (R158, R161, R399). -/
def rootOf (s : State) (p : PieceId) : Hub :=
  match findCaddy s p.caddy with
  | none => .h0
  | some c =>
    let h := stackHub ((stackHolding s c p).getD (pieceNumber c p % 4))
    if (rootsAside s).contains h then h.other else h

/-- The hub rewrites a near copy with a failing block from the library (R306). -/
def rewriteNear (s : State) (c : Caddy) (p : PieceId) : State :=
  match nearPieceOf s c p, c.pieceOffsets[pieceNumber c p]? with
  | some n, some o => if n.whole then s
    else s.updNear (fun t => { t with pieces := t.pieces.map (fun x => if x = n then nearCopy s c n.number n.stack o else x) })
  | _, _ => s

/-! Sending (R231, R248). -/

/-- The item that goes first. -/
def firstItem (l : List SendItem) : Option SendItem :=
  l.foldl (fun m x => match m with
    | none => some x
    | some y => if sendBefore x y then some x else some y) none

/-- Dies the broadcast reaches. -/
def listening (s : State) : List Nat := (List.range 8).filter (fun d => (s.die d).powered && !(s.die d).lost)

/-- PIECE_SEND: a root sends its first piece; the broadcast carries it to every die. -/
def execPieceSend (hub : Hub) (s : State) : Result :=
  .next (if s.near.rootOut.contains hub then s
    else match firstItem (s.key.sendList.filter (fun i => rootOf s i.piece == hub)) with
      | none => s
      | some i =>
        let s := touchPiece s i.piece
        s.updKey (fun k => { k with sendList := k.sendList.filter (fun x => x.piece != i.piece)
                                    flight := k.flight ++ (listening s).map (fun d => (d, i.piece)) }))

/-! Arrival (R166 to R171). -/

/-- A tile that has still to read a piece: any unfinished tile the plan has read it, a placed one while its task waits for
it (R167, R240). -/
def willRead (s : State) (r : OpRun) (t : Tile) (p : PieceId) : Bool :=
  if t.status = 2 then
    (s.core t.core).slots.any (fun x => x.2.queue == r.queue && x.2.claim == t.claim && x.2.keysPending.contains p)
  else t.status != 3 && (tilePieces s r t).contains p

/-- A command that keeps a piece: the serial its reads and pins stand under, its operation. A boundary command is one
before its dispatch (R246). -/
def keeping (s : State) (q : Queue) (c : Cmd) (p : PieceId) : Option (Nat × OpRun) :=
  if !c.pieces.contains p then none
  else if c.phase == .running then (runOfCmd s q.num c.serial.toNat).map (fun r => (c.serial.toNat, r.2))
  else if c.phase == .fetched then
    (findJob s q.job).bind (fun j => (runTarget s j c.entry).map (fun x =>
      (boundarySerial, opRunOf s q j c x.1 x.2.1 x.2.2 boundarySerial)))
  else none

def keepers (s : State) (p : PieceId) : List (Nat × Nat × Cmd × OpRun) :=
  s.tab.queues.flatMap (fun q => q.cmds.filterMap (fun c => (keeping s q c p).map (fun k => (q.num, k.1, c, k.2))))

/-- The readers of a piece on a die. -/
def readersOf (s : State) (die : Nat) (p : PieceId) : List (Nat × Nat × Nat) :=
  (keepers s p).flatMap (fun k =>
    ((k.2.2.1.tiles.filter (fun t => t.claim.die == die)).filter (fun t => willRead s k.2.2.2 t p)).map
      (fun t => (k.1, k.2.1, t.claim.claimIndex)))

/-- The commands that pin it: a boundary command, and one that marks its keys as reused. -/
def pinnersOf (s : State) (p : PieceId) : List (Nat × Nat) :=
  ((keepers s p).filter (fun k => k.2.1 == boundarySerial || pinsKeys k.2.2.2)).map (fun k => (k.1, k.2.1))

/-- The unpinned READY entry that arrived earliest (R169). -/
def oldestFree (l : List CacheEntry) : Option CacheEntry := (sortBy (·.arrival) (l.filter (fun e => e.ready && e.pins.isEmpty))).head?

/-- Room for an entry, by evicting; none while every entry is pinned or filling: the broadcast waits (R169, R170). -/
def makeRoom : Nat → Nat → List CacheEntry → Option (List CacheEntry)
  | 0, need, l => if bytesOf l + need ≤ cacheBytes then some l else none
  | n + 1, need, l =>
    if bytesOf l + need ≤ cacheBytes then some l
    else match oldestFree l with
      | some e => makeRoom n need (l.filter (fun x => x.piece != e.piece))
      | none => none

/-- A task on the die waits for a piece that nothing will bring: it is read again from the library copy (R169). -/
def rereads (s : State) (die : Nat) (p : PieceId) : Bool :=
  !s.key.sendList.any (fun i => i.piece == p) && !(s.die die).cache.any (fun e => e.piece == p) &&
    s.cores.any (fun c => dieOfCore c.1 == die && c.2.slots.any (fun t => t.2.keysPending.contains p))

/-- Tasks of a die that had still to read an evicted entry wait for its piece again (R169). -/
def awaitAgain (die : Nat) (s : State) (e : CacheEntry) : State :=
  let reads (t : Task) : Bool := e.readers.contains (t.queue, t.claim.opSerial, t.claim.claimIndex)
  let wait (t : Task) : Task := { t with keysPending := t.keysPending ++ [e.piece] }
  (List.range 64).foldl (fun s i =>
    if (s.core (64 * die + i)).slots.any (fun t => reads t.2) then
      s.updCore (64 * die + i) (fun c => { c with slots := c.slots.map (fun t => (t.1, if reads t.2 then wait t.2 else t.2)) })
    else s) s

/-- A kept piece enters the cache, FILLING; what it evicts is read again by those that still need it (R166 to R169). -/
def keepPiece (s : State) (die : Nat) (p : PieceId) (c : Caddy) (e : KeyEntry) (again : Bool) : Option State :=
  let bytes := 8 * 2 ^ e.log2n
  let readers := readersOf s die p
  let pins := pinnersOf s p
  let old := (s.die die).cache
  if readers.isEmpty && pins.isEmpty then some s
  else
    match makeRoom old.length bytes old with
    | none => none
    | some l =>
      let pinned := bytesOf (l.filter (fun x => !x.pins.isEmpty))
      let b := arrivedBytes s c e p again
      let entry : CacheEntry :=
        { piece := p, tag := c.tag, readers := readers, pins := if pinned + bytes ≤ pinBytes then pins else []
          arrival := s.key.order, bytes := bytes, bHalf := wordsOf b.1, ok := b.2 }
      let s := if again then s else rewriteNear s c p
      let s := (s.updDie die (fun d => { d with cache := l ++ [entry] })).updKey (fun k => { k with order := k.order + 1 })
      some ((old.filter (fun x => !l.any (fun y => y.piece == x.piece))).foldl (awaitAgain die) s)

/-- PIECE_ARRIVE: outside every keep mask it is discarded (R166); one whose entry stands already is not kept twice. A piece that
is not on its way arrives again only from the library copy (R169). -/
def execPieceArrive (die : Fin 8) (piece : PieceId) (s : State) : Result :=
  let d := die.val
  let sent := s.key.flight.contains (d, piece)
  let landed (s : State) : State := s.updKey (fun k => { k with flight := k.flight.erase (d, piece) })
  .next (if !sent && !rereads s d piece then s
    else if !(s.die d).keep.contains piece || (s.die d).cache.any (fun e => e.piece == piece) then landed s
    else match findCaddy s piece.caddy with
      | none => landed s
      | some c => match c.keys[piece.key]? with
        | none => landed s
        | some e => match keepPiece s d piece c e (!sent) with
          | some t => landed t
          | none => s)

/-! Expansion (R150 to R152). -/

/-- PIECE_READY: both halves are complete; the tasks of the die that wait for the piece have it (R167). -/
def execPieceReady (die : Fin 8) (piece : PieceId) (s : State) : Result :=
  let d := die.val
  let ready (e : CacheEntry) : CacheEntry := { e with ready := true, aHalf := expandedHalf s piece }
  let got (t : Task) : Task := { t with keysPending := t.keysPending.filter (· != piece) }
  .next (if !(s.die d).cache.any (fun e => e.piece == piece && !e.ready) then s
    else
      let s := s.updDie d (fun x => { x with cache := updWhere (fun e => e.piece == piece) ready x.cache })
      (List.range 64).foldl (fun s i =>
        if (s.core (64 * d + i)).slots.any (fun t => t.2.keysPending.contains piece) then
          s.updCore (64 * d + i) (fun c => { c with slots := c.slots.map (fun t => (t.1, got t.2)) })
        else s) s)

end Sys2Proof.Machine
end

