-- ==== Sys2Proof/Machine/FarRows.lean ====
section
/-! DEFINITION. The far-tier controllers' own rows: memory-side operations and watches (R300, R301), block reads and writes,
the word code and its repairs (R297, R298, R302 to R306, R387, R388), scrub, lost stacks and rebuild (R307 to R311, R517), near
stacks (R161). -/

namespace Sys2Proof.Machine

open Sys2Proof

/-! Memory-side operations (R300, R301). -/

/-- A naturally aligned word of the far tier. -/
def isFarWord (a : Nat) : Bool := a % 8 == 0 && decide (a + 8 ≤ farBytes)

/-- FADD64: the word becomes the sum modulo 2^64; the prior value returns. -/
def fadd64 (s : State) (address : Nat) (value : W64) : State :=
  let v := farWord s.far address
  (setWord (touchFar (raceWord s address true) address) address (v + value)).updFar (fun f => { f with prior := v })

/-- The wait in force of a queue on a word becomes one that polls, or one that has a watch. -/
def markPolling (s : State) (queue address : Nat) (poll : Bool) : State :=
  updCmd s queue (fun c => c.phase == .waiting && c.entry.flagAddr == address) (fun c => { c with polling := poll })

/-- A watch of the queue on the word stands already. -/
def watched (s : State) (queue address : Nat) : Bool := s.far.watches.any (fun w => w.queue == queue && w.addr == address)

/-- WATCH64: an answer at once is a watch that is due; with none free the requester polls. -/
def watch64 (s : State) (address : Nat) (threshold : W64) (queue : Nat) : State :=
  let t := touchFar s address
  let stack := controllerOf s.far address
  if watched s queue address then t
  else match freeWatch s stack with
    | none => markPolling t queue address true
    | some n => markPolling (t.updFar (fun f => { f with watches := f.watches ++
        [{ stack := stack, number := n, addr := address, threshold := threshold, queue := queue
           due := s.far.reached address threshold }] })) queue address false

/-- UNWATCH. -/
def unwatch (s : State) (stack number : Nat) : State :=
  s.updFar (fun f => { f with watches := f.watches.filter (fun w => !(w.stack == stack && w.number == number)) })

/-- A reserved value of the table Memory-side operation encoding: nothing happens but the event, which names it and the address. -/
def reservedOperation (s : State) (code address : Nat) : State :=
  postBoth (touchFar s address) { code := 0x0012, arg0 := code, arg1 := address }

/-- A memory-side operation by its value (R300): the row FADD64 carries the value its request was encoded with, the other rows name
theirs. -/
def memoryOperation (code address : Nat) (value : W64) (queue : Nat) (s : State) : Result :=
  if !isFarWord address then .fault .noMemory
  else .next (match code with
    | 1 => fadd64 s address value
    | 2 => setWord (touchFar (raceWord s address false) address) address value
    | 3 => watch64 s address value queue
    | 4 => unwatch s (controllerOf s.far address) value.toNat
    | _ => reservedOperation s code address)

def execFadd64 (op : MemOp) (value : W64) (s : State) : Result := memoryOperation op.code.toNat op.word value 0 s
def execSet64 (address : Nat) (value : W64) (s : State) : Result := memoryOperation 2 address value 0 s
def execWatch64 (address : Nat) (threshold : W64) (queue : Nat) (s : State) : Result :=
  memoryOperation 3 address threshold queue s
def execUnwatch (stack : Fin 16) (number : Nat) (s : State) : Result := .next (unwatch s stack.val number)

/-! The word code (R304). -/

/-- The check bits of a word. -/
def checkBits (d : W64) : BitVec 8 :=
  BitVec.ofNat 8 (((codeColumns.take 64).zipIdx.filter (fun c => d.getLsbD c.2)).foldl (fun x c => xorNat x c.1) 0)

/-- The data bits of the 72. -/
def dataBits (w : BitVec 72) : W64 := w.extractLsb' 0 64

/-- A stored word as received with some bits in error. -/
def received (d : W64) (e : BitVec 72) : BitVec 72 := (checkBits d ++ d : BitVec (8 + 64)) ^^^ e

/-! A block as its controller reads it. -/

/-- Blocks of the far tier. -/
def farBlocks : Nat := farBytes / blockBytes
/-- Numbers of parity blocks: two groups, two layouts (R295, R309). -/
def parityBlocks : Nat := 4 * 2 ^ 24
/-- The blocks of all stacks, in the order a scrub numbers them. -/
def scrubBlocks : Nat := farBlocks + parityBlocks + 4 * (nearStackBytes / blockBytes)

def tagCode : BState → Nat
  | .never => 0
  | .checked => 1
  | .opened => 2
  | .stale => 3

/-- The word of a tag (table Block tag). -/
def tagWord (t : BlockTag) : W64 := BitVec.ofNat 64 (t.check.toNat + 2 ^ 32 * tagCode t.st)

/-- The words of a block read under errors: bytes delivered, bytes to rewrite, words corrected, whether one is uncorrectable.
Word 512 is the tag. -/
structure WordsRead where
  data : List Byte
  rewrite : List Byte
  corrected : Nat
  failed : Nat
deriving Repr

def readWord (tag : BlockTag) (acc : WordsRead) (x : Nat × BitVec 72) : WordsRead :=
  let d : W64 := if x.1 < 512 then BitVec.ofNat 64 (leAt acc.data (8 * x.1) 8) else tagWord tag
  let put (b : List Byte) (v : W64) : List Byte := if x.1 < 512 then splice b (8 * x.1) (leBytes 8 v.toNat) else b
  let w := received d x.2
  match decodeSyndrome (syndrome w) with
  | .clean => { acc with data := put acc.data (dataBits w) }
  | .corrected i =>
    let v := dataBits (w ^^^ (1#72 <<< i))
    { acc with data := put acc.data v, rewrite := put acc.rewrite v, corrected := acc.corrected + 1 }
  | .uncorrectable => { acc with data := put acc.data (dataBits w), failed := acc.failed + 1 }

/-- The errors of the j-th block that a read reaches: 513 words to a block, the block itself first, then the other data blocks of
its row, then the row's parity. -/
def errorsOf (j : Nat) (errors : List (Nat × BitVec 72)) : List (Nat × BitVec 72) :=
  (errors.filter (fun e => e.1 / 513 == j)).map (fun e => (e.1 % 513, e.2))

def readBytes (stored : List Byte) (tag : BlockTag) (errors : List (Nat × BitVec 72)) : WordsRead :=
  errors.foldl (readWord tag) { data := stored, rewrite := stored, corrected := 0, failed := 0 }

def readWords (f : FarTier) (b : Nat) (errors : List (Nat × BitVec 72)) : WordsRead := readBytes (f.stored b) (f.tag b) errors

/-- Corrected words are counted and rewritten (R305). -/
def rewriteCorrected (s : State) (b : Nat) (w : WordsRead) : State :=
  if w.corrected = 0 then s
  else countCorrStack ((setErr s 2).updFar (fun f => { f with mem := memWriteN f.mem (b * blockBytes) w.rewrite })) w.corrected

/-- Uncorrectable words are seen on a stack: class BLOCK, and more than 16 of them within 1 ms lose the stack (R306, R307, R384). -/
def seeUncorrectable (s : State) (k addr n : Nat) : State :=
  let recent := ((s.stack k).uncorr.filter (fun t => decide (s.since t < msTicks))) ++ List.replicate n s.now
  let s := noteFault (s.updStack k (fun x => { x with uncorr := recent })) 3 k 0xFFFF addr
  if 16 < recent.length then requestSlice s { kind := if k < 16 then .farSwitch k else .nearSwitch (k - 16) } else s

/-- A block whose word is uncorrectable and stays so. -/
def markUnreadable (s : State) (b : Nat) : State :=
  s.updFar (fun f => { f with unreadable := if f.unreadable.contains b then f.unreadable else f.unreadable ++ [b] })

/-- A block its row cannot give back; one that is NEVER or STALE is not repaired, and its loss is not posted again (R387, R388). -/
def loseUnreadable (s : State) (b : Nat) : State :=
  let s := markUnreadable s b
  if (s.far.tag b).st = .never || (s.far.tag b).st = .stale then s else loseBlock s b

/-- Another data block of the row read for a reconstruction: its corrected words rewritten; with an uncorrectable one it is lost
too, since two blocks of the row cannot be read (R306). -/
def readMate (errors : List (Nat × BitVec 72)) (s : State) (x : Nat × Nat) : State :=
  let w := readWords s.far x.1 (errorsOf (x.2 + 1) errors)
  let s := rewriteCorrected s x.1 w
  if w.failed = 0 then s
  else loseUnreadable (seeUncorrectable s (stackOfBlock s.far x.1) (x.1 * blockBytes) w.failed) x.1

/-- The data blocks of the row of a parity block, as far as the row is in use (R295, R309, R310). -/
def rowOfParity (f : FarTier) (i : Nat) : List Nat :=
  let grp := i / 2 ^ 25
  let g := f.group grp
  let row := i % 2 ^ 24
  let cs : List Nat := if i / 2 ^ 24 % 2 = 1 then (List.range 6).map (fun k => 6 * row + k) else (List.range 7).map (fun k => 7 * row + k)
  (cs.filter (fun c => decide (c < groupBlocks) && (decide (c < g.watermark) == decide (i / 2 ^ 24 % 2 = 1)))).map (fun c => 2 * c + grp)

/-- The parity of a row made again from its data blocks, less the deltas on their way; one of them not to be had, it stays
unreadable (R302, R306). -/
def repairParity (s : State) (i : Nat) : State :=
  let row := rowOfParity s.far i
  let g := s.far.group (i / 2 ^ 25)
  if row.any (fun b => g.onLost (b / 2) || s.far.unreadable.contains b) then
    s.updFar (fun f => { f with parityTags := tabPut {} f.parityTags i { f.parityTag (i * blockBytes) with st := .stale } })
  else
    let data := (row.map s.far.stored ++ (s.far.deltas.filter (fun d => d.addr == i * blockBytes)).map (·.data)).foldl xorBytes (zeros blockBytes)
    s.updFar (fun f => { f with parity := memWriteN f.parity (i * blockBytes) data
                                parityTags := tabPut {} f.parityTags i { st := .checked, check := crc32c data } })

/-- The stack that holds a parity block. -/
def parityStack (f : FarTier) (i : Nat) : Nat :=
  let grp := i / 2 ^ 25
  8 * grp + (match rowOfParity f i with
    | b :: _ => ((f.group grp).place (b / 2)).parity
    | [] => (oldPlace (7 * (i % 2 ^ 24))).parity)

/-- A parity block read with errors: corrected words rewritten, an uncorrectable one repaired (R304 to R306). -/
def readParity (errors : List (Nat × BitVec 72)) (s : State) (i : Nat) : State :=
  let w := readBytes (memReadN s.far.parity (i * blockBytes) blockBytes) (s.far.parityTag (i * blockBytes)) errors
  let s := if w.corrected = 0 then s
    else countCorrStack ((setErr s 2).updFar (fun f => { f with parity := memWriteN f.parity (i * blockBytes) w.rewrite })) w.corrected
  if w.failed = 0 then s else repairParity (seeUncorrectable s (parityStack s.far i) (i * blockBytes) w.failed) i

/-- The rest of a block's row as its reconstruction reads it: the other data blocks, the parity. -/
def readRow (s : State) (b : Nat) (errors : List (Nat × BitVec 72)) : State :=
  let g := s.far.group (b % 2)
  let mates := (g.mates (b / 2)).filter (fun c => !g.onLost c)
  let s := (mates.map (fun c => 2 * c + b % 2)).zipIdx.foldl (readMate errors) (markUnreadable s b)
  let s := if g.parityKept (b / 2) then readParity (errorsOf (mates.length + 1) errors) s (parityAddr (b % 2) (g.place (b / 2)) / blockBytes)
    else s
  if g.onLost (b / 2) then s.updFar (fun f => { f with unreadable := f.unreadable.filter (· != b) }) else s

/-- Repair of a block read wrongly: from its row, else STALE with its event; what is delivered (R306, R387, R388). -/
def repairBlock (s : State) (b : Nat) (asRead : List Byte) : State × List Byte × Bool :=
  match supplied s b with
  | some d => (restoreBlock s b d, d, true)
  | none => (loseBlock s b, asRead, false)

/-- A block read: under its tag, its words corrected, retried and repaired (R297, R304 to R306, R387). -/
def blockRead (s : State) (b : Nat) (errors : List (Nat × BitVec 72)) (misread : Option (List Byte)) : State × List Byte × Bool :=
  let tag := s.far.tag b
  if tag.st = .never then (s, zeros blockBytes, false)
  else if (s.far.group (b % 2)).onLost (b / 2) then
    (let s := if errors.isEmpty || tag.st = .stale then s else readRow s b errors
     let s := if tag.st != .stale && (s.far.bytes b).isNone then loseBlock s b else s
     let r := s.far.readBlock b
     (s, r.1, r.2))
  else
    let w := readWords s.far b (errorsOf 0 errors)
    let s := rewriteCorrected s b w
    if w.failed != 0 then
      (let s := seeUncorrectable s (stackOfBlock s.far b) (b * blockBytes) w.failed
       if tag.st = .stale then (markUnreadable s b, w.data, false) else repairBlock (readRow s b errors) b w.data)
    else
      let data := (misread.map (padTo blockBytes)).getD w.data
      if tag.st = .stale then (s, data, false)
      else if tag.st = .opened then (s, data, true)
      else if crc32c data = tag.check then (s, data, true)
      else repairBlock (noteFault s 3 (stackOfBlock s.far b) 0xFFFF (b * blockBytes)) b data

/-- FAR_BLOCK_READ: the errors are what the stack's words carry, `misread` what every read delivers instead. -/
def execFarBlockRead (block : Nat) (errors : List (Nat × BitVec 72)) (misread : Option (List Byte)) (s : State) : Result :=
  if farBlocks ≤ block then .fault .noMemory
  else
    let r := blockRead (touchFar s (block * blockBytes)) block errors misread
    .next (r.1.updFar (fun f => { f with delivered := some r.2 }))

/-- A data block of the far tier scrubbed. -/
def scrubData (s : State) (b : Nat) (errors : List (Nat × BitVec 72)) : State :=
  if (s.stack (stackOfBlock s.far b)).selfRefresh || (s.far.group (b % 2)).onLost (b / 2) then s
  else
    let tag := s.far.tag b
    let w := readWords s.far b (errorsOf 0 errors)
    let s := rewriteCorrected s b w
    if w.failed = 0 then s
    else
      let s := seeUncorrectable s (stackOfBlock s.far b) (b * blockBytes) w.failed
      if tag.st = .never || tag.st = .stale then markUnreadable s b else (repairBlock (readRow s b errors) b w.data).1

/-- A parity block scrubbed. -/
def scrubParity (s : State) (i : Nat) (errors : List (Nat × BitVec 72)) : State :=
  let k := parityStack s.far i
  if (s.stack k).selfRefresh || (s.far.group (i / 2 ^ 25)).lost.contains (k % 8) then s else readParity errors s i

/-- A block of a near stack scrubbed: a piece there is corrected in place, or written again from its library copy (R305, R306). -/
def scrubNear (s : State) (n : Nat) (errors : List (Nat × BitVec 72)) : State :=
  let stack := n / (nearStackBytes / blockBytes)
  let off := n % (nearStackBytes / blockBytes) * blockBytes
  if (s.stack (16 + stack)).selfRefresh || s.near.lost.contains stack then s
  else match nearPieceAt s stack off with
    | none => s
    | some p =>
      let i := (off - p.offset) / blockBytes
      let w := readBytes (padTo blockBytes ((p.data.drop (i * blockBytes)).take blockBytes)) (p.tags.getD i {}) errors
      let fixed := { p with data := (splice p.data (i * blockBytes) w.rewrite).take p.data.length }
      let put (q : NearPiece) (s : State) : State := s.updNear (fun x => { x with pieces := x.pieces.map (fun y => if y = p then q else y) })
      let s := if w.corrected = 0 then s else countCorrStack (put fixed (setErr s 2)) w.corrected
      if w.failed = 0 then s
      else
        let s := seeUncorrectable s (16 + stack) (nearBase + n * blockBytes) w.failed
        match libraryCopy s p with
        | some q => s.updNear (fun x => { x with pieces := x.pieces.map (fun y => if y = p ∨ y = fixed then q else y) })
        | none => s

/-- SCRUB: every word of a block and its tag, of the far data blocks, then the parity blocks, then the near stacks' blocks; it does
not run in self-refresh (R305, R312). -/
def execScrub (block : Nat) (errors : List (Nat × BitVec 72)) (s : State) : Result :=
  if scrubBlocks ≤ block then .fault .noMemory
  else .next (if block < farBlocks then scrubData s block errors
    else if block < farBlocks + parityBlocks then scrubParity s (block - farBlocks) errors
    else scrubNear s (block - farBlocks - parityBlocks) errors)

/-- A device write whose delta is still on its way: the data in place, the parity as it was (R302). A block that is on a lost
stack, or whose parity is not kept, is written at once (R308). -/
def writeAhead (s : State) (b off : Nat) (bs : List Byte) : State :=
  let g := s.far.group (b % 2)
  match s.far.bytes b with
  | some old =>
    if g.onLost (b / 2) || !g.parityKept (b / 2) then deviceWriteBlock s b off bs
    else
      let data := (splice (mergeBase s.far b) off bs).take blockBytes
      let delta : Delta := { block := b, addr := parityAddr (b % 2) (g.place (b / 2)), data := xorBytes old data }
      s.updFar (fun f => retest ({ f with
        mem := memWriteN f.mem (b * blockBytes) data
        unreadable := f.unreadable.filter (· != b)
        deltas := f.deltas ++ [delta] }.setTag b { st := .checked, check := crc32c data }) (b * blockBytes) (b * blockBytes + blockBytes))
  | none => deviceWriteBlock s b off bs

/-- FAR_BLOCK_WRITE. -/
def execFarBlockWrite (block offset : Nat) (data : List Byte) (s : State) : Result :=
  if decide (farBlocks ≤ block) || decide (blockBytes < offset + data.length) then .fault .noMemory
  else .next (writeAhead (touchFar s (block * blockBytes)) block offset data)

/-- PARITY_DELTA: one delta reaches its parity controller, and its write is accepted: the watches on its block are re-tested. -/
def execParityDelta (index : Nat) (s : State) : Result :=
  .next (match s.far.deltas[index]? with
    | none => s
    | some d =>
      let t := touchStack s (parityStack s.far (d.addr / blockBytes))
      t.updFar (fun f => retest { f.addParity d.addr d.data with deltas := f.deltas.eraseIdx index }
        (d.block * blockBytes) (d.block * blockBytes + blockBytes)))

/-! Lost stacks, rebuild (R307 to R311, R517). -/

/-- FAR_STACK_LOST: the switch to reconstruction is an interrupting slice. -/
def execFarStackLost (stack : Fin 16) (s : State) : Result :=
  .next (if (s.far.group (stack.val / 8)).lost.contains (stack.val % 8) then s else requestSlice s { kind := .farSwitch stack.val })

/-- ISLAND_LOST. -/
def execIslandLost (die : Fin 8) (s : State) : Result :=
  .next (if (s.die die.val).islandLost then s else requestSlice s { kind := .island die.val })

/-- One block moved to its place in the re-formed layout: out of the old row's parity, into its new place. -/
def moveBlock (grp : Nat) (f : FarTier) (c : Nat) : FarTier :=
  let b := 2 * c + grp
  let g := f.group grp
  let data := (f.bytes b).getD (zeros blockBytes)
  let f := if g.parityKept c then f.addParity (parityAddr grp (oldPlace c)) data else f
  let f := { f with mem := memWriteN f.mem (b * blockBytes) data, unreadable := f.unreadable.filter (· != b) }
  let f := f.setGroup grp { g with watermark := c + 1 }
  f.addParity (parityAddr grp (newPlace g c)) data

/-- A survivor of the group is in self-refresh: rebuild does not run there (R312). -/
def survivorSleeps (s : State) (grp : Nat) : Bool :=
  (s.far.group grp).survivors.any (fun i => (s.stack (8 * grp + i)).selfRefresh)

/-- The rebuild is complete: REBUILT, with its event and log entry. -/
def endRebuild (s : State) (grp : Nat) : State :=
  let s := s.updFar (fun f => f.setGroup grp { f.group grp with st := .rebuilt })
  postBoth (refreshState (noteRepair s 6 grp 0)) { code := 0x000D, arg0 := grp }

/-- REBUILD_ROW_MOVE: one row of six blocks moves, the watermark at its end. -/
def execRebuildRowMove (group : Fin 2) (s : State) : Result :=
  let grp := group.val
  let g := s.far.group grp
  .next (if !g.rebuilding || survivorSleeps s grp then s
    else
      let row := ((List.range 6).map (fun i => g.watermark + i)).filter (fun c => decide (c < groupBlocks))
      let s := s.updFar (fun f => row.foldl (moveBlock grp) (retest f.settled 0 farBytes))
      if groupBlocks ≤ (s.far.group grp).watermark then endRebuild s grp else s)

/-! Near stacks (R161, R399, R419). -/

/-- NEAR_STACK_LOST. -/
def execNearStackLost (stack : Fin 4) (s : State) : Result :=
  .next (if s.near.lost.contains stack.val then s else requestSlice s { kind := .nearSwitch stack.val })

def bytesOnStack (l : List NearPiece) (n : Nat) : Nat := ((l.filter (fun p => p.stack == n)).map (·.data.length)).foldl (· + ·) 0

/-- Where each piece of a caddy is to lie: a piece on a stack in service stays, unless all four are; the others go to number
m mod n of the stacks in service. -/
def placement (s : State) (left : List Nat) (c : Caddy) : List NearPiece :=
  c.pieceOffsets.zipIdx.map (fun o =>
    let home := stackOfPiece left o.2
    let now := (s.near.pieces.find? (fun p => p.caddy == c.index && p.number == o.2)).map (·.stack)
    let at_ := match now with
      | some n => if decide (left.length < 4) && left.contains n then n else home
      | none => home
    nearCopy s c o.2 at_ o.1)

/-- A piece stands on a stack as resident pieces list it. -/
def standsOn (s : State) (p : NearPiece) : Bool :=
  s.near.pieces.any (fun x => x.caddy == p.caddy && x.number == p.number && x.stack == p.stack)

/-- Put a piece on its stack while it has room; else it stays on the library path. -/
def placeOne (l : List NearPiece) (p : NearPiece) : List NearPiece :=
  if bytesOnStack l p.stack + p.data.length ≤ nearRoom then l ++ [p] else l

/-- Every piece of these caddies placed in turn: those that stand where they are to lie keep their place, the others take what
room is left (R161). -/
def placeAll (s : State) (left : List Nat) (cs : List Caddy) : List NearPiece :=
  let ps := cs.flatMap (placement s left)
  (ps.filter (fun p => !standsOn s p)).foldl placeOne (ps.filter (standsOn s))

/-- Caddies bound to no job give up their near copy, least recently streamed first, while pieces do not fit. -/
def roomFor (left : List Nat) : List Caddy → State → State
  | [], s => s
  | c :: r, s =>
    let cs := s.tab.caddies.filter (fun x => x.st == .resident)
    if (placeAll s left cs).length = ((cs.map (fun x => x.pieceOffsets.length)).foldl (· + ·) 0) then s
    else roomFor left r (evictCaddy s c.index)

/-- NEAR_REPLACEMENT_DONE. -/
def execNearReplacementDone (s : State) : Result :=
  .next (if !s.near.toPlace then s
    else
      let left := nearStacks s
      let free := sortBy (·.streamed) (s.tab.caddies.filter (fun c => c.st == .resident && !caddyBound s c.index))
      let s := if left.isEmpty then s else roomFor left free s
      let cs := s.tab.caddies.filter (fun c => c.st == .resident)
      s.updNear (fun n => { n with toPlace := false, rootBack := [], pieces := if left.isEmpty then n.pieces else placeAll s left cs }))

/-! Self-refresh (R312, R468). -/

/-- No request for 1 ms, no rebuild on the stack, no pinned piece of it (R468). -/
def execSelfRefreshEntry (stack : Nat) (s : State) : Result :=
  if 20 ≤ stack then .fault .noSuchUnit
  else
    let x := s.stack stack
    let held := if stack < 16 then (s.far.group (stack / 8)).rebuilding
      else (List.range 8).any (fun d => (s.die d).cache.any (fun e => !e.pins.isEmpty &&
        ((findCaddy s e.piece.caddy).bind (fun c => nearPieceOf s c e.piece)).any (fun n => n.stack == stack - 16)))
    .next (if decide (msTicks ≤ s.since x.lastRequest) && !held then s.updStack stack (fun x => { x with selfRefresh := true })
      else s)

end Sys2Proof.Machine
end

