-- ==== Sys2Proof/Machine/Faults.lean ====
section
/-! DEFINITION. Faults of compute dies and paths (R384, R386): beats re-sent, engine lanes spared (R88), the fence and
replacement of a core (R85, R236, R377, R389, R390, R394), die controllers and lost dies (R384, R405). -/

namespace Sys2Proof.Machine

open Sys2Proof

/-! Beats in error (R386). -/

/-- The unit number a FAULT or REPAIR entry gives for a path (log 33). -/
def pathUnit : BeatPath → Nat
  | .network d => d
  | .bridge lo hi => 8 * lo + hi
  | .hubToDie h d => 8 * h + d
  | .farStack k => k
  | .nearStack k => 16 + k
  | .worgonLane p => p
  | .sram p => p

/-- The stack of a stack interface. -/
def pathStack : BeatPath → Option Nat
  | .farStack k => some k
  | .nearStack k => some (16 + k)
  | _ => none

/-- The dies a path names exist (R13). -/
def pathWf : BeatPath → Bool
  | .network d => decide (d < 8)
  | .bridge lo hi => decide (lo < hi) && decide (hi < 8)
  | .hubToDie h d => decide (h < 2) && decide (d < 8)
  | .farStack k => decide (k < 16)
  | .nearStack k => decide (k < 4)
  | .worgonLane p => decide (p < 12)
  | .sram p => decide (p < 576)

/-- Re-sends of the beat in error on a path within the last 2 µs. -/
def resends (s : State) (p : BeatPath) : Nat :=
  match s.dev.pathRetries.find? (fun x => x.1 == p) with
  | some (_, n, t) => if s.since t < 2 * usTicks then n else 0
  | none => 0

def setResends (s : State) (p : BeatPath) (n : Nat) : State :=
  s.updDev (fun d =>
    let first := match d.pathRetries.find? (fun x => x.1 == p) with
      | some x => if 1 < n then x.2.2 else s.now
      | none => s.now
    { d with pathRetries := d.pathRetries.filter (fun x => x.1 != p) ++ (if n = 0 then [] else [(p, n, first)]) })

/-- A failed retrain of a stack interface: the third in succession loses the stack (R307). -/
def failRetrain (s : State) (k : Nat) : State :=
  let n := (s.stack k).retrains + 1
  let s := s.updStack k (fun x => { x with retrains := n })
  if n < 3 then s
  else if k < 16 then
    (if (s.far.group (k / 8)).lost.contains (k % 8) then s else requestSlice s { kind := .farSwitch k })
  else if s.near.lost.contains (k - 16) then s else requestSlice s { kind := .nearSwitch (k - 16) }

/-- A die bridge with no spare lane left is a fault of its higher-numbered die (R384). -/
def bridgeLost (s : State) (p : BeatPath) : Option Nat :=
  match p with
  | .bridge _ hi => if Config.bridgeSpareLanes < (s.dev.beatLane.filter (· == p)).length then some hi else none
  | _ => none

/-- LINK_LANE on a path: a spare lane is switched in. -/
def loseLane (s : State) (p : BeatPath) : State :=
  let s := noteFault (s.updDev (fun d => { d with beatLane := d.beatLane ++ [p] })) 0x0B (pathUnit p)
  match bridgeLost s p with
  | some d => if (s.die d).powered then requestSlice s { kind := .die d } else s
  | none => noteRepair (updLife s (fun l => { l with linkLanes := lifeInc l.linkLanes })) 7 (pathUnit p) 0

/-! Engine lanes (R88). -/

def laneSpares : Engine → Nat
  | .ntt => 16
  | .mxa => 4
  | .vxe => 16

def lanesUsed (c : PhysCore) : Engine → Nat
  | .ntt => c.nttUsed
  | .mxa => c.mxaUsed
  | .vxe => c.vxeUsed

def useLane (e : Engine) (c : PhysCore) : PhysCore :=
  match e with
  | .ntt => { c with nttUsed := c.nttUsed + 1 }
  | .mxa => { c with mxaUsed := c.mxaUsed + 1 }
  | .vxe => { c with vxeUsed := c.vxeUsed + 1 }

def engineTarget : Engine → Nat
  | .ntt => 0
  | .mxa => 1
  | .vxe => 2

/-- The tiles whose instruction an engine of a core runs. -/
def tilesOnEngine (c : CoreCtx) (target : Nat) : List (Nat × Nat × Nat) :=
  (c.flight.filter (fun f => f.target == target && f.started)).filterMap (fun f =>
    (tabGet? c.slots f.slot).map (fun t => (t.queue, t.claim.opSerial, t.claim.claimIndex)))

/-- A core's fence starts: it issues nothing more and its port is cut (R389). -/
def startFence (s : State) (p : Nat) : State := noteFault (s.updPhys p (fun c => { c with fencing := true })) 5 p

/-- LANE_FAULT: a spare replaces the lane; on a core in service the tile it struck is re-issued, and with no spare left the core is
retired. A core under test, or one that stands by, takes the spare too; with none left its test fails (R88, R414). -/
def execLaneFault (physical : Nat) (engine : Engine) (s : State) : Result :=
  if 576 ≤ physical then .fault .noSuchUnit
  else
    let c := s.physCore physical
    let left := decide (lanesUsed c engine < laneSpares engine)
    .next (if c.st == .retired || c.st == .failed || c.fencing then s
      else if left then
        let s := noteFault (s.updPhys physical (useLane engine)) 4 physical
        let s := noteRepair (updLife s (fun l => { l with lanesSpared := lifeInc l.lanesSpared })) 1 physical 0
        match c.logical with
        | some l => failTiles s (tilesOnEngine (s.core l) (engineTarget engine)) 4
        | none => s
      else if c.st == .serving then startFence s physical
      else s)

/-- What the word code says of a beat's word with these bits in error (R304): the code is linear, so that they alone decide. A Worgon
lane's flits carry a CRC instead. -/
def beatCorrection (path : BeatPath) (bits : BitVec 72) : Correction :=
  match path with
  | .worgonLane _ => .uncorrectable
  | _ => decodeSyndrome (syndrome bits)

/-- A word with one bit in error is corrected and counted: on a path, or in a core's memories (R304, R511). -/
def countCorrected (s : State) (path : BeatPath) : State :=
  (setErr s 2).updDev (fun d => match path with
    | .sram _ => { d with corrSram := satAdd d.corrSram 1 }
    | _ => { d with corrPath := satAdd d.corrPath 1 })

/-- A beat in error is re-sent at most 8 times within 2 µs; then LINK_LANE, or a failed retrain on a stack interface (R386). -/
def resendBeat (s : State) (path : BeatPath) : State :=
  let n := resends s path
  if n < 8 then
    let s := if n = 0 then (match pathStack path with
      | some k => s.updStack k (fun x => if s.dev.pathRetries.any (fun r => r.1 == path) then { x with retrains := 0 } else x)
      | none => s) else s
    countResent (setErr (setResends s path (n + 1)) 1) 1
  else
    let s := setResends s path 0
    match pathStack path with
    | some k => failRetrain s k
    | none => loseLane s path

/-- BEAT_ERROR: a beat with bits of its word in error. One is corrected; more are re-sent, and in a core's memories they are a
fault of class CORE (R304, R384, R386; log 152). -/
def execBeatError (beat : BeatHit) (s : State) : Result :=
  if !pathWf beat.path then .fault .noSuchUnit
  else .next (match beatCorrection beat.path beat.bits with
    | .clean => s
    | .corrected _ => countCorrected s beat.path
    | .uncorrectable => match beat.path with
      | .sram p => if (s.physCore p).st = .serving && !(s.physCore p).fencing then startFence s p else s
      | _ => resendBeat s beat.path)

/-! Losing a core (R85, R236, R377, R389, R390, R394). -/

/-- CORE_FAULT. -/
def execCoreFault (physical : Nat) (s : State) : Result :=
  if 576 ≤ physical then .fault .noSuchUnit
  else .next (if (s.physCore physical).st = .serving && !(s.physCore physical).fencing then startFence s physical else s)

/-- The tiles a core has claimed and not completed: placed and held (R236). -/
def claimedTiles (c : CoreCtx) : List (Nat × Nat × Nat) :=
  c.slots.map (fun t => (t.2.queue, t.2.claim.opSerial, t.2.claim.claimIndex)) ++
    c.held.map (fun h => (h.1, h.2.opSerial, h.2.claimIndex))

/-- A copy of a buffer of a core survives on its buddy (R83). -/
def hasCopy (s : State) (core base num serial : Nat) : Bool :=
  (s.core core).mirrors.any (fun m => m.base == base && m.queue == num && m.serial == serial && !m.lost)

/-- A tile has output that lay only in a core's scratchpad, with no mirror copy (R390). -/
def outputLost (s : State) (r : OpRun) (core : Nat) (p : Phase) (t : Tile) : Bool :=
  ((p.code.filterMap writtenHandle).filterMap (bindOf p.binds)).any (fun b =>
    match tileBase r t b with
    | some (c, base) => c == core && !hasCopy s core base r.queue r.serial
    | none => false)

/-- Tiles whose lost output some tile has still to read, phase by phase from the last (R390). -/
def lostTiles (s : State) (r : OpRun) (c : Cmd) (core : Nat) : List Nat :=
  let phases := r.body.phases.zipIdx
  let reads (again : List Nat) (t : Tile) (q : Phase × Nat) : Bool :=
    c.tiles.any (fun u => u.claim.phase == q.2 && (u.status != 3 || again.contains u.claim.claimIndex) &&
      (dependsOn r q.1 c u).any (fun d => d.claim.claimIndex == t.claim.claimIndex))
  phases.reverse.foldl (fun again p =>
    again ++ ((c.tiles.filter (fun t => t.claim.phase == p.2 && t.status == 3 && outputLost s r core p.1 t)).filter (fun t =>
      (phases.drop (p.2 + 1)).any (reads again t))).map (·.claim.claimIndex)) []

/-- Completed tiles of every running command that are re-issued with a core. -/
def lostOutputs (s : State) (core : Nat) : List (Nat × Nat × Nat) :=
  s.tab.queues.flatMap (fun q => q.cmds.flatMap (fun c =>
    match runningOn s core q.num c.serial.toNat with
    | some (c, r) => (lostTiles s r c core).map (fun i => (q.num, c.serial.toNat, i))
    | none => []))

/-- The mirror copy of an accumulator buffer stands (R83). -/
def accumCopied (s : State) (core : Nat) (a : Accum) : Bool := a.bind.mirror && hasCopy s core a.bind.base a.queue a.serial

/-- Tiles that had folded into a buffer of the core without a copy, those whose fold waits there among them (R394). -/
def foldedTiles (s : State) (core : Nat) : List (Nat × Nat × Nat) :=
  ((s.core core).accums.filter (fun a => !accumCopied s core a)).flatMap (fun a =>
    ((tilesOf s a.queue a.serial).filter (fun t => takesFrom s a t.claim && decide (2 ≤ t.status) &&
      (a.log.getLsbD (logBit a t.claim) || a.waiting.any (fun w => w.claim.claimIndex == t.claim.claimIndex)))).map
        (fun t => (a.queue, a.serial, t.claim.claimIndex)))

/-- The scratchpad of the replacement: every mirrored buffer from its buddy, whoever's task it was of, its accumulator buffers
with their logs; the others start at zero with an empty log (R85, R394). -/
def replacement (s : State) (core : Nat) : CoreCtx :=
  let c := s.core core
  let fresh : CoreCtx := (c.mirrors.filter (fun m => !m.lost)).foldl (fun n m =>
    n.store [(m.base, memReadN (s.core m.buddy).scratch m.buddyBase m.length)]) {}
  let empty (a : Accum) : Accum := { a with log := 0, waiting := [], prime := 0, failing := false }
  { fresh with mirrors := c.mirrors, accums := c.accums.map (fun a => if accumCopied s core a then a else empty a) }

/-- Folds of the lost core that wait at other buffers are discarded whole (R79). -/
def dropFolds (core : Nat) (c : CoreCtx) : CoreCtx :=
  { c with accums := c.accums.map (fun a => { a with waiting := a.waiting.filter (fun w => w.fromCore != core) }) }

/-- The logical core passes to the spare with the lowest index, or leaves service: its jobs lose full precision. -/
def replaceCore (s : State) (core : Nat) : State :=
  let d := dieOfCore core
  match spareOf s d with
  | some q => wakeCore (noteExhausted (seatSpare s q core) d) core
  | none => s.updTab (fun t => { t with
      jobs := updWhere (fun j => j.octets.contains (core / 8)) (fun j => { j with fpLapsed := true }) t.jobs })

/-- CORE_FENCE_DONE: the core is retired, its logical core replaced, its tiles re-issued. -/
def execCoreFenceDone (physical : Nat) (s : State) : Result :=
  if 576 ≤ physical then .fault .noSuchUnit
  else .next (match (s.physCore physical).logical with
    | none => s
    | some core =>
      if !(s.physCore physical).fencing then s
      else
        let again := (claimedTiles (s.core core) ++ lostOutputs s core ++ foldedTiles s core).eraseDups
        let ctx := replacement s core
        let s := retirePhys (dropRetire s physical 0x05) physical
        let s := loseBuddy s core
        let s := mapCores (s.updCore core (fun c => { ctx with slots := c.slots, held := c.held })) (dropFolds core)
        let s := failTiles s again 5
        let s := refreshState (replaceCore s core)
        postBoth s { code := 0x000E, arg0 := core, arg1 := physical })

/-! Die controllers and dies (R384, R405). -/

/-- DIE_CTRL_RESTART: the controller restarts from the lead's copies, so that nothing but the record changes. -/
def execDieCtrlRestart (die : Fin 8) (s : State) : Result :=
  .next (if (s.die die.val).powered then noteFault s 6 die.val else s)

/-- DIE_LOST: one interrupting slice. -/
def execDieLost (die : Fin 8) (s : State) : Result :=
  .next (if (s.die die.val).powered && !(s.die die.val).lost then requestSlice s { kind := .die die.val } else s)

end Sys2Proof.Machine
end

