-- ==== Sys2Proof/Machine/Fabric.lean ====
section
/-! DEFINITION. Manager and workers (R348 to R374): enumeration, forwarded commands, launches, links of jobs, loss of a
worker, flits received, GCOUNT, lock-step comparison. -/

namespace Sys2Proof.Machine

open Sys2Proof

/-! Fabric commands (R359). -/

/-- A worker that is enumerated and not lost. -/
def liveWorker (s : State) (dev : Nat) : Option Worker := s.fab.workers.find? (fun w => w.dev == dev && !w.lost)

/-- A device field at offset 0 and the reserved bytes after it (R359; the length is log 19). -/
def deviceSpec (code : Nat) : CmdSpec := { code := code, len := some 4, reserved := [(0x01, 0, 24)] }

/-- The command's message to another device: handed over, and sent on class CTRL (R355). -/
def tell (s : State) (dev : Nat) (bytes : List Byte) : State :=
  sendTo (s.updFab (fun f => { f with forwarded := f.forwarded ++ [(dev, bytes)] })) dev classCtrl bytes

/-! FAB_ENUM (R352, R494). -/

/-- A worker the tree presents may be numbered: its links end as they must, and the manager's port to it is a DOWN port
that carries flits. -/
def enumerable (s : State) (f : WorkerFound) : Bool :=
  f.consistent && (f.parent != 0 || ((s.worgon f.parentPort).role == 2 && (s.worgon f.parentPort).up))

/-- The workers of one depth: children of the numbered devices of the depth before, by parent number, then port. `above`
holds each device of that depth as its position in the tree and its number. -/
def nextDepth (s : State) (tree : List (WorkerFound × Nat)) (above : List (Nat × Nat)) : List (WorkerFound × Nat × Nat) :=
  above.flatMap (fun a =>
    (sortBy (fun x => x.1.parentPort) (tree.filter (fun x => x.1.parent == a.1 && enumerable s x.1))).map (fun x =>
      (x.1, x.2, a.2)))

/-- Number the workers breadth-first with the free numbers in order, depth by depth: at most 3 links, at most 255 workers
(R351, R352). -/
def numberTree (s : State) (tree : List (WorkerFound × Nat)) : Nat → Nat → List Nat → List (Nat × Nat) → List (Worker × Nat)
  | 0, _, _, _ => []
  | n + 1, depth, free, above =>
    let found := ((nextDepth s tree above).zip free).map (fun x =>
      (({ dev := x.2, parent := x.1.2.2, parentPort := x.1.1.parentPort, upPort := x.1.1.upPort, depth := depth
          twoUp := x.1.1.twoUp, second := x.1.1.second } : Worker), x.1.2.1))
    found ++ numberTree s tree n (depth + 1) (free.drop found.length) (found.map (fun w => (w.2, w.1.dev)))

/-- Lost devices keep their numbers until FAB_SEAL (R366). -/
def lostWorkers (s : State) : List Worker := s.fab.workers.filter (·.lost)

/-- The numbered workers with their positions in the tree, from 1. -/
def enumerate (s : State) (tree : List WorkerFound) : List (Worker × Nat) :=
  let free := (List.range 256).filter (fun n => n != 0 && !(lostWorkers s).any (fun w => w.dev == n))
  numberTree s (tree.zipIdx.map (fun x => (x.1, x.2 + 1))) 3 1 free [(0, 0)]

def workerBytes (w : Worker) : List Byte :=
  leBytes 8 (w.dev + 2 ^ 8 * w.parent + 2 ^ 16 * w.parentPort + 2 ^ 20 * w.upPort + 2 ^ 24 * w.depth +
    (if w.twoUp then 2 ^ 26 else 0))

/-- A device and everything below it, in a tree of at most 3 links (R351). -/
def subtreeOf (ws : List Worker) (dev : Nat) : List Worker :=
  let below (l : List Worker) : List Worker := ws.filter (fun w => w.dev == dev || l.any (fun x => x.dev == w.parent))
  below (below (ws.filter (fun w => w.dev == dev)))

/-- What a worker is told at enumeration: its number and the devices below it (R352, R355; log 93). -/
def numberBytes (ws : List Worker) (dev : Nat) : List Byte :=
  leBytes 2 0x0080 ++ leBytes 2 dev ++ ((subtreeOf ws dev).filter (fun w => w.dev != dev)).flatMap workerBytes

/-- The way to a device: the ports on it from the manager on. -/
def pathOf (ws : List Worker) : Nat → Nat → List Nat
  | 0, _ => []
  | n + 1, dev => match ws.find? (fun w => w.dev == dev) with
    | none => []
    | some w => pathOf ws n w.parent ++ [(w.second.map (min w.parentPort)).getD w.parentPort]

/-- The number a device has after an enumeration: a lost one keeps its own, another takes that of its place in the tree (R352, R366). -/
def newNumber (old new : List Worker) (dev : Nat) : Option Nat :=
  if old.any (fun w => w.dev == dev && w.lost) then some dev
  else (new.find? (fun w => !w.lost && pathOf new 3 w.dev == pathOf old 3 dev)).map (·.dev)

/-- The tag table after an enumeration: each entry under its device's new number, none of a device that is no longer in the tree (R361). -/
def renumberTags (f : Fabric) (new : List Worker) : List (Nat × Nat × W64 × Digest) :=
  f.tags.filterMap (fun t => (newNumber f.workers new t.1).map (fun d => (d, t.2)))

/-- FAB_ENUM: workers that break R351 are refused, they and all below them are omitted; IN_USE while any job of the tree is linked
(R352). -/
def enumHandler (tree : List WorkerFound) (t : State) (_ : List Byte) : Reply :=
  if t.tab.jobs.any (fun j => j.link.isSome) || !t.fab.linked.isEmpty then .fail t stInUse
  else
    let found := enumerate t tree
    let refused := ((List.range tree.length).map (· + 1)).filter (fun i =>
      !found.any (fun w => w.2 == i) && (tree[i - 1]?).any (fun f => f.parent == 0 || found.any (fun w => w.2 == f.parent)))
    let ws := sortBy (·.dev) (lostWorkers t ++ found.map (·.1))
    let u := t.updFab (fun f => { f with
      workers := ws, refused := refused, devNumber := 0, enumerated := true, tags := renumberTags f ws })
    let u := found.foldl (fun u w => tell u w.1.dev (numberBytes ws w.1.dev)) u
    .okWith u (leBytes 4 found.length ++ found.flatMap (fun w => workerBytes w.1))

def execFabEnum (rq : MbxReq) (tree : List WorkerFound) (s : State) : Result :=
  mailbox s { code := 0x0080, len := some 0 } rq (enumHandler tree)

/-! FAB_STATUS, FAB_EVENTS, FAB_DOORBELL, FAB_SEAL (R359, R362, R366). -/

/-- The device field names no enumerated device, or a lost one. -/
def withDevice (f : State → Nat → List Byte → Reply) (t : State) (b : List Byte) : Reply :=
  if (liveWorker t (leAt b 0 1)).isNone then .fail t stNotFound 0 else f t (leAt b 0 1) b

/-- FAB_STATUS: what the named device answers. -/
def execFabStatus (rq : MbxReq) (answer : List Byte) (s : State) : Result :=
  mailbox s (deviceSpec 0x0081) rq (withDevice (fun t _ _ => .okWith t (padTo 14 answer)))

/-- FAB_EVENTS: the events the device gives up, at most 126, oldest first. -/
def execFabEvents (rq : MbxReq) (drained : List (List Byte)) (s : State) : Result :=
  mailbox s (deviceSpec 0x0083) rq (withDevice (fun t d _ =>
    let es := drained.take 126
    .okWith (tell t d (leBytes 2 0x0083 ++ leBytes 2 es.length))
      (padTo 0x20 (leBytes 1 es.length) ++ es.flatMap (padTo 32))))

/-- FAB_DOORBELL rings a queue of another device whose home is the fabric. -/
def execFabDoorbell (rq : MbxReq) (s : State) : Result :=
  mailbox s { code := 0x0084, len := some 16, reserved := [(0x01, 0, 8), (0x04, 0, 32)] } rq
    (withDevice (fun t d b => .ok (tell t d (leBytes 2 0x0084 ++ b))))

/-- FAB_SEAL accepts a lost device only: its windows, and with them its place among the senders of every job, and its number are
free (R287, R366). -/
def execFabSeal (rq : MbxReq) (s : State) : Result :=
  mailbox s (deviceSpec 0x0088) rq (fun t b =>
    let d := leAt b 0 1
    if !(lostWorkers t).any (fun w => w.dev == d) then .fail t stNotFound 0
    else
      let t := t.updFar (fun f => { f with windows := f.windows.filter (fun w => w.srcDev != d) })
      let t := t.updTab (fun v => { v with jobs := v.jobs.map (fun j => { j with peers := j.peers.filter (· != d) }) })
      .ok (t.updFab (fun f => { f with
        workers := f.workers.filter (fun w => w.dev != d), tags := f.tags.filter (fun x => x.1 != d)
        linked := f.linked.filter (fun x => x.1 != d) })))

/-! FAB_FORWARD (R360, R361). -/

/-- Tag and DIGEST of the caddy image an embedded CADDY_LOAD names in the memory behind the manager's port. -/
def embeddedImage (s : State) (p : Port) (body : List Byte) : Option (W64 × Digest) :=
  (hostImage s p body).map (fun b => (BitVec.ofNat 64 (leAt b 8 8), digestOf ((b.drop 0x20).take 32)))

/-- A tag recorded in the tree, this device included, under another DIGEST. -/
def tagElsewhere (s : State) (tag : W64) (digest : Digest) : Bool :=
  s.fab.tags.any (fun t => t.2.2.1 == tag && t.2.2.2 != digest) ||
    s.tab.caddies.any (fun c => c.tag == tag && c.digest != digest)

/-- What the target must answer to an embedded command, whatever its state: BAD_CMD, a ring in host memory, a tag in use. -/
def embeddedRefusal (s : State) (p : Port) (code : Nat) (body : List Byte) : Option (Nat × Nat) :=
  if bannedEmbedded code then some (stBadCmd, 0)
  else if code = 0x0040 && !bit (leAt body 2 1) 5 then some (stBadField, 2)
  else if code = 0x0022 then
    (match embeddedImage s p body with
     | some (tag, digest) => if tagElsewhere s tag digest then some (stTagInUse, 0) else none
     | none => none)
  else none

/-- The tag table follows a caddy that another device has loaded or unloaded (R361). -/
def recordTag (s : State) (p : Port) (d code : Nat) (body answer : List Byte) : State :=
  if leAt answer 8 2 != stOk then s
  else if code = 0x0022 then
    match embeddedImage s p body with
    | some (tag, digest) => s.updFab (fun f => { f with tags := f.tags ++ [(d, leAt answer 0x20 2, tag, digest)] })
    | none => s
  else if code = 0x0023 then
    s.updFab (fun f => { f with tags := f.tags.filter (fun x => !(x.1 == d && x.2.1 == leAt body 0 2)) })
  else s

/-- The bytes of the issuing port's host memory that an embedded command names, which the manager streams: an image of 48-bit length, or the
range of a COPY_IN or a HUB_REJOIN (R325, R326, R360, R422). -/
def embeddedData (s : State) (p : Port) (code : Nat) (body : List Byte) : Option (List Byte) :=
  if [0x0020, 0x0022, 0x0028].contains code then hostImage s p body
  else if code = 0x0012 then hostRead s p (leAt body 0 8) (leAt body 0x10 4)
  else if code = 0x00C7 then hostRead s p (leAt body 0 8) (leAt body 8 4)
  else none

/-- What comes back for a COPY_OUT, streamed behind the response page, goes to the issuing port's host memory (R326, R360). -/
def takeCopy (s : State) (p : Port) (code : Nat) (body answer : List Byte) : State :=
  if code = 0x0013 && leAt answer 8 2 == stOk then
    hostWrite s p (leAt body 0 8) ((answer.drop (0x20 + leAt answer 2 2)).take (leAt body 0x10 4))
  else s

/-- A linked job that its device has destroyed is linked no more (R352, R363). -/
def noteDestroyed (s : State) (d code : Nat) (body answer : List Byte) : State :=
  if code = 0x0031 && leAt answer 8 2 == stOk then
    s.updFab (fun f => { f with linked := f.linked.filter (· != (d, leAt body 0 2)) })
  else s

/-- The embedded page goes to the device on class CTRL, the host memory it names on class DATA (R355, R360). -/
def forwardPage (s : State) (p : Port) (d code : Nat) (page body : List Byte) : State :=
  let u := tell s d page
  match embeddedData s p code body with
  | some bytes => sendTo u d classData bytes
  | none => u

/-- FAB_FORWARD: the embedded command goes to the lead hub of the named device, its answer comes back whole. -/
def forwardHandler (rq : MbxReq) (answer : List Byte) (t : State) (d : Nat) (b : List Byte) : Reply :=
  let page := b.drop 0x20
  let code := leAt page 0 2
  let body := (page.drop 0x20).take (leAt page 2 2)
  match embeddedRefusal t rq.port code body with
  | some (st, detail) => .okWith t (pageBytes code (leAt page 4 4) st detail [])
  | none =>
    let u := recordTag (forwardPage t rq.port d code page body) rq.port d code body answer
    .okWith (noteDestroyed (takeCopy u rq.port code body answer) d code body answer) ((answer.take (0x20 + leAt answer 2 2)).take 4064)

/-- The embedded page is whole: its header and the BODY_LEN bytes it names. -/
def forwardRange (b : List Byte) : Option Nat :=
  if b.length < 0x40 then some 0x20 else if b.length != 0x40 + leAt b 0x22 2 then some 0x22 else none

def execFabForward (rq : MbxReq) (answer : List Byte) (s : State) : Result :=
  mailbox s { code := 0x0082, len := none, reserved := [(0x01, 0, 248)], fits := forwardRange } rq
    (withDevice (forwardHandler rq answer))

/-! FAB_LAUNCH (R370). -/

/-- The entries of a FAB_LAUNCH: device, queue, doorbell value, from offset 0x10. -/
def launchEntries (b : List Byte) : List (Nat × Nat × Nat × Nat) :=
  (List.range (leAt b 8 2)).map (fun i => (leAt b (16 + 16 * i) 1, leAt b (18 + 16 * i) 2, leAt b (24 + 16 * i) 8, 16 + 16 * i))

/-- The length a FAB_LAUNCH's entries give it and their reserved fields (R322 step 4). -/
def launchFits (b : List Byte) : Option Nat :=
  if b.length != 16 + 16 * leAt b 8 2 then some 0x08
  else (((launchEntries b).map (·.2.2.2)).find? (fun o => leAt b (o + 1) 1 != 0 || leAt b (o + 4) 4 != 0)).map (· + 1)

/-- The doorbells go to their devices' leads, the manager's own wait here; LATE has a bit for each device that received
its doorbell after L. -/
def launchHandler (rq : MbxReq) (late : List Nat) (t : State) (b : List Byte) : Reply :=
  let es := launchEntries b
  if leAt b 0 8 < t.now.toNat + 10000 then .fail t stBadField 0
  else match es.find? (fun e => e.1 != 0 && (liveWorker t e.1).isNone) with
    | some e => .fail t stNotFound e.2.2.2
    | none =>
      let own : List Launch := (es.filter (fun e => e.1 == 0)).map (fun e =>
        { when_ := BitVec.ofNat 64 (leAt b 0 8), queue := e.2.1, value := BitVec.ofNat 64 e.2.2.1, port := rq.port })
      let u := t.updFab (fun f => { f with launches := f.launches ++ own })
      let u := (es.filter (fun e => e.1 != 0)).foldl (fun u e =>
        tell u e.1 (leBytes 2 0x0085 ++ leBytes 2 e.2.1 ++ leBytes 8 (leAt b 0 8) ++ leBytes 8 e.2.2.1)) u
      let mask := ((late.filter (fun d => d != 0 && es.any (fun e => e.1 == d))).eraseDups).foldl (fun n d => n + 2 ^ d) 0
      .okWith u (leBytes 32 mask)

def execFabLaunch (rq : MbxReq) (late : List Nat) (s : State) : Result :=
  mailbox s { code := 0x0085, len := none, reserved := [(0x0A, 0, 48)], fits := launchFits, sizes := [(0x08, 2)]
              range := fun b => if 253 < leAt b 8 2 then some 0x08 else none } rq
    (launchHandler rq late)

/-- A launched doorbell rings its queue as its home does: a queue whose home is a port as that port, another as the
fabric. -/
def applyLaunch (s : State) (l : Launch) : State :=
  ringQueue s (((findQueue s l.queue).map (·.home)).getD (.port l.port)) l.port l.queue l.value

/-- LAUNCH_DOORBELL_APPLY: the doorbells of a queue whose count L has been reached. -/
def execLaunchDoorbellApply (queue : Nat) (s : State) : Result :=
  if 8192 ≤ queue then .fault .noSuchUnit
  else
    let due (l : Launch) : Bool := l.queue == queue && decide (l.when_.toNat ≤ s.now.toNat)
    .next ((s.fab.launches.filter due).foldl applyLaunch
      (s.updFab (fun f => { f with launches := f.launches.filter (fun l => !due l) })))

/-! FAB_LINK, FAB_PAIR (R363, R371). -/

/-- A member of a link as the checks read it: device, JOB_ID, RJOB, tags by binding index, PEERS; none where the device has
no such job. -/
def memberOf (s : State) (answers : List (Nat × Nat × List Nat × List Nat)) (dev job : Nat) :
    Option (Nat × List Nat × List Nat) :=
  if dev = 0 then
    (findJob s job).map (fun j => ((j.rjob).getD 0xFF,
      j.binds.map (fun i => ((findCaddy s i).map (·.tag.toNat)).getD 0), j.peers))
  else (answers.find? (fun a => a.1 == dev)).map (fun a => a.2)

/-- The entries of a FAB_LINK: device, JOB_ID, offset. -/
def linkEntries (b : List Byte) : List (Nat × Nat × Nat) :=
  (List.range (leAt b 1 1)).map (fun i => (leAt b (4 + 4 * i) 1, leAt b (6 + 4 * i) 2, 4 + 4 * i))

/-- The length a FAB_LINK's entries give it and their reserved fields (R322 step 4). -/
def linkFits (b : List Byte) : Option Nat :=
  if b.length != 4 + 4 * leAt b 1 1 then some 0x01
  else ((linkEntries b).find? (fun e => leAt b (e.2.2 + 1) 1 != 0)).map (fun e => e.2.2 + 1)

/-- The first failing check of R363: the status and the offset. -/
def linkFault (s : State) (answers : List (Nat × Nat × List Nat × List Nat)) (sink : Nat) (es : List (Nat × Nat × Nat)) :
    Option (Nat × Nat) :=
  let member (e : Nat × Nat × Nat) := memberOf s answers e.1 e.2.1
  let known (d : Nat) : Bool := d == 0 || (liveWorker s d).isSome
  let first := (es.head?).bind member
  let sinkPeers := (((es.find? (fun e => e.1 == sink)).bind member).map (·.2.2)).getD []
  let at_ (p : Nat × Nat × Nat → Bool) (st : Nat) : Option (Nat × Nat) := (es.find? p).map (fun e => (st, e.2.2))
  if !known sink then some (stNotFound, 0)
  else firstSome
    [ at_ (fun e => !known e.1) stNotFound,
      at_ (fun e => (member e).isNone) stNotFound,
      if es.any (fun e => e.1 == sink) then none else some (stBadField, 0),
      at_ (fun e => es.any (fun x => x.1 == e.1 && decide (x.2.2 < e.2.2))) stBadField,
      at_ (fun e => (member e).map (·.1) != first.map (·.1)) stBadField,
      at_ (fun e => (member e).map (·.2.1) != first.map (·.2.1)) stBadField,
      at_ (fun e => e.1 != sink && !sinkPeers.contains e.1) stBadField ]

/-- FAB_LINK: one job on each named device becomes part of a linked job; the manager keeps those of other devices (R352). -/
def linkHandler (answers : List (Nat × Nat × List Nat × List Nat)) (t : State) (b : List Byte) : Reply :=
  let sink := leAt b 0 1
  let es := linkEntries b
  match linkFault t answers sink es with
  | some (st, off) => .fail t st off
  | none =>
    let l : JobLink := { sink := sink, members := es.map (fun e => (e.1, e.2.1)) }
    let t := t.updFab (fun f => { f with linked := f.linked ++ (es.filter (fun e => e.1 != 0)).map (fun e => (e.1, e.2.1)) })
    .ok (es.foldl (fun u e =>
      if e.1 = 0 then updJob u e.2.1 (fun j => { j with link := some l })
      else tell u e.1 (leBytes 2 0x0086 ++ leBytes 2 e.2.1 ++ b)) t)

def execFabLink (rq : MbxReq) (answers : List (Nat × Nat × List Nat × List Nat)) (s : State) : Result :=
  mailbox s { code := 0x0086, len := none, reserved := [(0x02, 0, 16)], fits := linkFits, sizes := [(0x01, 1)] } rq
    (linkHandler answers)

/-- FAB_PAIR, on any device: the peer hears of it; commands dispatched after both devices have answered are compared (R371, log 95). -/
def execFabPair (rq : MbxReq) (s : State) : Result :=
  mailbox s { code := 0x0087, len := some 8, reserved := [(0x04, 4, 28)] } rq (fun t b =>
    let port := field (leAt b 4 1) 0 4
    match findJob t (leAt b 0 2) with
    | none => .fail t stNotFound 0
    | some j =>
      if (t.worgon port).role != 3 then .fail t stBadField 4
      else if j.pair.isSome then .fail t stInUse
      else
        let from_ : Option Nat := if j.peerPaired then some j.nextSerial.toNat else none
        let pair : Pairing := { peerJob := leAt b 2 2, port := port, fromSerial := from_ }
        let u := updJob t j.id (fun j => { j with pair := some pair })
        .ok (transmit u port classCtrl (leBytes 2 0x0087 ++ leBytes 2 (leAt b 2 2))))

/-- COMPARISON_RECORD: a record of the peer for a job of this device. -/
def execComparisonRecord (job serial block : Nat) (bcheck : W32) (s : State) : Result :=
  .next (settlePair (updJob s job (fun j => { j with pair := j.pair.map (fun p =>
    if (s.worgon p.port).up && !j.diverged then p.hear { serial := serial, block := block, check := bcheck } else p) })) job)

/-- PEER_LINK_TIMEOUT: the PEER link has carried no valid flit for 100 ms (R374). -/
def execPeerLinkTimeout (job : Nat) (s : State) : Result :=
  .next (match (findJob s job).bind (fun j => if j.diverged then none else j.pair) with
    | some p => if 100 * msTicks ≤ s.since (s.worgon p.port).lastValid then diverge s job (2 ^ 64 - 1) else s
    | none => s)

/-! Loss of a worker (R365 to R367, R494). -/

/-- A device and everything below it. -/
def subtree (s : State) (dev : Nat) : List Nat := (subtreeOf s.fab.workers dev).map (·.dev)

/-- The manager has seen no valid flit of a worker on its own ports for 100 ms; deeper links are seen by the parents (R365). -/
def silent (s : State) (w : Worker) : Bool :=
  w.parent != 0 || (w.parentPort :: w.second.toList).all (fun k => decide (100 * msTicks ≤ s.since (s.worgon k).lastValid))

/-- One device lost: its windows are sealed, its jobs are linked no more, WORKER_LOST posts (R365 to R367). -/
def loseWorker (s : State) (dev : Nat) : State :=
  let s := s.updFab (fun f => { f with
    workers := updWhere (fun w => w.dev == dev) (fun w => { w with lost := true }) f.workers
    linked := f.linked.filter (fun x => x.1 != dev) })
  let s := s.updFar (fun f => { f with windows := updWhere (fun w => w.srcDev == dev) (fun w => { w with isSealed := true }) f.windows })
  postBoth (noteFault s 0x12 dev) { code := 0x0014, arg0 := dev }

/-- WORKER_LOSS_TIMEOUT at the manager: the worker and all below it are lost, lowest number first. -/
def execWorkerLossTimeout (device : Nat) (s : State) : Result :=
  .next (match liveWorker s device with
    | none => s
    | some w =>
      if s.dev.role.val = 1 && silent s w then
        ((sortBy (fun d => d) (subtree s device)).filter (fun d => (liveWorker s d).isSome)).foldl loseWorker s
      else s)

/-- After a declared loss the worker's queues are cancelled, its jobs destroyed, its compute state zeroed; it waits for
enumeration (R367). -/
def forgetJobs (s : State) : State :=
  let s := (s.tab.queues.map (·.num)).foldl cancelQueue s
  let s := s.tab.jobs.foldl destroyJob s
  (zeroCores s (List.range 512)).updFab (fun f => { f with enumerated := false, devNumber := 0, workers := [], launches := [], correction := 0 })

/-- A hub that the parent refuses stops in CONFIG_WAIT as at a failed step 6 (R494, R495). -/
def refuseHub (s : State) (h : Hub) : State :=
  let digest := match selectedCopy s with
    | some (_, c) => (c.drop 0x80).take 32
    | none => zeros 32
  noteConfig (s.updHub h (fun x => { x with phase := .configWait, svc := .rejoining })) h digest 0

def refusedAtEnum (s : State) : State :=
  let s := forgetJobs s
  let s := (List.range 8).foldl powerOffDie s
  let s := (refuseHub (refuseHub s .h0) .h1).updDev (fun d => { d with lead := none, dstate := 0, cpu := .idle, ready := false })
  (List.range 12).foldl (fun s k => s.updWorgon k (fun w => { w with trained := false })) s

/-- WORKER_REFUSAL on a worker: at enumeration, or by a parent that has declared it lost. -/
def execWorkerRefusal (enumerating : Bool) (s : State) : Result :=
  .next (if s.dev.role.val != 2 then s else if enumerating then refusedAtEnum s else forgetJobs s)

/-! Flits received (R354, R357). -/

/-- The devices below a worker as its number tells it (R352, R355). -/
def belowWorker (x : Nat × Nat × Nat × Option Nat) : Worker :=
  { dev := x.1, parent := x.2.1, parentPort := x.2.2.1, upPort := 0, depth := 0, twoUp := x.2.2.2.isSome, second := x.2.2.2 }

/-- What a packet of class CTRL from the parent does at a worker: a number, doorbells, launches, links, drained events (R352, R362, R363).
A doorbell that comes after its count is applied at once and reported LATE (R370). -/
def hearMsg (s : State) (m : FabMsg) : State :=
  let p := s.leadOr0.port
  match m with
  | .number dev below => s.updFab (fun f => { f with devNumber := dev, enumerated := false, workers := below.map belowWorker })
  | .doorbell queue value => ringQueue s .fabric p queue value
  | .launch queue l value =>
    let x : Launch := { when_ := l, queue := queue, value := value, port := p }
    if l.toNat < s.now.toNat then sendTo (applyLaunch s x) 0 classCtrl (leBytes 2 0x0085 ++ leBytes 2 s.fab.devNumber)
    else if l.toNat = s.now.toNat then applyLaunch s x
    else s.updFab (fun f => { f with launches := f.launches ++ [x] })
  | .link job sink => updJob s job (fun j => { j with link := some { sink := sink, members := [] } })
  | .drain n => (s.updPort .a (fun ps => ps.giveUp n s.now)).updPort .b (fun ps => ps.giveUp n s.now)
  | .fetchImage | .paired _ | .unpaired _ | .relay .. => s

/-- The last flits of a class leave what a port has delivered. -/
def dropClass (cls : Nat) : Nat → List (Nat × List Byte) → List (Nat × List Byte)
  | _, [] => []
  | 0, l => l
  | n + 1, x :: r => if x.1 = cls then dropClass cls n r else x :: dropClass cls (n + 1) r

/-- A packet for another device goes on over the one path of the tree, whole and in the order of its class (R355). -/
def relayPacket (s : State) (k cls dest n : Nat) : State :=
  let mine := ((s.worgon k).delivered.filter (fun x => x.1 == cls)).map (·.2)
  let bytes := (mine.drop (mine.length - n)).flatten
  sendTo (s.updWorgon k (fun w => { w with delivered := (dropClass cls n w.delivered.reverse).reverse })) dest cls bytes

/-- The parent serves the image it runs (R350). -/
def serveImage (s : State) (k : Nat) : State :=
  match (s.hub s.leadOr0).image with
  | some i => transmit s k classCtrl i.code
  | none => s

/-- What a packet does when its last flit has come: one for another device is relayed; of the others, class CTRL acts, by the role of the
port: UP from the parent, DOWN from a child, PEER from the paired device. -/
def takeMsg (s : State) (k : Nat) (f : Flit) (m : FabMsg) : State :=
  match m with
  | .relay dest n => if dest = s.fab.devNumber then s else relayPacket s k f.cls dest n
  | .fetchImage => if f.cls = classCtrl && (s.worgon k).role = 2 then serveImage s k else s
  | .paired job => if f.cls = classCtrl && (s.worgon k).role = 3 then beginPairing s job else s
  | .unpaired job => if f.cls = classCtrl && (s.worgon k).role = 3 then dropPairing s job else s
  | m => if f.cls = classCtrl && s.dev.role.val = 2 && (s.worgon k).role = 1 then hearMsg s m else s

/-- A flit whose CRC holds: its acknowledgement first, replay on NAK, then the flit in order. -/
def acceptFlit (s : State) (k : Nat) (f : Flit) : State :=
  let now := s.now
  let s := s.updWorgon k (fun w => w.heard f now)
  let s := if f.nak then (countResent s (s.worgon k).replay.length).updWorgon k Worgon.resend else s
  if 6 ≤ f.cls then s.updWorgon k Worgon.retrained
  else if f.fseq != (s.worgon k).nextRx then s.updWorgon k (fun w => w.pump now)
  else
    let s := s.updWorgon k (fun w => ((w.took now f).pump now).answerLink now)
    match f.msg with
    | some m => takeMsg s k f m
    | none => s

/-- FLIT_RECEIVE. -/
def execFlitReceive (k : Fin 12) (f : Flit) (s : State) : Result :=
  .next (if !(s.worgon k.val).up then s else if flitIntact f then acceptFlit s k.val f else dropFlit s k.val)

/-! GCOUNT (R368). -/

/-- ((t2 - t1) + (t3 - t4)) / 2, in ticks; half a tick is rounded down (log 122). -/
def syncOffset (t1 t2 t3 t4 : W64) : Int :=
  (((t2.toNat : Int) - t1.toNat) + ((t3.toNat : Int) - t4.toNat)) / 2

/-- The measured delay of one way: half the round trip without the parent's own time, half a tick rounded down (log 122). -/
def syncDelay (t1 t2 t3 t4 : W64) : Nat := ((t4 - t1).toNat - (t3 - t2).toNat) / 2

/-- GCOUNT_SYNC on a worker: at enumeration the count is set, later the offset is corrected tick by tick. -/
def execGcountSync (t1 t2 t3 t4 : W64) (s : State) : Result :=
  .next (
    if s.dev.role.val != 2 || s.fab.devNumber = 0 then s
    else
      let off := syncOffset t1 t2 t3 t4
      if s.fab.enumerated then s.updFab (fun f => { f with correction := off, offset := off })
      else
        let g := t3 + BitVec.ofNat 64 (syncDelay t1 t2 t3 t4)
        let s := (s.updHub .h0 (fun h => { h with gcount := g })).updHub .h1 (fun h => { h with gcount := g })
        s.updFab (fun f => { f with enumerated := true, correction := 0, offset := 0 }))

end Sys2Proof.Machine
end

