-- ==== Sys2Proof/Machine/OpsNonlinear.lean ====
section
/-! DEFINITION. The operations of the binary scheme and the bootstrap (R252 to R270): SWITCH.OUT, LUT, BOOTSTRAP, REPACK. What
only a preset's private constants fix is free: the polynomials of BT-16 and RP-16 (R257, R270, log 13). -/

namespace Sys2Proof.Machine

open Sys2Proof

/-! LWE samples (R260). -/

/-- One limb of a sample: a[0 ..], b at word n, zeros behind. -/
def sampleLimb (dim : Nat) (a : List Nat) (b : Nat) : Limb := fitLimb 1024 (fitLimb dim a ++ [b])

/-- Words a and b of limb i of sample m. -/
def sampleA (dim : Nat) (p : Poly) (m i : Nat) : List Nat := (Poly.limb p m i 1024).take dim
def sampleB (dim : Nat) (p : Poly) (m i : Nat) : Nat := (Poly.limb p m i 1024).getD dim 0

/-! SWITCH.OUT (R263). -/

/-- The limb a sample holds for coefficient t of (c0, c1) under q. -/
def extractLimb (dim n q t : Nat) (c0 c1 : Limb) : Limb :=
  sampleLimb dim ((List.range dim).map (fun k => if k ≤ t then c1.getD (t - k) 0 else (q - c1.getD (n + t - k) 0 % q) % q))
    (c0.getD t 0)

/-- The samples of one switched ciphertext. -/
def extractAll (dim n count : Nat) (qs : List Nat) (c0 c1 : List Limb) : Poly :=
  (List.range count).map (fun m => qs.zipIdx.map (fun q =>
    extractLimb dim n q.1 (m * n / count) (c0.getD q.2 []) (c1.getD q.2 [])))

/-- The switch to the LWE secret at level 1, and both components in the coefficient domain (R263, R267). -/
def switchOut (s : State) (r : OpRun) (ch : Chain) (c : Caddy) (e : KeyEntry) (m : Nat) (c0 c1 : List Limb) :
    List Limb × List Limb × Bool :=
  let ys := raiseDigits r.entry.exact m 1 2 ch c1
  let w := switchDigits s r.entry.exact m 1 ch c e ys
  let qs := ch.primes.take 2
  (polyMap (nttInverse m) qs (polyZip limbAdd qs c0 w.u), polyMap (nttInverse m) qs w.v, w.ok)

/-- SLOTS_LOG2 of a switched-out batch (R255). -/
def outSlots (preset slots : Nat) : Nat := min slots (ltLog2n preset - 1)

def switchOutItem (r : OpRun) (s : State) (b0 b1 : Nat) : State :=
  let n := tmplN (r.desc 1)
  let preset := r.body.preset
  let o := readHdr s r 1 b0 b1
  if noPrimes s r [(1, o)] then zeroResult s r b0 b1 else
  let s := repairPayload r s 1 b0 b1 2 o
  let o := readPayload s r 1 b0 b1 2 o
  let s := r.reportRead s 1 (r.itemIndex 1 b0 b1) o
  let h : Hdr := { o.hdr with kind := 4, log2n := ltLog2n preset, level := 0, domain := 0, state := hValid, cause := cNone
                              slotsLog2 := outSlots preset o.hdr.slotsLog2 }
  let shape := if o.hdr.domain != 1 || decide (ltLog2n preset - 1 < o.hdr.slotsLog2) then [cShape] else []
  let out : Poly × List Nat :=
    match findChain s o.hdr.chain, r.keys.head?.bind (r.key s) with
    | some ch, some (c, _, e) =>
      let x := switchOut s r ch c e (Nat.log2 n) (compAt o.poly 0 1 n) (compAt o.poly 1 1 n)
      ((extractAll (ltDim preset) n (2 ^ (o.hdr.slotsLog2 + 1)) (ch.primes.take 2) x.1 x.2.1).take (2 ^ ltLog2n preset),
        switchCauses o c x.2.2)
    | _, _ => ([], [])
  writeResult s r b0 b1 h false out.1 (if o.held then o.limbs else 2 ^ 32) [o.state] (tagCause [o] ++ shape ++ o.causes ++ out.2)

/-- SWITCH.OUT. -/
def execSwitchOut (queue : Nat) (s : State) : Result := runObj queue opSwitchOut (withKeys (fun r => forItems r [0, 1] (switchOutItem r))) s

/-! LUT (R264 to R268). -/

/-- The integer in [0, q0·q1) of two residues. -/
def crt2 (q0 q1 x0 x1 : Nat) : Nat := x0 % q0 + q0 * (((x1 % q1 + (q1 - x0 % q0 % q1)) * invMod (q0 % q1) q1) % q1)

/-- x̃ of a word (R264). -/
def roundWord (q0 q1 m x0 x1 : Nat) : Nat :=
  let qb := q0 * q1
  ((crt2 q0 q1 x0 x1 * 2 ^ (m + 1) + qb / 2) / qb) % 2 ^ (m + 1)

/-- X^(-e) at the evaluation points: ψ^(-e·e(r)) (R265). -/
def monomial (m q e : Nat) : Limb :=
  let w := powMod (psi (2 ^ m) q) ((2 ^ (m + 1) - e % 2 ^ (m + 1)) % 2 ^ (m + 1)) q
  (List.range (2 ^ m)).map (fun r => powMod w (evalExp m r) q)

/-- The accumulator (c0, c1), each two limbs. -/
abbrev LutAcc := List (List Limb)

/-- Digit k of the CRT of two coefficient limbs, in both limbs, in the evaluation domain (R265). -/
def gadgetDigit (m logBase k : Nat) (qs : List Nat) (l0 l1 : Limb) : List Limb :=
  let v := limbZip (fun x y => crt2 (qs.getD 0 2) (qs.getD 1 3) x y / 2 ^ (logBase * k) % 2 ^ logBase) l0 l1
  qs.map (fun q => nttForward m q (v.map (· % q)))

/-- The halves of a BLINDROT key's pieces: the limb number stands in the expansion for the chain slot (R266). -/
def blindHalves (s : State) (ch : Chain) (c : Caddy) (e : KeyEntry) (j i : Nat) : Halves :=
  halvesAt s c e j i i (ch.primes.getD (i % 2) 2)

/-- Row (c, k) of BK_t under limb l: the polynomial pair (b, a) (R266). -/
def blindRow (m per : Nat) (hs : List (List Halves)) (digits t cpt k l : Nat) : Limb × Limb :=
  let h := (hs.getD (cpt * digits + k) []).getD (2 * (t / per) + l) noHalves
  let cut (x : Limb) : Limb := (x.drop (t % per * 2 ^ m)).take (2 ^ m)
  (cut h.b, cut h.a)

/-- One step of the blind rotation (R265). -/
def blindStep (m logBase digits per : Nat) (qs : List Nat) (hs : List (List Halves)) (acc : LutAcc) (t e : Nat) : LutAcc :=
  let u := acc.map (fun c => polyZip limbMul qs c (qs.map (fun q => (monomial m q e).map (fun x => (x + (q - 1)) % q))))
  let v := u.map (fun c => polyMap (nttInverse m) qs c)
  (List.range 2).foldl (fun acc cpt => (List.range digits).foldl (fun acc k =>
    let g := gadgetDigit m logBase k qs ((v.getD cpt []).getD 0 []) ((v.getD cpt []).getD 1 [])
    let add (half : Limb × Limb → Limb) (c : List Limb) : List Limb :=
      polyZip limbAdd qs c (qs.zipIdx.map (fun q => limbMul q.1 (g.getD q.2 []) (half (blindRow m per hs digits t cpt k q.2))))
    [add (·.1) (acc.getD 0 []), add (·.2) (acc.getD 1 [])]) acc) acc

/-- Samples a LUT task holds (R269). -/
def taskSamples : Nat := 32

/-- The blind rotation of the samples of one task, each of its rounded words: every step for all of them before the next
(R265, R269). -/
def blindRotate (m logBase digits per : Nat) (qs : List Nat) (hs : List (List Halves)) (table : List Limb)
    (samples : List (List Nat × Nat)) : List LutAcc :=
  let start (x : List Nat × Nat) : LutAcc :=
    [polyZip limbMul qs (qs.map (fun q => monomial m q x.2)) table, qs.map (fun _ => limbZero (2 ^ m))]
  let steps := ((samples.head?).map (·.1.length)).getD 0
  (List.range steps).foldl (fun accs t =>
    (samples.zip accs).map (fun x => blindStep m logBase digits per qs hs x.2 t (x.1.1.getD t 0))) (samples.map start)

/-- The output sample of a switched accumulator (R267). -/
def lutSample (dim n : Nat) (qs : List Nat) (c0 c1 : List Limb) : List Limb :=
  qs.zipIdx.map (fun q => extractLimb dim n q.1 0 (c0.getD q.2 []) (c1.getD q.2 []))

/-- The samples of one item looked up, and whether the pieces read passed their checks. -/
def lookup (s : State) (r : OpRun) (ch : Chain) (bc : Caddy) (be : KeyEntry) (sc : Caddy) (se : KeyEntry) (count : Nat)
    (batch table : Poly) : Poly × Bool :=
  let preset := r.body.preset
  let m := ltLog2n preset
  let dim := ltDim preset
  let d := ltDigits preset
  let qs := ch.primes.take 2
  let per := 2 ^ (be.log2n - m)
  let hs := (List.range (2 * d)).map (fun j => (List.range (2 * ceilDiv dim per)).map (fun i => blindHalves s ch bc be j i))
  let t := polyMap (nttForward m) qs ((List.range 2).map (fun i => Poly.limb table 0 i (2 ^ m)))
  let word (x : Nat) (l0 l1 : List Nat) : Nat := roundWord (qs.getD 0 2) (qs.getD 1 3) m (l0.getD x 0) (l1.getD x 0)
  let rounded (k : Nat) : List Nat × Nat :=
    let l0 := Poly.limb batch k 0 1024
    let l1 := Poly.limb batch k 1 1024
    ((List.range dim).map (fun x => word x l0 l1), word dim l0 l1)
  let accs := (chunks taskSamples (ceilDiv count taskSamples) ((List.range count).map rounded)).flatMap
    (blindRotate m (ltLogBase preset) d per qs hs t)
  let out := accs.map (fun acc =>
    let x := switchOut s r ch sc se m (acc.getD 0 []) (acc.getD 1 [])
    (lutSample dim (2 ^ m) qs x.1 x.2.1, x.2.2))
  (out.map (·.1), out.all (·.2) && hs.all (fun l => l.all (·.ok)))

/-- A key of a command's list by its kind. -/
def keyOfKind (s : State) (r : OpRun) (kind : Nat) : Option (Caddy × Nat × KeyEntry) :=
  (r.keys.find? (fun k => k.kkind == kind)).bind (r.key s)

/-- One item of a LUT. The ring a switch of its accumulator compares is the key's own, by which the key was found: no caddy's
header has a LOG2N below 12 (R153, R174, R262, DEDUCED, log 109). -/
def lutItem (r : OpRun) (s : State) (b0 b1 : Nat) : State :=
  let preset := r.body.preset
  let a := readHdr s r 1 b0 b1
  let t := readHdr s r 2 b0 b1
  if noPrimes s r [(1, a), (2, t)] then zeroResult s r b0 b1 else
  let s := repairPayload r (repairPayload r s 1 b0 b1 2 a) 2 b0 b1 2 t
  let a := readPayload s r 1 b0 b1 2 a
  let t := readPayload s r 2 b0 b1 2 t
  let s := r.reportRead (r.reportRead s 1 (r.itemIndex 1 b0 b1) a) 2 (r.itemIndex 2 b0 b1) t
  let h : Hdr := { a.hdr with kind := 4, log2n := ltLog2n preset, level := 0, domain := 0, state := hValid, cause := cNone
                              scale := t.hdr.scale }
  let shape := if t.hdr.domain != 0 || t.hdr.level != 1 || a.hdr.log2n != t.hdr.log2n || a.hdr.chain != t.hdr.chain then [cShape] else []
  let out : Poly × List Nat :=
    match findChain s a.hdr.chain, keyOfKind s r 5, keyOfKind s r 3 with
    | some ch, some (bc, _, be), some (sc, _, se) =>
      let x := lookup s r ch bc be sc se (tmplComps (r.desc 1)) a.poly t.poly
      let chains := bc.chainId != a.hdr.chain || sc.chainId != a.hdr.chain
      let tags := !a.malformed && (bc.tag.toNat != a.hdr.tag || sc.tag.toNat != a.hdr.tag)
      (x.1, (if tags then [cTag] else []) ++ (if chains then [cShape] else []) ++ (if x.2 then [] else [cFault]))
    | _, _, _ => ([], [])
  let fewest := (minList (([a, t].filter (·.held)).map (·.limbs))).getD (2 ^ 32)
  writeResult s r b0 b1 h false out.1 fewest [a.state, t.state] (tagCause [a, t] ++ shape ++ a.causes ++ t.causes ++ out.2)

/-- LUT. -/
def execLut (queue : Nat) (s : State) : Result := runObj queue opLut (withKeys (fun r => forItems r [0, 1, 2] (lutItem r))) s

/-! BOOTSTRAP and REPACK (R255, R257, R270, R273). -/

/-- The words of the pieces a preset's command reads, b half then a half, and whether every check passed (R171, R259). -/
def keyWords (s : State) (r : OpRun) : List Nat × Bool :=
  let hs := r.keys.zipIdx.flatMap (fun n => match r.key s n.1, r.chain s with
    | some (c, _, e), some own =>
      let pairs := pairsOf s c
      (piecesAt own.pairs.length pairs own.special.length c.dnum (keyLevel r n.2 n.1) e).map (fun x =>
        let slot := if x.2 < 2 * pairs then x.2 else 64 + (x.2 - 2 * pairs)
        halvesAt s c e x.1 x.2 slot (((findChain s c.chainId).bind (·.slotPrime slot)).getD 2))
    | _, _ => [])
  (hs.flatMap (fun h => h.b ++ h.a), hs.all (·.ok))

/-- The causes the keys of a preset add: tag, chain, ring (R173, R174). The ring of a REPACK's ciphertext is its key's. -/
def presetCauses (s : State) (r : OpRun) (o : Obj) : List Nat :=
  let ring := if r.entry.opcode = opRepack then 16 else o.hdr.log2n
  (r.keys.filterMap (r.key s)).flatMap (fun k =>
    (if !o.malformed && k.1.tag.toNat != o.hdr.tag then [cTag] else []) ++
      (if k.1.chainId != o.hdr.chain || k.1.log2n != ring then [cShape] else []))

/-- A polynomial of c components of so many limbs from its words. -/
def polyOf (c limbs n : Nat) (word : Nat → Nat → Nat → Nat) : Poly :=
  (List.range c).map (fun j => (List.range limbs).map (fun i => (List.range n).map (word j i)))

/-- The result of an operation that a preset's private constants fix: the header by the table Header effects of the
non-linear operations, the payload a fixed function of what the operation reads. -/
def presetItem (r : OpRun) (level want : Nat) (originated : State → Obj → List Nat)
    (compute : OpRun → Chain → Obj → List Nat → Poly) (s : State) (b0 b1 : Nat) : State :=
  let o := readHdr s r 1 b0 b1
  if noPrimes s r [(1, o)] then zeroResult s r b0 b1 else
  let s := repairPayload r s 1 b0 b1 want o
  let o := readPayload s r 1 b0 b1 want o
  let s := r.reportRead s 1 (r.itemIndex 1 b0 b1) o
  let h : Hdr := { o.hdr with kind := 1, log2n := 16, level := level, domain := 1, state := hValid, cause := cNone }
  let overCap := if overCapacity s.tab.chains h.chain level h.scale then [cScale] else []
  let keys := keyWords s r
  let p : Poly := ((findChain s h.chain).map (fun ch => compute r ch o keys.1)).getD []
  writeResult s r b0 b1 h false p (2 ^ 32) [o.state]
    (tagCause [o] ++ originated s o ++ overCap ++ o.causes ++ presetCauses s r o ++ (if keys.2 then [] else [cFault]))

/-- S of A exceeds C(1) - 2,816 (R255). -/
def marginExceeded (s : State) (o : Obj) : List Nat :=
  match findChain s o.hdr.chain with
  | some c => if (c.capacity 1 : Int) - 2816 < (o.hdr.scale : Int) then [cScale] else []
  | none => []

/-- What BOOTSTRAP originates: LEVEL below level 3, SCALE past the margin, SHAPE in the other domain. -/
def bootstrapCauses (s : State) (o : Obj) : List Nat :=
  (if o.hdr.domain != 1 then [cShape] else []) ++ (if o.hdr.level < 3 then [cLevel] else []) ++ marginExceeded s o

/-- ModRaise: the limbs of pair 0 in the coefficient domain, raised exactly onto the other 46 limbs of level 24, all
transformed (R257). -/
def modRaise (m : Nat) (ch : Chain) (comp : List Limb) : List Limb :=
  let slots := (ch.primes.take 48).zipIdx.map (fun q => (q.2, q.1))
  raiseDigit true m 0 2 slots ((ch.primes.zip comp).map (fun p => nttInverse m p.1 p.2))

/-- The phases of BT-16: StC at the input's levels, ModRaise, then CtS with EvalMod (R257, R258). -/
def bootstrapPoly (r : OpRun) (ch : Chain) (o : Obj) (keys : List Nat) : Poly :=
  let n := 2 ^ 16
  let low := polyOf 2 2 n (fun j i x =>
    Config.stcWord r.body.consts (o.poly.flatMap (fun c => c)) keys j i x % ch.primes.getD i 2)
  let raised := low.map (modRaise 16 ch)
  polyOf (tmplComps (r.desc 0)) 26 n (Config.bootstrapWord r.body.consts raised.flatten keys)

/-- BOOTSTRAP: an input above level 3 is read only through its first three pairs (R258). -/
def execBootstrap (queue : Nat) (s : State) : Result :=
  runObj queue opBootstrap (withKeys (fun r => forItems r [0, 1] (presetItem r 13 6 bootstrapCauses bootstrapPoly))) s

/-- The LWE dimension of a batch by its LOG2N: LT-11's or LT-10's (R253, R260). -/
def lweDim (log2n : Nat) : Nat := if log2n = 11 then ltDim 3 else ltDim 4

/-- The steps of RP-16 on one item: the diagonal product with its a words, its b words added as a plaintext, the
reduction. Words n + 1 to 1,023 of a limb are not used (R260, R270). -/
def repackPoly (r : OpRun) (ch : Chain) (o : Obj) (keys : List Nat) : Poly :=
  let n := 2 ^ 16
  let dim := lweDim o.hdr.log2n
  let samples := o.poly.flatMap (fun c => c)
  let product := polyOf 2 46 n (Config.repackProduct r.body.consts (samples.map (·.take dim)) keys)
  let plain := (polyOf 1 46 n (fun _ => Config.repackPlain r.body.consts (samples.map (fun l => (l.drop dim).take 1)))).flatten
  let sum := product.zipIdx.map (fun c => if c.2 = 0 then polyZip limbAdd ch.primes c.1 plain else c.1)
  polyOf (tmplComps (r.desc 0)) 28 n (Config.repackWord r.body.consts sum.flatten keys)

/-- REPACK. -/
def execRepack (queue : Nat) (s : State) : Result :=
  runObj queue opRepack (withKeys (fun r => forItems r [0, 1] (presetItem r 14 2 marginExceeded repackPoly))) s

end Sys2Proof.Machine
end

