-- ==== Sys2Proof/Machine/Security.lean ====
section
/-! DEFINITION. Security commands (R443 to R456): attestation, identity, protection, the region table, MIN_SVN, the
integrator key. -/

namespace Sys2Proof.Machine

open Sys2Proof

/-! Attestation (R451 to R453). -/

/-- The hub whose measurements and key sign a report: the lead; the port's own hub in CONFIG_WAIT with no lead. -/
def signer (s : State) (p : Port) : Hub := s.dev.lead.getD p.hub

/-- The signed message of 0x180 bytes (R451). -/
def reportMessage (s : State) (h : HubState) (i : Nat) (nonce : List Byte) : List Byte :=
  leBytes 2 0x5241 ++ leBytes 1 1 ++ zeros 1 ++ leBytes 4 10277 ++ leBytes 8 Config.deviceId.toNat ++ leBytes 8 i ++
    leBytes 8 s.now.toNat ++ padTo 32 nonce ++
    h.measurements.flatMap digestBytes ++ digestBytes h.cfgDigest ++ zeros 32

/-- i + 1 is committed to NEXT_INDEX and the lifetime counter before index i is used; a SIGNATURE entry at each multiple of
65,536 (R452). -/
def commitIndex (s : State) (i : Nat) : State :=
  let s := s.updRecord (fun r => { r with nextIndex := i + 1, life := { r.life with sigIndex := i + 1 } })
  if (i + 1) % 65536 = 0 then append s 7 (leBytes 8 (i + 1)) else s

/-- A host access of len bytes at addr behind a port is possible. -/
def hostReachable (s : State) (p : Port) (addr len : Nat) : Bool :=
  reaches s p && (s.port p).hostReadable && decide (addr + len ≤ 2 ^ 64)

/-- ATTEST: no signature while DEBUG is HALT, the record die cannot be written or the index has reached 2^40 (R444, R452,
R453). -/
def execAttest (rq : MbxReq) (s : State) : Result :=
  mailbox s { code := 0x0101, states := [0, 2, 3], len := some 40 } rq (fun t b =>
    let h := t.hub (signer t rq.port)
    let i := t.record.nextIndex
    if debugHalt h || !t.record.writable then .fail t stNotPermitted
    else if 2 ^ 40 ≤ i then .fail t stBadState (portDstate t rq.port)
    else if !hostReachable t rq.port (leAt b 0 8) 10277 then .fail t stHostAccess
    else
      let m := reportMessage t h i (b.drop 8)
      .okWith (hostWrite (commitIndex t i) rq.port (leAt b 0 8) (m ++ padTo 9893 (Config.attestSignature m i))) (leBytes 8 i))

/-! Identity (R448, R454, R456). -/

def execIdentityGet (rq : MbxReq) (s : State) : Result :=
  mailbox s { code := 0x0102, states := [0, 2, 3], len := some 16, reserved := [(0x09, 0, 24)]
              range := fun b => if 2 ≤ leAt b 8 1 then some 8 else none } rq (fun t b =>
    let obj := if leAt b 8 1 = 0 then Config.spdmChain else Config.attestCert
    if leAt b 0x0C 4 < obj.length then .fail t stBadField 0x0C
    else if !hostReachable t rq.port (leAt b 0 8) obj.length then .fail t stHostAccess
    else .okWith (hostWrite t rq.port (leAt b 0 8) obj) (leBytes 4 obj.length))

/-- INTEGRATOR_ENROLL: once in the part's life, a valid point only (R456, R460). A record die that cannot be written
refuses it (log 30). -/
def execIntegratorEnroll (rq : MbxReq) (s : State) : Result :=
  mailbox s { code := 0x0106, states := [0], len := some 100, reserved := [(0x61, 0, 24)] } rq (fun t b =>
    if (pointOf (b.take 97)).isNone then .fail t stBadField 0
    else if !allZero t.record.integratorKey || !t.record.writable then .fail t stInUse
    else .ok (t.updRecord (fun r => { r with integratorKey := b.take 97 })))

/-! Protection (R424, R443, R445). -/

/-- A PROT_SET whose DEBUG or, with its group named, REGION_BASE breaks its table (R443, R454). -/
def protRange (b : List Byte) : Option Nat :=
  firstSome
    [ failIf (field (leAt b 0 4) 2 2 == 3) 0,
      failIf (bit (leAt b 4 4) 2 && !regionBaseOk (leAt b 8 8)) 8 ]

/-- A change waits for both hubs, an update or another change to end, and room in the store of held entries (R424, R426,
R433). -/
def changeRefused (s : State) : Bool :=
  !bothInService s || rejoinBusy s || protBusy s || s.record.storeFull

/-- The value of a field group: the new one where the mask names it (R445). -/
def pickGroup (mask g m : Nat) (old new : W32) : W32 := (if bit mask g then new else old) &&& BitVec.ofNat 32 m

/-- PROT_SET: the named groups take their values and their locks in one slice; a group locked on either hub makes the
command IN_USE (R445). -/
def execProtSet (rq : MbxReq) (s : State) : Result :=
  mailbox s { code := 0x0103, service := true, len := some 16, reserved := [(0x00, 7, 25), (0x04, 4, 28)]
              range := protRange } rq (fun t b =>
    let mask := field (leAt b 4 4) 0 4
    let h := t.hub t.leadOr0
    if changeRefused t || (t.h0.protLock ||| t.h1.protLock) &&& BitVec.ofNat 32 mask != 0 then .fail t stInUse
    else
      let v := BitVec.ofNat 32 (leAt b 0 4)
      let ctrl := pickGroup mask 0 0x3 h.protCtrl v ||| pickGroup mask 1 0xC h.protCtrl v |||
        pickGroup mask 2 0x10 h.protCtrl v ||| pickGroup mask 3 0x60 h.protCtrl v
      let base := if bit mask 2 then BitVec.ofNat 64 (leAt b 8 8) else h.protRegionBase
      .stay (requestSlice t { kind := .protChange rq.port rq.box ctrl (h.protLock ||| BitVec.ofNat 32 mask) base none }))

/-- REGION_SET rewrites bytes of the region table (R446); with no table base set there is none to rewrite (log 30). -/
def execRegionSet (rq : MbxReq) (s : State) : Result :=
  mailbox s { code := 0x0104, service := true, len := some 12, reserved := [(0x08, 2, 6), (0x09, 0, 24)]
              sizes := [(0x04, 4)]
              range := fun b => if numExtents ≤ leAt b 0 4 then some 0
                else if numExtents < leAt b 0 4 + leAt b 4 4 then some 4 else none } rq (fun t b =>
    let base := (t.hub t.leadOr0).protRegionBase.toNat
    if base = 0 then .fail t stBadState (portDstate t rq.port)
    else .ok (deviceWrite t (base + leAt b 0 4) (List.replicate (leAt b 4 4) (BitVec.ofNat 8 (leAt b 8 1)))))

/-- SVN_COMMIT raises MIN_SVN to the SVN of the running image, never lowers it; both hubs run images of one digest
(R455). -/
def execSvnCommit (rq : MbxReq) (s : State) : Result :=
  mailbox s { code := 0x0105, service := true } rq (fun t _ =>
    let h := t.hub t.leadOr0
    if changeRefused t || t.h0.image.map (·.digest) != t.h1.image.map (·.digest) then .fail t stInUse
    else
      let svn := max t.record.minSvn ((h.image.map (·.svn)).getD 0)
      .stay (requestSlice t { kind := .protChange rq.port rq.box h.protCtrl h.protLock h.protRegionBase (some svn) }))

end Sys2Proof.Machine
end

