-- ==== Sys2Proof/Machine/Dispatch.lean ====
section
/-! DEFINITION. The meaning of each command, one arm per row of the table. -/

namespace Sys2Proof.Machine

open Sys2Proof

def exec (i : Instr) (s : State) : Host.Outcome State Fault Refusal :=
  match i with
  | .getInfo rq => Sys2Proof.Machine.execGetInfo rq s
  | .configLoad rq => Sys2Proof.Machine.execConfigLoad rq s
  | .fwLoad rq => Sys2Proof.Machine.execFwLoad rq s
  | .spdm rq => Sys2Proof.Machine.execSpdm rq s
  | .doeMessage port msg => Sys2Proof.Machine.execDoeMessage port msg s
  | .memGrant rq => Sys2Proof.Machine.execMemGrant rq s
  | .memRelease rq => Sys2Proof.Machine.execMemRelease rq s
  | .copyIn rq => Sys2Proof.Machine.execCopyIn rq s
  | .copyOut rq => Sys2Proof.Machine.execCopyOut rq s
  | .chainLoad rq => Sys2Proof.Machine.execChainLoad rq s
  | .chainUnload rq => Sys2Proof.Machine.execChainUnload rq s
  | .caddyLoad rq => Sys2Proof.Machine.execCaddyLoad rq s
  | .caddyLoadDone caddy => Sys2Proof.Machine.execCaddyLoadDone caddy s
  | .caddyUnload rq => Sys2Proof.Machine.execCaddyUnload rq s
  | .caddyQuery rq => Sys2Proof.Machine.execCaddyQuery rq s
  | .caddyResident caddy => Sys2Proof.Machine.execCaddyResident caddy s
  | .programLoad rq body => Sys2Proof.Machine.execProgramLoad rq body s
  | .programUnload rq => Sys2Proof.Machine.execProgramUnload rq s
  | .jobCreate rq => Sys2Proof.Machine.execJobCreate rq s
  | .jobDestroy rq => Sys2Proof.Machine.execJobDestroy rq s
  | .jobStatus rq => Sys2Proof.Machine.execJobStatus rq s
  | .queueCreate rq => Sys2Proof.Machine.execQueueCreate rq s
  | .queueSet rq => Sys2Proof.Machine.execQueueSet rq s
  | .queueCancel rq => Sys2Proof.Machine.execQueueCancel rq s
  | .queueResume rq => Sys2Proof.Machine.execQueueResume rq s
  | .queueReset rq => Sys2Proof.Machine.execQueueReset rq s
  | .queueDestroy rq => Sys2Proof.Machine.execQueueDestroy rq s
  | .queueRehome rq => Sys2Proof.Machine.execQueueRehome rq s
  | .eventRingSet rq => Sys2Proof.Machine.execEventRingSet rq s
  | .rebuildShare rq => Sys2Proof.Machine.execRebuildShare rq s
  | .fabEnum rq tree => Sys2Proof.Machine.execFabEnum rq tree s
  | .fabStatus rq answer => Sys2Proof.Machine.execFabStatus rq answer s
  | .fabForward rq answer => Sys2Proof.Machine.execFabForward rq answer s
  | .fabEvents rq drained => Sys2Proof.Machine.execFabEvents rq drained s
  | .fabDoorbell rq => Sys2Proof.Machine.execFabDoorbell rq s
  | .fabLaunch rq late => Sys2Proof.Machine.execFabLaunch rq late s
  | .launchDoorbellApply queue => Sys2Proof.Machine.execLaunchDoorbellApply queue s
  | .fabLink rq answers => Sys2Proof.Machine.execFabLink rq answers s
  | .fabPair rq => Sys2Proof.Machine.execFabPair rq s
  | .fabSeal rq => Sys2Proof.Machine.execFabSeal rq s
  | .svcStatus rq => Sys2Proof.Machine.execSvcStatus rq s
  | .coreRetire rq => Sys2Proof.Machine.execCoreRetire rq s
  | .coreTest rq => Sys2Proof.Machine.execCoreTest rq s
  | .coreInfo rq => Sys2Proof.Machine.execCoreInfo rq s
  | .dieDown rq => Sys2Proof.Machine.execDieDown rq s
  | .dieUp rq => Sys2Proof.Machine.execDieUp rq s
  | .hubSwap rq => Sys2Proof.Machine.execHubSwap rq s
  | .hubRejoin rq => Sys2Proof.Machine.execHubRejoin rq s
  | .hubRejoinDone hub => Sys2Proof.Machine.execHubRejoinDone hub s
  | .firmwareActivation => Sys2Proof.Machine.execFirmwareActivation s
  | .bboxInfo rq => Sys2Proof.Machine.execBboxInfo rq s
  | .bboxRead rq => Sys2Proof.Machine.execBboxRead rq s
  | .bootImage rq => Sys2Proof.Machine.execBootImage rq s
  | .attest rq => Sys2Proof.Machine.execAttest rq s
  | .identityGet rq => Sys2Proof.Machine.execIdentityGet rq s
  | .protSet rq => Sys2Proof.Machine.execProtSet rq s
  | .regionSet rq => Sys2Proof.Machine.execRegionSet rq s
  | .svnCommit rq => Sys2Proof.Machine.execSvnCommit rq s
  | .integratorEnroll rq => Sys2Proof.Machine.execIntegratorEnroll rq s
  | .mbxAck port value => Sys2Proof.Machine.execMbxAck port value s
  | .sqTail port queue value => Sys2Proof.Machine.execSqTail port queue value s
  | .cqHead port queue value => Sys2Proof.Machine.execCqHead port queue value s
  | .evtHead port value => Sys2Proof.Machine.execEvtHead port value s
  | .pwrCap port value => Sys2Proof.Machine.execPwrCap port value s
  | .farWindow port value => Sys2Proof.Machine.execFarWindow port value s
  | .bar2Read port offset length => Sys2Proof.Machine.execBar2Read port offset length s
  | .bar2Write port offset data => Sys2Proof.Machine.execBar2Write port offset data s
  | .gcountLowRead port => Sys2Proof.Machine.execGcountLowRead port s
  | .gcountHighRead port => Sys2Proof.Machine.execGcountHighRead port s
  | .registerWrite path offset data => Sys2Proof.Machine.execRegisterWrite path offset data s
  | .cfgData hub value => Sys2Proof.Machine.execCfgData hub value s
  | .cfgPtr hub value => Sys2Proof.Machine.execCfgPtr hub value s
  | .go hub value => Sys2Proof.Machine.execGo hub value s
  | .add queue => Sys2Proof.Machine.execAdd queue s
  | .sub queue => Sys2Proof.Machine.execSub queue s
  | .neg queue => Sys2Proof.Machine.execNeg queue s
  | .mulPt queue => Sys2Proof.Machine.execMulPt queue s
  | .mulCt queue => Sys2Proof.Machine.execMulCt queue s
  | .relin queue => Sys2Proof.Machine.execRelin queue s
  | .rotate queue => Sys2Proof.Machine.execRotate queue s
  | .conjugate queue => Sys2Proof.Machine.execConjugate queue s
  | .linear queue => Sys2Proof.Machine.execLinear queue s
  | .rescale queue => Sys2Proof.Machine.execRescale queue s
  | .levelDrop queue => Sys2Proof.Machine.execLevelDrop queue s
  | .nttFwd queue => Sys2Proof.Machine.execNttFwd queue s
  | .nttInv queue => Sys2Proof.Machine.execNttInv queue s
  | .matmul queue => Sys2Proof.Machine.execMatmul queue s
  | .map queue => Sys2Proof.Machine.execMap queue s
  | .gather queue => Sys2Proof.Machine.execGather queue s
  | .scatter queue => Sys2Proof.Machine.execScatter queue s
  | .scatterAdd queue => Sys2Proof.Machine.execScatterAdd queue s
  | .copy queue => Sys2Proof.Machine.execCopy queue s
  | .remoteAdd queue => Sys2Proof.Machine.execRemoteAdd queue s
  | .bootstrap queue => Sys2Proof.Machine.execBootstrap queue s
  | .switchOut queue => Sys2Proof.Machine.execSwitchOut queue s
  | .lut queue => Sys2Proof.Machine.execLut queue s
  | .repack queue => Sys2Proof.Machine.execRepack queue s
  | .exportOp queue => Sys2Proof.Machine.execExportOp queue s
  | .flagSet queue => Sys2Proof.Machine.execFlagSet queue s
  | .flagWait queue => Sys2Proof.Machine.execFlagWait queue s
  | .nop queue => Sys2Proof.Machine.execNop queue s
  | .boundaryCommand queue => Sys2Proof.Machine.execBoundaryCommand queue s
  | .taskPlace core => Sys2Proof.Machine.execTaskPlace core s
  | .claim core queue serial phase => Sys2Proof.Machine.execClaim core queue serial phase s
  | .taskComplete core slot => Sys2Proof.Machine.execTaskComplete core slot s
  | .passNotice core handle claim => Sys2Proof.Machine.execPassNotice core handle claim s
  | .nttFwdInstruction core => Sys2Proof.Machine.execNttFwdInstruction core s
  | .nttInvInstruction core => Sys2Proof.Machine.execNttInvInstruction core s
  | .mxaMatmul core => Sys2Proof.Machine.execMxaMatmul core s
  | .inner core => Sys2Proof.Machine.execInner core s
  | .bconvFast core => Sys2Proof.Machine.execBconvFast core s
  | .bconvExact core => Sys2Proof.Machine.execBconvExact core s
  | .vxeChain core => Sys2Proof.Machine.execVxeChain core s
  | .dma core => Sys2Proof.Machine.execDma core s
  | .dmaTransferStart core pq => Sys2Proof.Machine.execDmaTransferStart core pq s
  | .fold core => Sys2Proof.Machine.execFold core s
  | .foldApply core handle => Sys2Proof.Machine.execFoldApply core handle s
  | .signal core => Sys2Proof.Machine.execSignal core s
  | .wait core => Sys2Proof.Machine.execWait core s
  | .fenceSlot core => Sys2Proof.Machine.execFenceSlot core s
  | .fenceKey core => Sys2Proof.Machine.execFenceKey core s
  | .scalarInstruction core => Sys2Proof.Machine.execScalarInstruction core s
  | .instructionComplete core id => Sys2Proof.Machine.execInstructionComplete core id s
  | .eventTimeout core slot => Sys2Proof.Machine.execEventTimeout core slot s
  | .accumulatorCommit queue serial => Sys2Proof.Machine.execAccumulatorCommit queue serial s
  | .commandComplete queue serial => Sys2Proof.Machine.execCommandComplete queue serial s
  | .completionRecordPost queue => Sys2Proof.Machine.execCompletionRecordPost queue s
  | .commandAbort queue serial cls => Sys2Proof.Machine.execCommandAbort queue serial cls s
  | .pieceSend hub => Sys2Proof.Machine.execPieceSend hub s
  | .pieceArrive die piece => Sys2Proof.Machine.execPieceArrive die piece s
  | .pieceReady die piece => Sys2Proof.Machine.execPieceReady die piece s
  | .fadd64 op value => Sys2Proof.Machine.execFadd64 op value s
  | .set64 address value => Sys2Proof.Machine.execSet64 address value s
  | .watch64 address threshold queue => Sys2Proof.Machine.execWatch64 address threshold queue s
  | .unwatch stack number => Sys2Proof.Machine.execUnwatch stack number s
  | .watchAnswer stack number => Sys2Proof.Machine.execWatchAnswer stack number s
  | .watchPoll queue => Sys2Proof.Machine.execWatchPoll queue s
  | .flagWaitTimeout queue => Sys2Proof.Machine.execFlagWaitTimeout queue s
  | .farBlockRead block errors misread => Sys2Proof.Machine.execFarBlockRead block errors misread s
  | .farBlockWrite block offset data => Sys2Proof.Machine.execFarBlockWrite block offset data s
  | .parityDelta index => Sys2Proof.Machine.execParityDelta index s
  | .scrub block errors => Sys2Proof.Machine.execScrub block errors s
  | .accumulatePacket packet => Sys2Proof.Machine.execAccumulatePacket packet s
  | .mergeHdr packet => Sys2Proof.Machine.execMergeHdr packet s
  | .accumulateAnswer answer => Sys2Proof.Machine.execAccumulateAnswer answer s
  | .packetResendTimeout die rjob stack seq => Sys2Proof.Machine.execPacketResendTimeout die rjob stack seq s
  | .beatError beat => Sys2Proof.Machine.execBeatError beat s
  | .laneFault physical engine => Sys2Proof.Machine.execLaneFault physical engine s
  | .coreFault physical => Sys2Proof.Machine.execCoreFault physical s
  | .coreFenceDone physical => Sys2Proof.Machine.execCoreFenceDone physical s
  | .coreSelfTestStart die => Sys2Proof.Machine.execCoreSelfTestStart die s
  | .coreSelfTestDone die pass => Sys2Proof.Machine.execCoreSelfTestDone die pass s
  | .dieCtrlRestart die => Sys2Proof.Machine.execDieCtrlRestart die s
  | .dieLost die => Sys2Proof.Machine.execDieLost die s
  | .islandLost die => Sys2Proof.Machine.execIslandLost die s
  | .farStackLost stack => Sys2Proof.Machine.execFarStackLost stack s
  | .rebuildRowMove group => Sys2Proof.Machine.execRebuildRowMove group s
  | .nearStackLost stack => Sys2Proof.Machine.execNearStackLost stack s
  | .nearReplacementDone => Sys2Proof.Machine.execNearReplacementDone s
  | .selfRefreshEntry stack => Sys2Proof.Machine.execSelfRefreshEntry stack s
  | .hubFault hub => Sys2Proof.Machine.execHubFault hub s
  | .heartbeatTimeout hub => Sys2Proof.Machine.execHeartbeatTimeout hub s
  | .sliceAbandon => Sys2Proof.Machine.execSliceAbandon s
  | .recordFault => Sys2Proof.Machine.execRecordFault s
  | .recordRecovered => Sys2Proof.Machine.execRecordRecovered s
  | .pmbAlert phases reading => Sys2Proof.Machine.execPmbAlert phases reading s
  | .portDown port => Sys2Proof.Machine.execPortDown port s
  | .portUp link => Sys2Proof.Machine.execPortUp link s
  | .perst port => Sys2Proof.Machine.execPerst port s
  | .flitReceive worgon flit => Sys2Proof.Machine.execFlitReceive worgon flit s
  | .linkLaneFail worgon lane => Sys2Proof.Machine.execLinkLaneFail worgon lane s
  | .laneRetrainDone worgon pass => Sys2Proof.Machine.execLaneRetrainDone worgon pass s
  | .gcountSync t1 t2 t3 t4 => Sys2Proof.Machine.execGcountSync t1 t2 t3 t4 s
  | .workerLossTimeout device => Sys2Proof.Machine.execWorkerLossTimeout device s
  | .workerRefusal enumerating => Sys2Proof.Machine.execWorkerRefusal enumerating s
  | .comparisonRecord job serial block bcheck => Sys2Proof.Machine.execComparisonRecord job serial block bcheck s
  | .peerLinkTimeout job => Sys2Proof.Machine.execPeerLinkTimeout job s
  | .porAssert hub => Sys2Proof.Machine.execPorAssert hub s
  | .porRelease hub strap railsOk sris => Sys2Proof.Machine.execPorRelease hub strap railsOk sris s
  | .railSettle hub => Sys2Proof.Machine.execRailSettle hub s
  | .hrst hub => Sys2Proof.Machine.execHrst hub s
  | .pwrfail => Sys2Proof.Machine.execPwrfail s
  | .leadAbsentTimeout => Sys2Proof.Machine.execLeadAbsentTimeout s
  | .imageOffer hub source image => Sys2Proof.Machine.execImageOffer hub source image s
  | .imageVerified hub => Sys2Proof.Machine.execImageVerified hub s
  | .hubJoin => Sys2Proof.Machine.execHubJoin s
  | .joinTimeout => Sys2Proof.Machine.execJoinTimeout s
  | .computePowerUpStep railsOk failed => Sys2Proof.Machine.execComputePowerUpStep railsOk failed s
  | .sensorSample sensor reading => Sys2Proof.Machine.execSensorSample sensor reading s
  | .thermalStep die => Sys2Proof.Machine.execThermalStep die s
  | .powerStep watts amps => Sys2Proof.Machine.execPowerStep watts amps s
  | .sleepTimeout physical => Sys2Proof.Machine.execSleepTimeout physical s
  | .pllLock physical => Sys2Proof.Machine.execPllLock physical s
  | .runEntry die => Sys2Proof.Machine.execRunEntry die s
  | .runExit die => Sys2Proof.Machine.execRunExit die s
  | .networkClockGate die => Sys2Proof.Machine.execNetworkClockGate die s
  | .interruptingSliceStart => Sys2Proof.Machine.execInterruptingSliceStart s
  | .worgonPortTrained worgon => Sys2Proof.Machine.execWorgonPortTrained worgon s
  | .debugPortHalt hub step => Sys2Proof.Machine.execDebugPortHalt hub step s

end Sys2Proof.Machine
end

