-- ==== Sys2Proof/Safety.lean ====
section
/-! DEFINITION. What the statements are said in: a sound state, a request that its mailbox takes and that passes every
check, an entry that its queue dispatches, and a state in which a bare device takes commands. -/

namespace Sys2Proof

open Sys2Proof.Machine

/-- Every sparse memory of the state has the canonical form. -/
def memoriesWf (s : State) : Bool :=
  s.far.mem.wf && s.far.parity.wf && s.pa.hostMem.wf && s.pb.hostMem.wf && s.pa.reqPages.wf && s.pb.reqPages.wf &&
    s.cores.all (fun c => c.2.scratch.wf)

/-- The registers of a port take writes: its link is up, firmware runs on its hub, the hub is neither out of service nor of another
configuration than the lead, and a port that requires IDE has a stream (R346, R441, R442, R447, R505). -/
def Responds (s : State) (p : Port) : Prop :=
  (s.port p).linkUp = true ∧ (s.hub p.hub).phase ≠ .obtain ∧ (s.hub p.hub).phase ≠ .verify ∧ (s.hub p.hub).phase ≠ .out ∧
    (s.hub p.hub).svc ≠ .out ∧ (s.hub p.hub).svc ≠ .mismatch ∧ (bit (s.hub p.hub).protCtrl.toNat (5 + p.num) = false ∨ (s.port p).ide = true)

/-- The regions past the first and BAR2 respond too: the port is not in CONFIG_WAIT (R317, R441). -/
def RegionsRespond (s : State) (p : Port) : Prop := Responds s p ∧ portDstate s p ≠ 0

/-- The state once the lead has taken a request: its mailbox is BUSY with it (R320, R323). -/
def takenBy (s : State) (code : Nat) (rq : MbxReq) : State :=
  setMailbox s rq.port rq.box { st := .busy, req := some (code, rq) }

/-- A request that is rung, taken and passes every check of R322: the port reaches the device, the mailbox is FREE, no
earlier request waits, the hub serves its mailboxes and no takeover is due. -/
def accepted (s : State) (spec : CmdSpec) (rq : MbxReq) : Bool :=
  decide (rq.box < 64) && reaches s rq.port && (getMailbox s rq.port rq.box).st == .free && s.dev.mbxOrder.isEmpty &&
    servesMailboxes s (checkPort s rq.port) && !takeoverDue s && (checkRequest (takenBy s spec.code rq) spec rq).isNone

/-- The mailbox commands: what R322 checks of each (the tables of R324, R428 and R454), and its request. -/
def mbxRow : Instr → Option (CmdSpec × MbxReq)
  | .getInfo rq => some (getInfoSpec, rq)
  | .configLoad rq => some ({ loadSpec 0x0002 with states := [0] }, rq)
  | .fwLoad rq => some ({ loadSpec 0x0003 with
      service := true, range := fun b => if 0x4000000 < leAt b 8 6 then some 8 else none }, rq)
  | .spdm rq => some (spdmSpec, rq)
  | .memGrant rq => some (grantSpec 0x0010, rq)
  | .memRelease rq => some (grantSpec 0x0011, rq)
  | .copyIn rq => some (copySpec 0x0012, rq)
  | .copyOut rq => some (copySpec 0x0013, rq)
  | .chainLoad rq => some (loadSpec 0x0020, rq)
  | .chainUnload rq => some (nameSpec 0x0021, rq)
  | .caddyLoad rq => some (loadSpec 0x0022, rq)
  | .caddyUnload rq => some (nameSpec 0x0023, rq)
  | .caddyQuery rq => some (nameSpec 0x0024, rq)
  | .programLoad rq _ => some (loadSpec 0x0028, rq)
  | .programUnload rq => some (nameSpec 0x0029, rq)
  | .jobCreate rq => some ({ code := 0x0030, len := some 0x58 }, rq)
  | .jobDestroy rq => some (nameSpec 0x0031, rq)
  | .jobStatus rq => some (nameSpec 0x0032, rq)
  | .queueCreate rq => some (queueCreateSpec, rq)
  | .queueSet rq => some (queueSetSpec, rq)
  | .queueCancel rq => some (nameSpec 0x0042, rq)
  | .queueResume rq => some (nameSpec 0x0043, rq)
  | .queueReset rq => some (nameSpec 0x0044, rq)
  | .queueDestroy rq => some (nameSpec 0x0045, rq)
  | .queueRehome rq => some (queueRehomeSpec, rq)
  | .eventRingSet rq => some (eventRingSpec, rq)
  | .rebuildShare rq => some (rebuildShareSpec, rq)
  | .fabEnum rq _ => some ({ code := 0x0080 }, rq)
  | .fabStatus rq _ => some (deviceSpec 0x0081, rq)
  | .fabForward rq _ => some ({ code := 0x0082, len := none, reserved := [(0x01, 0, 248)], fits := forwardRange }, rq)
  | .fabEvents rq _ => some (deviceSpec 0x0083, rq)
  | .fabDoorbell rq => some ({ code := 0x0084, len := some 16, reserved := [(0x01, 0, 8), (0x04, 0, 32)] }, rq)
  | .fabLaunch rq _ => some ({ code := 0x0085, len := none, reserved := [(0x0A, 0, 48)], fits := launchFits, sizes := [(0x08, 2)]
                               range := fun b => if 253 < leAt b 8 2 then some 0x08 else none }, rq)
  | .fabLink rq _ => some ({ code := 0x0086, len := none, reserved := [(0x02, 0, 16)], fits := linkFits, sizes := [(0x01, 1)] }, rq)
  | .fabPair rq => some ({ code := 0x0087, len := some 8, reserved := [(0x04, 4, 28)] }, rq)
  | .fabSeal rq => some (deviceSpec 0x0088, rq)
  | .svcStatus rq => some ({ code := 0x00C0 }, rq)
  | .coreRetire rq => some (coreSpec 0x00C1 true, rq)
  | .coreTest rq => some (coreSpec 0x00C2 true, rq)
  | .coreInfo rq => some (coreSpec 0x00C3 false, rq)
  | .dieDown rq => some (dieSpec 0x00C4, rq)
  | .dieUp rq => some (dieSpec 0x00C5, rq)
  | .hubSwap rq => some ({ code := 0x00C6, service := true }, rq)
  | .hubRejoin rq => some ({ code := 0x00C7, service := true, len := some 16, reserved := [(0x0C, 1, 31)]
                             sizes := [(0x08, 4)]
                             range := fun b => if 0x4000000 < leAt b 8 4 then some 8 else none }, rq)
  | .bboxInfo rq => some (recordSpec 0x00C8, rq)
  | .bboxRead rq => some ({ recordSpec 0x00C9 with
      len := some 16, reserved := [(0x09, 0, 56)], sizes := [(0x08, 1)]
      range := fun b => if 31 < leAt b 8 1 then some 8 else none }, rq)
  | .bootImage rq => some ({ code := 0x0100, states := [1], len := some 16, reserved := [(0x0C, 0, 32)]
                             sizes := [(0x08, 4)] }, rq)
  | .attest rq => some ({ code := 0x0101, states := [0, 2, 3], len := some 40 }, rq)
  | .identityGet rq => some ({ code := 0x0102, states := [0, 2, 3], len := some 16, reserved := [(0x09, 0, 24)]
                               range := fun b => if 2 ≤ leAt b 8 1 then some 8 else none }, rq)
  | .protSet rq => some ({ code := 0x0103, service := true, len := some 16, reserved := [(0x00, 7, 25), (0x04, 4, 28)]
                           range := protRange }, rq)
  | .regionSet rq => some ({ code := 0x0104, service := true, len := some 12, reserved := [(0x08, 2, 6), (0x09, 0, 24)]
                             sizes := [(0x04, 4)]
                             range := fun b => if numExtents ≤ leAt b 0 4 then some 0
                               else if numExtents < leAt b 0 4 + leAt b 4 4 then some 4 else none }, rq)
  | .svnCommit rq => some ({ code := 0x0105, service := true }, rq)
  | .integratorEnroll rq => some ({ code := 0x0106, states := [0], len := some 100, reserved := [(0x61, 0, 24)] }, rq)
  | _ => none

/-- A mailbox command that is rung, taken and passes every check of R322. -/
def accepts (s : State) (i : Instr) : Bool :=
  match mbxRow i with
  | some (spec, rq) => accepted s spec rq
  | none => false

/-- The operations (R208): the queue a row names, its opcode, and what it does with the operands of one command. -/
def opEffect : Instr → Option (Nat × Nat × (OpRun → State → State))
  | .add q => some (q, opAdd, runObjects wantResult neverRaw (zipPoly limbAdd))
  | .sub q => some (q, opSub, runObjects wantResult neverRaw (zipPoly limbSub))
  | .neg q => some (q, opNeg, runObjects wantResult neverRaw negPoly)
  | .mulPt q => some (q, opMulPt, runObjects wantResult neverRaw mulPtPoly)
  | .mulCt q => some (q, opMulCt, runObjects wantResult neverRaw mulCtPoly)
  | .relin q => some (q, opRelin, withKeys keyedRun)
  | .rotate q => some (q, opRotate, withKeys keyedRun)
  | .conjugate q => some (q, opConjugate, withKeys keyedRun)
  | .linear q => some (q, opLinear, withKeys linearRun)
  | .rescale q => some (q, opRescale, rescaleRun)
  | .levelDrop q => some (q, opLevelDrop, runObjects wantResult neverRaw keepPoly)
  | .nttFwd q => some (q, opNttFwd, runObjects wantResult lweOperand (nttObject nttForward))
  | .nttInv q => some (q, opNttInv, runObjects wantResult lweOperand (nttObject nttInverse))
  | .matmul q => some (q, opMatmul, matmulOp)
  | .map q => some (q, opMap, mapRun)
  | .gather q => some (q, opGather, indexedRun)
  | .scatter q => some (q, opScatter, indexedRun)
  | .scatterAdd q => some (q, opScatterAdd, scatterAddRun)
  | .copy q => some (q, opCopy, copyRun)
  | .remoteAdd q => some (q, opRemoteAdd, remoteRun)
  | .bootstrap q => some (q, opBootstrap, withKeys (fun r => forItems r [0, 1] (presetItem r 13 6 bootstrapCauses bootstrapPoly)))
  | .switchOut q => some (q, opSwitchOut, withKeys (fun r => forItems r [0, 1] (switchOutItem r)))
  | .lut q => some (q, opLut, withKeys (fun r => forItems r [0, 1, 2] (lutItem r)))
  | .repack q => some (q, opRepack, withKeys (fun r => forItems r [0, 1] (presetItem r 14 2 marginExceeded repackPoly)))
  | .exportOp q => some (q, opExport, runObjects wantResult neverRaw keepPoly)
  | _ => none

/-- The run of a served RUN as it is dispatched: the state with the command begun, and the operation as it sees it. -/
def dispatched (s : State) (q : Queue) (c : Cmd) (j : Job) (p : Program) (e : Entry) (b : BodyEntry) : State × OpRun :=
  (beginCmd s q j, opRunOf (beginCmd s q j) q j c p e b j.nextSerial.toNat)

/-- The rows that issue an instruction to an engine or to the movers (R57): the core, and the instructions it issues. -/
def issueKind : Instr → Option (Nat × (CoreInstr → Bool))
  | .nttFwdInstruction c => some (c, fun i => match i with | .nttFwd _ => true | _ => false)
  | .nttInvInstruction c => some (c, fun i => match i with | .nttInv _ => true | _ => false)
  | .mxaMatmul c => some (c, fun i => match i with | .matmul _ => true | _ => false)
  | .inner c => some (c, fun i => match i with | .inner _ => true | _ => false)
  | .bconvFast c => some (c, fun i => match i with | .bconvFast _ => true | _ => false)
  | .bconvExact c => some (c, fun i => match i with | .bconvExact _ => true | _ => false)
  | .vxeChain c => some (c, fun i => match i with | .vxe _ => true | _ => false)
  | .dma c => some (c, fun i => match i with | .dma _ => true | _ => false)
  | _ => none

/-- The instruction a core issues next, with its slot and task (R58, R63, R64). -/
def issuing (s : State) (core : Nat) : Option (Nat × Task × CoreInstr) :=
  if core < 512 ∧ issues s core = true then
    (issueSlot s core).bind (fun slot =>
      (tabGet? (s.core core).slots slot).bind (fun t => (nextInstr t).map (fun i => (slot, t, i))))
  else none

/-- A bare device that takes commands: H0 leads and has joined, port A's link is up. -/
def bareState : State :=
  { dev := { lead := some .h0, dstate := 2, noLeadSince := none, ready := true }
    h0 := { phase := .joined, svc := .inService, powerUp := false }
    h1 := { phase := .joined, svc := .inService, powerUp := false }
    pa := { linkUp := true, wasUp := true } }

end Sys2Proof
end

