-- ==== Sys2Proof/Certificates/Slice0/Obligations.lean ====
section
/-! DEFINITION. The statements for the provers. -/

open Sys2Proof Sys2Proof.Machine

/-- A step takes the command at the front of the queue and runs its meaning with the rest of the queue. (00_scope.md,
  95_what_each_step_holds.md). -/
def Obligations.StepRunsFrontCommand : Prop :=
  ∀ (c : Instr) (r : List Instr) (s : State), s.pending = c :: r → step s = exec c { s with pending := r }

/-- On an empty queue a step is one 10 ns tick: GCOUNT advances by 1 and its bignum engine by 10 cycles on a counting
  hub, AON time by 1 (log 10). (14_fabric.md: R368, 20_registers.md: R506). -/
def Obligations.EmptyQueueTicksTheClock : Prop :=
  ∀ s : State, s.pending = [] → slewNow s = false →
    step s = .next { s with
      h0 := if s.h0.counting then { s.h0 with gcount := s.h0.gcount + 1, big := s.h0.big.run 10 } else s.h0
      h1 := if s.h1.counting then { s.h1 with gcount := s.h1.gcount + 1, big := s.h1.big.run 10 } else s.h1
      record := { s.record with aonTicks := s.record.aonTicks + 1 } }

/-- A doorbell on a BUSY or DONE mailbox is ignored, for every mailbox command. (13_host.md: R321). -/
def Obligations.DoorbellOnBusyOrDoneMailboxIgnored : Prop :=
  ∀ (i : Instr) (spec : CmdSpec) (rq : MbxReq) (s : State), mbxRow i = some (spec, rq) → rq.box < 64 →
    reaches s rq.port = true →
    ((getMailbox s rq.port rq.box).st = .busy ∨ (getMailbox s rq.port rq.box).st = .done) →
    exec i s = .next s

/-- A mailbox command that fails a check of R322 answers that status and changes nothing but its mailbox and its
  event. (13_host.md: R322). -/
def Obligations.FailedCheckAnswersAndChangesNothingElse : Prop :=
  ∀ (i : Instr) (spec : CmdSpec) (rq : MbxReq) (s : State) (status detail : Nat), mbxRow i = some (spec, rq) →
    rq.box < 64 → reaches s rq.port = true → (getMailbox s rq.port rq.box).st = .free → s.dev.mbxOrder = [] →
    servesMailboxes s (checkPort s rq.port) = true → takeoverDue s = false →
    checkRequest (takenBy s spec.code rq) spec rq = some (status, detail) →
    exec i s = .next { respondAs (takenBy s spec.code rq) spec.code rq status detail [] with freeCtr := s.freeCtr + 1 }

/-- GET_INFO, SVC_STATUS, CORE_INFO, JOB_STATUS and CADDY_QUERY complete with OK, the body their tables give, and no
  other effect. (13_host.md: R324, 16_service.md: R428). -/
def Obligations.QueriesAnswerWithTheBodyTheTablesGive : Prop :=
  (∀ (rq : MbxReq) (s : State), accepts s (.getInfo rq) = true →
    exec (.getInfo rq) s = .next (respondAs s 0x0001 rq stOk 0
      (leBytes 2 0x0100 ++ leBytes 1 (portDstate s rq.port) ++
        leBytes 1 (s.dev.role.val + (if s.dev.lead = some rq.port.hub then 4 else 0)) ++
        leBytes 2 ((List.range 512).filter (coreInService s)).length ++ leBytes 2 0 ++ leBytes 8 s.now.toNat ++
        leBytes 8 (octetBits ((List.range 64).filter (octetFree s))) ++ leBytes 4 (9152 - s.far.owners.length)))) ∧
  (∀ (rq : MbxReq) (s : State), accepts s (.svcStatus rq) = true →
    exec (.svcStatus rq) s = .next (respondAs s 0x00C0 rq stOk 0
      (leBytes 1 (s.h0.svc.code + 4 * s.h1.svc.code + (if s.dev.lead = some .h1 then 16 else 0)) ++
        leBytes 1 (s.far.g0.st.code + 4 * s.far.g1.st.code) ++ leBytes 1 (octetBits (nearStacks s)) ++
        leBytes 1 (octetBits ((List.range 8).filter (fun d => (s.die d).powered))) ++
        (List.range 8).flatMap (fun d =>
          leBytes 1 (((List.range 72).filter (fun k => (s.physCore (72 * d + k)).st == .spare)).length)) ++
        zeros 4 ++ digestBytes (((s.hub s.leadOr0).image.map (·.digest)).getD 0)))) ∧
  (∀ (rq : MbxReq) (s : State), accepts s (.coreInfo rq) = true →
    exec (.coreInfo rq) s = .next (respondAs s 0x00C3 rq stOk 0
      (leBytes 1 (s.physCore (leAt (bodyOf rq) 0 2)).st.code ++
        leBytes 1 (s.physCore (leAt (bodyOf rq) 0 2)).retirements ++
        leBytes 2 ((s.physCore (leAt (bodyOf rq) 0 2)).logical.getD 0xFFFF)))) ∧
  (∀ (rq : MbxReq) (s : State) (j : Job), accepts s (.jobStatus rq) = true → findJob s (leAt (bodyOf rq) 0 2) = some j →
    exec (.jobStatus rq) s = .next (respondAs s 0x0032 rq stOk 0
      (leBytes 2 j.id ++ leBytes 2 ((if j.diverged then 1 else 0) + (if j.fpLapsed then 2 else 0)) ++
        leBytes 4 j.nextSerial.toNat ++ j.counters.flatMap (fun c => leBytes 4 c.toNat) ++ leBytes 4 j.bounds.toNat ++
        leBytes 4 j.dataLoss.toNat ++ leBytes 8 (octetBits j.octets) ++ zeros 16))) ∧
  (∀ (rq : MbxReq) (s : State) (c : Caddy), accepts s (.caddyQuery rq) = true →
    findCaddy s (leAt (bodyOf rq) 0 2) = some c → c.st ≠ .loading →
    exec (.caddyQuery rq) s = .next (respondAs s 0x0024 rq stOk 0
      (leBytes 1 c.st.code ++ leBytes 1 0 ++ leBytes 2 c.chainId ++
        leBytes 2 (s.tab.jobs.filter (fun j => j.binds.contains c.index)).length ++ leBytes 2 0 ++
        leBytes 8 c.tag.toNat ++ leBytes 6 c.imageLen ++ leBytes 2 0)))

/-- BBOX_INFO and BBOX_READ complete with OK: sequence numbers, counts and whole entries in ascending SEQ, held ones
  too. (16_service.md: R434, 16_service.md: R433). -/
def Obligations.BlackBoxQueriesAnswerFromTheLog : Prop :=
  (∀ (rq : MbxReq) (s : State) (e : LogEntry) (r : List LogEntry), accepts s (.bboxInfo rq) = true → s.record.log = e :: r →
    exec (.bboxInfo rq) s = .next (respondAs s 0x00C8 rq stOk 0
      (leBytes 8 e.seq ++ leBytes 8 s.record.nextSeq ++ leBytes 4 s.record.held.length ++ leBytes 4 s.record.dropped ++
        leBytes 4 (if s.record.writable then 1 else 0)))) ∧
  (∀ (rq : MbxReq) (s : State), accepts s (.bboxInfo rq) = true → s.record.log = [] →
    exec (.bboxInfo rq) s = .next (respondAs { s with freeCtr := s.freeCtr + 2 } 0x00C8 rq stOk 0
      ((freeBytes s 8).1 ++ leBytes 8 s.record.nextSeq ++ leBytes 4 s.record.held.length ++
        leBytes 4 s.record.dropped ++ leBytes 4 (if s.record.writable then 1 else 0)))) ∧
  (∀ (rq : MbxReq) (s : State) (es : List LogEntry) (e : LogEntry), accepts s (.bboxRead rq) = true →
    es = ((sortBy (·.seq) (s.record.log ++ s.record.held)).filter
      (fun e => decide (leAt (bodyOf rq) 0 8 ≤ e.seq))).take (leAt (bodyOf rq) 8 1) →
    es.getLast? = some e →
    exec (.bboxRead rq) s = .next (respondAs s 0x00C9 rq stOk 0
      (leBytes 1 es.length ++ zeros 7 ++ leBytes 8 (e.seq + 1) ++ es.flatMap LogEntry.bytes))) ∧
  (∀ (rq : MbxReq) (s : State), accepts s (.bboxRead rq) = true →
    (s.record.log ++ s.record.held).all (fun e => decide (e.seq < leAt (bodyOf rq) 0 8)) = true →
    exec (.bboxRead rq) s = .next (respondAs { s with freeCtr := s.freeCtr + 2 } 0x00C9 rq stOk 0
      (leBytes 1 0 ++ zeros 7 ++ (freeBytes s 8).1)))

/-- MEM_GRANT and MEM_RELEASE complete with OK: exactly the named extents change owner, the tags of their blocks
  become NEVER, nothing else. (13_host.md: R326, 12_memory.md: R299, 12_memory.md: R297). -/
def Obligations.MemGrantAndReleaseMoveWholeRanges : Prop :=
  (∀ (rq : MbxReq) (s : State), accepts s (.memGrant rq) = true →
    (leAt (bodyOf rq) 0 2 = 0xFFFF ∨ (findJob s (leAt (bodyOf rq) 0 2)).isSome = true) →
    (∀ e ∈ extentRange (bodyOf rq), tabGet? s.far.owners e = none) →
    exec (.memGrant rq) s = .next (respondAs { s with far := { s.far with
      tags := s.far.tags.filter (fun t => !(extentRange (bodyOf rq)).contains (t.1 * 4096 / 0x4000000))
      owners := (extentRange (bodyOf rq)).foldl (fun o e => tabSet o e (leAt (bodyOf rq) 0 2)) s.far.owners } }
      0x0010 rq stOk 0 [])) ∧
  (∀ (rq : MbxReq) (s : State), accepts s (.memRelease rq) = true →
    (leAt (bodyOf rq) 0 2 = 0xFFFF ∨ (findJob s (leAt (bodyOf rq) 0 2)).isSome = true) →
    (∀ e ∈ extentRange (bodyOf rq), tabGet? s.far.owners e = some (leAt (bodyOf rq) 0 2)) →
    releaseBusy s (leAt (bodyOf rq) 0 2) (extentRange (bodyOf rq)) = false →
    exec (.memRelease rq) s = .next (respondAs { s with far := { s.far with
      tags := s.far.tags.filter (fun t => !(extentRange (bodyOf rq)).contains (t.1 * 4096 / 0x4000000))
      owners := s.far.owners.filter (fun o => !(extentRange (bodyOf rq)).contains o.1) } } 0x0011 rq stOk 0 []))

/-- COPY_IN writes the host bytes to permitted granted far memory, COPY_OUT the far bytes to host memory, and both
  complete with OK. (13_host.md: R326, 13_host.md: R319, 12_memory.md: R298, 12_memory.md: R312, 17_security.md: R446,
  14_fabric.md: R360). -/
def Obligations.CopiesMoveBytesBetweenHostAndFarMemory : Prop :=
  (∀ (rq : MbxReq) (s : State) (host addr len : Nat), accepts s (.copyIn rq) = true →
    host = leAt (bodyOf rq) 0 8 → addr = leAt (bodyOf rq) 8 8 → len = leAt (bodyOf rq) 0x10 4 →
    copyPermitted s rq.port addr len = true → reaches s rq.port = true → (s.port rq.port).hostReadable = true → host + len ≤ 2 ^ 64 →
    exec (.copyIn rq) s = .next (respondAs (farHostWrite (takenBy s 0x0012 rq) addr (memReadN (s.port rq.port).hostMem host len))
      0x0012 rq stOk 0 [])) ∧
  (∀ (rq : MbxReq) (s : State) (host addr len b : Nat), accepts s (.copyIn rq) = true →
    host = leAt (bodyOf rq) 0 8 → addr = leAt (bodyOf rq) 8 8 → len = leAt (bodyOf rq) 0x10 4 →
    copyPermitted s rq.port addr len = true → reaches s rq.port = true → (s.port rq.port).hostReadable = true → host + len ≤ 2 ^ 64 →
    0 < len → b = addr / 4096 → addr % 4096 + len ≤ 4096 → (s.far.group (b % 2)).onLost (b / 2) = false →
    s.tab.queues.any (fun q => q.cmds.any (·.touches (addr, len, 0))) = false →
    ∃ t, exec (.copyIn rq) s = .next t ∧
      t.far.stored b = splice (mergeBase s.far b) (addr % 4096) (memReadN (s.port rq.port).hostMem host len) ∧
      t.far.tag b = { st := .opened } ∧ (∀ c, c ≠ b → t.far.stored c = s.far.stored c ∧ t.far.tag c = s.far.tag c) ∧
      t.tab = s.tab ∧ t.cores = s.cores ∧ t.near = s.near ∧ t.key = s.key) ∧
  (∀ (rq : MbxReq) (s : State) (host addr len : Nat) (data : List Byte), accepts s (.copyOut rq) = true →
    host = leAt (bodyOf rq) 0 8 → addr = leAt (bodyOf rq) 8 8 → len = leAt (bodyOf rq) 0x10 4 → data = (farRead s.far addr len).1 →
    copyPermitted s rq.port addr len = true → (s.port rq.port).hostReadable = true → host + len ≤ 2 ^ 64 →
    ∃ t, exec (.copyOut rq) s = .next t ∧
      t = respondAs (sendBack ((touchRead (raceRead (takenBy s 0x0013 rq) (addr, len)) addr len).updPort rq.port (fun ps =>
          { ps with hostMem := memWriteN ps.hostMem host data })) classData data) 0x0013 rq stOk 0 [] ∧
      t.far.mem = s.far.mem ∧ t.far.tags = s.far.tags ∧ t.tab = (raceRead s (addr, len)).tab ∧ t.cores = s.cores ∧ t.near = s.near ∧ t.key = s.key ∧
      (s.tab.queues.any (fun q => q.cmds.any (fun c => c.phase == .running && c.writes.any (fun x => rangesMeet (x.1, x.2.1) (addr, len)))) = false → t.tab = s.tab) ∧
      (rq.notify = false → (t.port rq.port).hostMem = memWriteN (s.port rq.port).hostMem host data ∧
        (t.port rq.port.other).hostMem = (s.port rq.port.other).hostMem))

/-- EVENT_RING_SET, REBUILD_SHARE, SPDM and DOE_MESSAGE complete with the effect their rules give. (20_registers.md:
  R514, 13_host.md: R314, 12_memory.md: R311, 13_host.md: R344). -/
def Obligations.EventRingAndRebuildShareAndSpdmComplete : Prop :=
  (∀ (rq : MbxReq) (s : State), accepts s (.eventRingSet rq) = true →
    exec (.eventRingSet rq) s = .next (respondAs (flushPort ((takenBy s 0x0050 rq).updPort rq.port (fun ps => { ps with
      evtBase := BitVec.ofNat 64 (leAt (bodyOf rq) 0 8), evtLog2 := field (leAt (bodyOf rq) 8 1) 0 5, evtSet := true
      evtHead := 0, evtTail := 0, evtPhase := true, evtDiscarded := 0 })) rq.port) 0x0050 rq stOk 0 [])) ∧
  (∀ (rq : MbxReq) (s : State), accepts s (.rebuildShare rq) = true →
    exec (.rebuildShare rq) s =
      .next (respondAs { s with dev := { s.dev with rebuildShare := field (leAt (bodyOf rq) 0 1) 0 2 } } 0x0051 rq stOk 0 [])) ∧
  (∀ (rq : MbxReq) (s : State), accepts s (.spdm rq) = true → (s.hub rq.port.hub).inRom = true →
    exec (.spdm rq) s = .next (respondAs s 0x0004 rq stOk 0 (leBytes 2 4 ++ leBytes 2 0 ++ [0x12, 0x7F, 0x03, 0x00]))) ∧
  (∀ (rq : MbxReq) (s : State) (out : List Byte), accepts s (.spdm rq) = true → (s.hub rq.port.hub).inRom = false →
    out = Config.spdmRespond s.dev.spdmCount (debugHalt (s.hub rq.port.hub))
      (s.hub rq.port.hub).measurements (((bodyOf rq).drop 4).take (leAt (bodyOf rq) 0 2)) →
    ∃ t, exec (.spdm rq) s = .next (respondAs t 0x0004 rq stOk 0 (leBytes 2 out.length ++ leBytes 2 0 ++ out)) ∧
      t.dev = { s.dev with spdmCount := s.dev.spdmCount + 1 } ∧
      { t with pa := s.pa, pb := s.pb, dev := s.dev, h0 := s.h0, h1 := s.h1 } = s ∧
      (∀ h, t.hub h = if h = rq.port.hub then { s.hub h with
        big := (s.hub h).big.issueStep s.dev.spdmCount (((bodyOf rq).drop 4).take (leAt (bodyOf rq) 0 2)) } else s.hub h) ∧
      t.port rq.port = { (takenBy s 0x0004 rq).port rq.port with
        ide := (s.port rq.port).ide || Config.spdmSetsIde s.dev.spdmCount (((bodyOf rq).drop 4).take (leAt (bodyOf rq) 0 2)) }) ∧
  (∀ (port : Port) (msg : List Byte) (s : State), (s.port port).linkUp = true → (s.hub port.hub).inRom = false →
    exec (.doeMessage port msg) s = .next ((((s.updDev (fun d => { d with spdmCount := d.spdmCount + 1 })).updHub port.hub
      (fun h => { h with big := h.big.issueStep s.dev.spdmCount msg }))).updPort port
      (fun ps => { ps with ide := ps.ide || Config.spdmSetsIde s.dev.spdmCount msg
                           doeOut := Config.spdmRespond s.dev.spdmCount (debugHalt (s.hub port.hub)) (s.hub port.hub).measurements msg }))) ∧
  (∀ (port : Port) (msg : List Byte) (s : State), (s.port port).linkUp = true → (s.hub port.hub).inRom = true →
    exec (.doeMessage port msg) s = .next (s.updPort port (fun ps => { ps with doeOut := [0x12, 0x7F, 0x03, 0x00] })))

/-- CHAIN_LOAD of a table that passes every check adds the chain under the next load serial; CHAIN_UNLOAD removes an
  unreferenced one. (02_ciphertexts.md: R26, 02_ciphertexts.md: R28, 08_programs.md: R204, 13_host.md: R325). -/
def Obligations.ChainLoadAndUnloadChangeTheChainTable : Prop :=
  (∀ (rq : MbxReq) (s : State) (b : List Byte), accepts s (.chainLoad rq) = true →
    hostRead s rq.port (leAt (bodyOf rq) 0 8) (leAt (bodyOf rq) 8 6) = some b → chainRefused s b = none →
    exec (.chainLoad rq) s = .next (respondAs { s with
      tab := { s.tab with chains := insertBy (·.id) (chainOf b s.dev.loadSerial) s.tab.chains }
      dev := { s.dev with loadSerial := if s.dev.loadSerial = 2 ^ 32 - 1 then 1 else s.dev.loadSerial + 1 } }
      0x0020 rq stOk 0 (leBytes 2 (leAt b 0 2) ++ leBytes 2 0 ++ leBytes 4 s.dev.loadSerial))) ∧
  (∀ (rq : MbxReq) (s : State) (c : Chain), accepts s (.chainUnload rq) = true →
    s.tab.chains.find? (fun c => c.id == leAt (bodyOf rq) 0 2) = some c → chainReferenced s c = false →
    exec (.chainUnload rq) s = .next (respondAs { s with tab := { s.tab with
      chains := s.tab.chains.filter (fun x => x.id != c.id)
      programs := s.tab.programs.map (fun p =>
        if p.serial == c.serial && p.chainId == c.id then { p with marked := true } else p)
      caddies := s.tab.caddies.map (fun k =>
        if k.serial == c.serial && k.chainId == c.id then { k with marked := true } else k) } } 0x0021 rq stOk 0 []))

/-- A caddy is LOADING after CADDY_LOAD, LIBRARY when the copy is done, RESIDENT when its pieces are near, gone after
  CADDY_UNLOAD. (06_keys.md: R154, 06_keys.md: R156, 06_keys.md: R157, 06_keys.md: R158, 06_keys.md: R160). -/
def Obligations.CaddyLifeCompletes : Prop :=
  (∀ (rq : MbxReq) (s : State) (b : List Byte) (i : Nat), accepts s (.caddyLoad rq) = true →
    hostRead s rq.port (leAt (bodyOf rq) 0 8) (leAt (bodyOf rq) 8 6) = some b → 0x1E ≤ b.length → leAt b 0x18 6 = b.length →
    lowestFree 1024 (s.tab.caddies.map (·.index)) = some i →
    (caddyOf s rq b i).st = .loading ∧ (caddyOf s rq b i).index = i ∧
    exec (.caddyLoad rq) s = .next (match caddyCheck s b with
      | some n => respondAs s 0x0022 rq (caddyFailure n).1 (caddyFailure n).2 []
      | none => (storeImage (takenBy s 0x0022 rq) (caddyOf s rq b i).extents b).updTab
          (fun v => { v with caddies := insertBy (·.index) (caddyOf s rq b i) v.caddies }))) ∧
  (∀ (caddy : Nat) (s : State) (c : Caddy), s.tab.caddies.find? (fun c => c.index == caddy) = some c → c.st = .loading →
    exec (.caddyLoadDone caddy) s = .next (respondTo
      (s.updTab (fun t => { t with caddies := t.caddies.map (fun c => if c.index == caddy then { c with st := .library } else c) }))
      c.loadPort c.loadBox stOk 0 (leBytes 2 caddy ++ leBytes 2 0))) ∧
  (∀ (caddy : Nat) (s : State) (c : Caddy), s.tab.caddies.find? (fun c => c.index == caddy) = some c → c.copying = true →
    exec (.caddyResident caddy) s = .next ((placePieces s c).updTab (fun t => { t with caddies := t.caddies.map (fun c =>
      if c.index == caddy then { c with st := .resident, copying := false } else c) }))) ∧
  (∀ (rq : MbxReq) (s : State) (c : Caddy), accepts s (.caddyUnload rq) = true →
    s.tab.caddies.find? (fun c => c.index == leAt (bodyOf rq) 0 2) = some c → c.st ≠ .loading →
    s.tab.jobs.any (fun j => j.binds.contains c.index) = false →
    exec (.caddyUnload rq) s = .next (respondAs { s with
      near := { s.near with pieces := s.near.pieces.filter (fun p => p.caddy != c.index) }
      dies := s.dies.map (fun d => (d.1, { d.2 with cache := d.2.cache.filter (fun e => e.piece.caddy != c.index) }))
      tab := { s.tab with caddies := s.tab.caddies.filter (fun x => x.index != c.index) } } 0x0023 rq stOk 0 []))

/-- PROGRAM_LOAD stores a container the strainer accepts under the lowest free index; PROGRAM_UNLOAD removes a program
  no job names. (08_programs.md: R202, 08_programs.md: R204, 08_programs.md: R217, 13_host.md: R325). -/
def Obligations.ProgramLoadAnswersTheStrainersVerdict : Prop :=
  (∀ (rq : MbxReq) (body : Body) (s : State) (b : List Byte), accepts s (.programLoad rq body) = true →
    hostRead s rq.port (leAt (bodyOf rq) 0 8) (leAt (bodyOf rq) 8 6) = some b → 0x2C ≤ b.length → leAt b 0x28 4 = b.length →
    exec (.programLoad rq body) s = .next
      (let d := decodedBody s b body
       let u := noteDecoded s b d
       match strain s.tab.chains (runningIface s) (storeFull s b.length) b d with
       | none => respondAs
           { u with tab := { u.tab with programs := insertBy (·.index) (programOf s b d) s.tab.programs } } 0x0028 rq stOk 0
           (leBytes 2 (newProgramIndex s) ++ leBytes 2 0xFFFF ++ leBytes 2 0xFFFF)
       | some r =>
         if r.code = 0x10 then respondAs u 0x0028 rq stNoRoom 5 []
         else respondAs u 0x0028 rq stStrainer r.code (leBytes 2 0xFFFF ++ leBytes 2 r.entry ++ leBytes 2 r.desc))) ∧
  (∀ (rq : MbxReq) (s : State) (p : Program), accepts s (.programUnload rq) = true →
    s.tab.programs.find? (fun p => p.index == leAt (bodyOf rq) 0 2) = some p →
    s.tab.jobs.any (fun j => j.progs.contains p.index) = false →
    exec (.programUnload rq) s = .next (respondAs
      { s with tab := { s.tab with programs := s.tab.programs.filter (fun x => x.index != p.index) } } 0x0029 rq stOk 0 []))

/-- QUEUE_DESTROY answers IN_USE and changes nothing unless the queue is IDLE or CANCELLED; then it removes the queue.
  (R342). -/
def Obligations.QueueDestroyInUseUnlessIdleOrCancelled : Prop :=
  ∀ (rq : MbxReq) (s : State) (q : Queue), accepts s (.queueDestroy rq) = true →
    s.tab.queues.find? (fun q => q.num == leAt (bodyOf rq) 0 2) = some q →
    ((q.st = .idle ∨ q.st = .cancelled) → exec (.queueDestroy rq) s = .next (respondAs
      { s with tab := { s.tab with queues := s.tab.queues.filter (fun x => x.num != q.num) } } 0x0045 rq stOk 0 [])) ∧
    (¬ (q.st = .idle ∨ q.st = .cancelled) → exec (.queueDestroy rq) s = .next (respondAs s 0x0045 rq stInUse 0 []))

/-- QUEUE_CREATE, SET, CANCEL, RESUME, RESET and REHOME complete with OK and change their queue as their rules say.
  (13_host.md: R330, 13_host.md: R338, 13_host.md: R339, 13_host.md: R340, 13_host.md: R341, 13_host.md: R347). -/
def Obligations.QueueCommandsComplete : Prop :=
  (∀ (rq : MbxReq) (s : State) (n : Nat), accepts s (.queueCreate rq) = true → onFabric s = false →
    (∃ j, findJob s (leAt (bodyOf rq) 0 2) = some j ∧ j.destroying = none) →
    (bit (leAt (bodyOf rq) 2 1) 5 = false ∨ ringsGranted s (leAt (bodyOf rq) 0 2) (field (leAt (bodyOf rq) 2 1) 0 5)
      (leAt (bodyOf rq) 8 8) (leAt (bodyOf rq) 0x10 8) = true) →
    lowestFree 8192 (s.tab.queues.map (·.num)) = some n →
    exec (.queueCreate rq) s = .next (respondAs { s with tab := { s.tab with queues := (insertBy (fun q => q.num)
      ({ num := n, job := leAt (bodyOf rq) 0 2, log2depth := field (leAt (bodyOf rq) 2 1) 0 5,
         farRings := bit (leAt (bodyOf rq) 2 1) 5, priority := field (leAt (bodyOf rq) 3 1) 0 3,
         outLimit := leAt (bodyOf rq) 4 2, vector := field (leAt (bodyOf rq) 6 2) 0 4, intr := bit (leAt (bodyOf rq) 6 2) 4,
         sqBase := leAt (bodyOf rq) 8 8, cqBase := leAt (bodyOf rq) 0x10 8, flagTimeout := leAt (bodyOf rq) 0x18 4,
         home := .port rq.port, st := .idle, sqTail := 0, cqHead := 0, phase := true } : Queue) s.tab.queues) } }
      0x0040 rq stOk 0 (leBytes 2 n ++ leBytes 2 0))) ∧
  (∀ (rq : MbxReq) (s : State), accepts s (.queueSet rq) = true → (findQueue s (leAt (bodyOf rq) 0 2)).isSome = true →
    exec (.queueSet rq) s = .next (respondAs { s with tab := { s.tab with queues := s.tab.queues.map (fun q =>
      if q.num == leAt (bodyOf rq) 0 2 then { q with
        priority := field (leAt (bodyOf rq) 2 1) 0 3, outLimit := leAt (bodyOf rq) 4 2,
        flagTimeout := leAt (bodyOf rq) 8 4 } else q) } } 0x0041 rq stOk 0 [])) ∧
  (∀ (rq : MbxReq) (s : State), accepts s (.queueCancel rq) = true → (findQueue s (leAt (bodyOf rq) 0 2)).isSome = true →
    exec (.queueCancel rq) s =
      .next (respondAs (cancelQueue (takenBy s 0x0042 rq) (leAt (bodyOf rq) 0 2)) 0x0042 rq stOk 0 [])) ∧
  (∀ (rq : MbxReq) (s : State) (q : Queue), accepts s (.queueResume rq) = true →
    findQueue s (leAt (bodyOf rq) 0 2) = some q → q.st = .stalled →
    exec (.queueResume rq) s = .next (respondAs { s with tab := { s.tab with queues := s.tab.queues.map (fun x =>
      if x.num == q.num then { x with
        st := .running
        cmds := x.cmds.map (fun c => if c.phase == .waiting then { c with waitSince := s.now, waitLimit := x.flagTimeout } else c) }
      else x) } } 0x0043 rq stOk 0 [])) ∧
  (∀ (rq : MbxReq) (s : State) (q : Queue), accepts s (.queueReset rq) = true →
    findQueue s (leAt (bodyOf rq) 0 2) = some q → q.st = .cancelled →
    exec (.queueReset rq) s = .next (respondAs { s with tab := { s.tab with queues := s.tab.queues.map (fun x =>
      if x.num == q.num then { x with
        st := .idle, sqTail := 0, sqFetch := 0, cqHead := 0, cqIndex := 0, phase := true, cmds := [], copies := [] } else x) } }
      0x0044 rq stOk 0 [])) ∧
  (∀ (rq : MbxReq) (s : State) (q : Queue), accepts s (.queueRehome rq) = true →
    findQueue s (leAt (bodyOf rq) 0 2) = some q →
    (bit (leAt (bodyOf rq) 2 1) 0 = false ∨
      ringsGranted s q.job q.log2depth (leAt (bodyOf rq) 8 8) (leAt (bodyOf rq) 0x10 8) = true) →
    exec (.queueRehome rq) s = .next (respondAs (fetchAll (updQueue (takenBy s 0x0046 rq) q.num (fun x =>
        x.rehome rq.port (bit (leAt (bodyOf rq) 2 1) 0) (leAt (bodyOf rq) 8 8) (leAt (bodyOf rq) 0x10 8))) q.num)
      0x0046 rq stOk 0 (leBytes 2 q.sqFetch ++ leBytes 2 q.cqIndex ++ leBytes 4 (if q.phase then 1 else 0)))) ∧
  (∀ (rq : MbxReq) (s : State) (q : Queue), accepts s (.queueRehome rq) = true →
    findQueue s (leAt (bodyOf rq) 0 2) = some q → (q.farRings = false ∨ bit (leAt (bodyOf rq) 2 1) 0 = false) →
    (bit (leAt (bodyOf rq) 2 1) 0 = false ∨
      ringsGranted s q.job q.log2depth (leAt (bodyOf rq) 8 8) (leAt (bodyOf rq) 0x10 8) = true) →
    exec (.queueRehome rq) s = .next (respondAs { s with tab := { s.tab with queues := s.tab.queues.map (fun x =>
      if x.num == q.num then
        x.rehome rq.port (bit (leAt (bodyOf rq) 2 1) 0) (leAt (bodyOf rq) 8 8) (leAt (bodyOf rq) 0x10 8) else x) } }
      0x0046 rq stOk 0 (leBytes 2 q.sqFetch ++ leBytes 2 q.cqIndex ++ leBytes 4 (if q.phase then 1 else 0)))) ∧
  (∀ (x : Queue) (p : Port) (far : Bool) (sq cq : Nat), (x.farRings = false ∨ far = false) →
    x.rehome p far sq cq = { x with
      home := .port p, farRings := far, sqBase := sq, cqBase := cq, sqTail := x.sqFetch, cqHead := x.cqIndex, rehomed := true, copies := [] }) ∧
  (∀ (x : Queue) (p : Port), x.farRings = true → x.rehome p true x.sqBase x.cqBase = { x with home := .port p })

/-- JOB_CREATE adds the job under the lowest free slot and zeroes its cores; JOB_DESTROY leaves no job, extent, window
  or core content of it. (13_host.md: R327, 13_host.md: R328, 13_host.md: R329, 03_core.md: R75, 09_scheduling.md:
  R222). -/
def Obligations.JobCreateGrantsAndJobDestroyFrees : Prop :=
  (∀ (rq : MbxReq) (s : State) (octets : List Nat), accepts s (.jobCreate rq) = true →
    jobRequestFault (bodyOf rq) = none → jobRefused s (bodyOf rq) = none →
    grantOctets (leAt (bodyOf rq) 0 2 / 8) (freeOctets s) [] = some octets →
    ∃ (u : State) (j : Job) (body : List Byte), exec (.jobCreate rq) s = .next (respondAs u 0x0030 rq stOk 0 body) ∧
      u.tab.jobs = insertBy (fun j => j.id % 64) j s.tab.jobs ∧
      j.id = newJobId s ∧ j.group = leAt (bodyOf rq) 0 2 ∧ j.octets = sortBy (fun o => o) octets ∧
      j.rjob = (if leAt (bodyOf rq) 2 1 = 0xFF then none else some (leAt (bodyOf rq) 2 1)) ∧
      j.progs = reqProgs (bodyOf rq) ∧ j.binds = reqBinds (bodyOf rq) ∧ j.peers = reqPeers (bodyOf rq) ∧
      j.nextSerial = 0 ∧ j.counters = [0, 0, 0, 0, 0, 0] ∧
      u.tab.generations = tabPut 0 s.tab.generations (newJobId s % 64)
        (nextGeneration (newJobId s % 64) (tabGet 0 s.tab.generations (newJobId s % 64))) ∧
      u.tab.queues = s.tab.queues ∧ u.far = s.far ∧
      (∀ c, c ∈ j.octets.flatMap octetCores → u.core c = {}) ∧
      (∀ c, c ∉ j.octets.flatMap octetCores → u.core c = s.core c)) ∧
  (∀ (rq : MbxReq) (s v : State) (j : Job), accepts s (.jobDestroy rq) = true → findJob s (leAt (bodyOf rq) 0 2) = some j →
    j.destroying = none →
    v = (queuesOf s j.id).foldl (fun t n => drainQueue (cancelQueue t n) n) (takenBy s 0x0031 rq) →
    queuesCancelled v j.id = false →
    exec (.jobDestroy rq) s = .next (updJob v j.id (fun x => { x with destroying := some (rq.port, rq.box) }))) ∧
  (∀ (rq : MbxReq) (s v : State) (j : Job), accepts s (.jobDestroy rq) = true → findJob s (leAt (bodyOf rq) 0 2) = some j →
    j.destroying = none →
    v = (queuesOf s j.id).foldl (fun t n => drainQueue (cancelQueue t n) n) (takenBy s 0x0031 rq) →
    queuesCancelled v j.id = true →
    ∃ u : State, exec (.jobDestroy rq) s = .next (respondAs u 0x0031 rq stOk 0 []) ∧
      (∀ x ∈ u.tab.jobs, x.id ≠ j.id) ∧ (∀ o ∈ u.far.owners, o.2 ≠ j.id) ∧
      (∀ w ∈ u.far.windows, some w.rjob ≠ j.rjob) ∧ (∀ c, c ∈ j.octets.flatMap octetCores → u.core c = {}))

/-- CORE_RETIRE of a SERVING core moves its logical core to the lowest SPARE of its die, scratchpad kept; with a task
  in it, it waits. (16_service.md: R413, 16_service.md: R414, 16_service.md: R416, 16_service.md: R428). -/
def Obligations.CoreRetireMovesTheLogicalCoreToASpare : Prop :=
  (∀ (rq : MbxReq) (s : State) (p c : Nat), accepts s (.coreRetire rq) = true → p = leAt (bodyOf rq) 0 2 →
    (s.physCore p).logical = some c → (s.physCore p).st = .serving → (s.physCore p).fencing = false →
    s.dev.retiring.any (fun r => r.1 == p) = false → (spareOf s (p / 72)).isSome = true → (s.core c).slots ≠ [] →
    exec (.coreRetire rq) s = .next ((takenBy s 0x00C1 rq).updDev (fun d =>
      { d with retiring := d.retiring ++ [(p, rq.port, rq.box)] }))) ∧
  (∀ (rq : MbxReq) (s : State) (p c q : Nat), accepts s (.coreRetire rq) = true → p = leAt (bodyOf rq) 0 2 →
    (s.physCore p).logical = some c → (s.physCore p).st = .serving → (s.physCore p).fencing = false →
    s.dev.retiring = [] → s.dev.late < 3 → dieOfCore c = p / 72 → spareOf s (p / 72) = some q → (s.core c).slots = [] →
    ∃ t, exec (.coreRetire rq) s = .next t ∧ (t.physCore p).logical = none ∧
      (t.physCore p).st = (if 3 ≤ (s.physCore p).retirements + 1 then .failed else .retired) ∧
      (t.physCore q).logical = some c ∧ (t.physCore q).st = .serving ∧
      (∀ x, x ≠ p → x ≠ q → t.physCore x = s.physCore x) ∧ t.cores = s.cores ∧ t.far = s.far ∧
      (getMailbox t rq.port rq.box).st = .done ∧
      ((getMailbox t rq.port rq.box).resp.map (·.status)) = some stOk)

/-- CORE_TEST, the self-test events, DIE_DOWN and DIE_UP complete as their rules say. (16_service.md: R414,
  16_service.md: R415, 16_service.md: R417). -/
def Obligations.SelfTestsAndDieCommandsComplete : Prop :=
  (∀ (rq : MbxReq) (s : State) (p : Nat), accepts s (.coreTest rq) = true → p = leAt (bodyOf rq) 0 2 →
    ((s.physCore p).st = .spare ∨ (s.physCore p).st = .retired) → (s.die (p / 72)).powered = true →
    (s.die (p / 72)).upBox = none →
    exec (.coreTest rq) s = .next (startNextTest ((takenBy s 0x00C2 rq).updDie (p / 72) (fun d =>
      { d with testWait := d.testWait ++ [(p, rq.port, rq.box)] })) (p / 72))) ∧
  (∀ (die : Fin 8) (s : State) (p : Nat), (s.die die.val).powered = true → (s.die die.val).upBox = none →
    testsOn s die.val = [] → nextRetired s die.val = some p →
    exec (.coreSelfTestStart die) s = .next (refreshState (s.updPhys p (fun c =>
      { c with st := .testing, logical := none, waking := .no, leaving := none })))) ∧
  (∀ (die : Fin 8) (pass : Bool) (s : State) (p : Nat), (testsOn s die.val).head? = some p →
    (s.die die.val).upBox = none → (s.die die.val).testWait = [] →
    ∃ t, exec (.coreSelfTestDone die pass) s = .next (refreshState (takeSpares t)) ∧
      (t.physCore p).st = (if pass then .spare else .failed) ∧ (t.physCore p).power = (if pass then .sleep else .off) ∧
      (∀ x, x ≠ p → t.physCore x = s.physCore x) ∧ t.tab = s.tab ∧ t.cores = s.cores ∧ t.far = s.far) ∧
  (∀ (rq : MbxReq) (s : State) (d : Nat), accepts s (.dieDown rq) = true → d = leAt (bodyOf rq) 0 1 →
    s.tab.jobs.any (fun j => j.octets.any (fun o => o / 8 == d)) = false → (s.die d).upBox = none →
    (s.die d).powered = true →
    exec (.dieDown rq) s = .next (if s.dev.late < 3
      then respondAs (refreshState (noteRepair (powerOffDie (endDieWork (heldStep (takenBy s 0x00C4 rq)).2 d) d) 12 d 0))
        0x00C4 rq stOk 0 []
      else respondAs (heldStep (takenBy s 0x00C4 rq)).2 0x00C4 rq stAborted 0x07 [])) ∧
  (∀ (rq : MbxReq) (s : State) (d : Nat), accepts s (.dieUp rq) = true → d = leAt (bodyOf rq) 0 1 →
    (s.die d).upBox = none → (s.die d).powered = false →
    exec (.dieUp rq) s = .next (if s.dev.late < 3
      then settleDieUp (startNextTest ((heldStep (takenBy s 0x00C5 rq)).2.updDie d (fun x => { x with
        powered := true, lost := false, netGated := false, kTherm := 16,
        upLeft := (physOf d).filter (fun p => (s.physCore p).st != .failed), upBox := some (rq.port, rq.box) })) d) d
      else respondAs (heldStep (takenBy s 0x00C5 rq)).2 0x00C5 rq stAborted 0x07 []))

/-- HUB_SWAP, HUB_REJOIN, FW_LOAD, HUB_REJOIN_DONE and FIRMWARE_ACTIVATION complete with the effect their rules give.
  (16_service.md: R420, 16_service.md: R421, 16_service.md: R422, 16_service.md: R426, 16_service.md: R427). -/
def Obligations.HubServiceCommandsComplete : Prop :=
  (∀ (rq : MbxReq) (s : State), accepts s (.hubSwap rq) = true → s.h0.svc = .inService → s.h1.svc = .inService →
    s.dev.lead ≠ none → rejoinBusy s = false →
    exec (.hubSwap rq) s = .next (requestSlice (takenBy s 0x00C6 rq) { kind := .swap, port := rq.port, box := some rq.box })) ∧
  (∀ (rq : MbxReq) (s : State) (h : Hub), accepts s (.hubRejoin rq) = true →
    h = (if bit (leAt (bodyOf rq) 0x0C 4) 0 then Hub.h1 else .h0) → s.dev.lead ≠ some h → rejoinBusy s = false →
    swapBusy s = false → s.record.storeFull = false →
    exec (.hubRejoin rq) s = .next (startRejoin (takenBy s 0x00C7 rq) h
      (hostRead s rq.port (leAt (bodyOf rq) 0 8) (leAt (bodyOf rq) 8 4))
      { image := [], fwStep := 0, port := rq.port, box := rq.box })) ∧
  (∀ (rq : MbxReq) (s : State) (l : Hub), accepts s (.fwLoad rq) = true → s.dev.lead = some l →
    s.h0.svc = .inService → s.h1.svc = .inService → rejoinBusy s = false → protBusy s = false → swapBusy s = false →
    s.record.storeFull = false →
    exec (.fwLoad rq) s = .next (startRejoin ((takenBy s 0x0003 rq).updDev (fun d => { d with fw := (some
        { host := leAt (bodyOf rq) 0 8, len := leAt (bodyOf rq) 8 6, port := rq.port,
          box := rq.box, step := 1, first := l.other, portWasUp := (s.port l.other.port).linkUp }) })) l.other
      (hostRead s rq.port (leAt (bodyOf rq) 0 8) (leAt (bodyOf rq) 8 6))
      { image := [], fwStep := 1, port := rq.port, box := rq.box })) ∧
  (∀ (hub : Hub) (s : State) (r : Rejoin), (s.hub hub).rejoin = some r → r.failed = none → (s.hub hub).phase = .locked →
    exec (.hubRejoinDone hub) s = .next (answerRejoin (refreshState (requestSlice (noteRepair (noteBoot
      (s.updHub hub (fun x => { x with rejoin := none, phase := .joined, svc := .inService, gcount := s.now })) hub r.cause stOk)
      11 hub.num 0) { kind := .takeBack hub })) r stOk 0)) ∧
  (∀ (s : State) (f : FwUpdate), s.dev.fw = some f → f.step = 2 → (f.portWasUp = true → (s.port f.first.port).linkUp = true) →
    s.dev.slices = [] → sliceAllowed s = true → s.dev.late = 0 →
    ∃ t, t = giveLead s f.first ∧ exec .firmwareActivation s = .next (startRejoin
      (t.updDev (fun d => { d with lastSliceEnd := some s.now, fw := some { f with step := 4 } })) f.first.other
      (hostRead s f.port f.host f.len) { image := [], fwStep := 4, port := f.port, box := f.box })) ∧
  (∀ (s : State) (f : FwUpdate), s.dev.fw = some f → f.step = 2 → (f.portWasUp = true → (s.port f.first.port).linkUp = true) →
    s.dev.slices = [] → sliceAllowed s = true → s.dev.late ≠ 0 → f.abandons + 1 < 3 →
    exec .firmwareActivation s = .next { s with dev := { s.dev with
      lastSliceEnd := some s.now, late := s.dev.late - 1, fw := some { f with abandons := f.abandons + 1 } } })

/-- ATTEST, IDENTITY_GET and INTEGRATOR_ENROLL complete with the effect their rules give. (17_security.md: R444,
  17_security.md: R451, 17_security.md: R452, 17_security.md: R453, 17_security.md: R454, 17_security.md: R456). -/
def Obligations.AttestationAndIdentityComplete : Prop :=
  (∀ (rq : MbxReq) (s : State), accepts s (.attest rq) = true →
    debugHalt (s.hub (signer s rq.port)) = false → s.record.writable = true → s.record.nextIndex < 2 ^ 40 →
    hostReachable s rq.port (leAt (bodyOf rq) 0 8) 10277 = true →
    ∃ m : List Byte, m = reportMessage s (s.hub (signer s rq.port)) s.record.nextIndex ((bodyOf rq).drop 8) ∧
      exec (.attest rq) s = .next (respondAs ((commitIndex (takenBy s 0x0101 rq) s.record.nextIndex).updPort rq.port
        (fun ps => { ps with hostMem := (memWriteN ps.hostMem (leAt (bodyOf rq) 0 8)
          (m ++ padTo 9893 (Config.attestSignature m s.record.nextIndex))) })) 0x0101 rq stOk 0 (leBytes 8 s.record.nextIndex))) ∧
  (∀ (rq : MbxReq) (s : State) (obj : List Byte), accepts s (.identityGet rq) = true →
    obj = (if leAt (bodyOf rq) 8 1 = 0 then Config.spdmChain else Config.attestCert) → obj.length ≤ leAt (bodyOf rq) 0x0C 4 →
    hostReachable s rq.port (leAt (bodyOf rq) 0 8) obj.length = true →
    exec (.identityGet rq) s = .next (respondAs ((takenBy s 0x0102 rq).updPort rq.port
      (fun ps => { ps with hostMem := memWriteN ps.hostMem (leAt (bodyOf rq) 0 8) obj })) 0x0102 rq stOk 0
      (leBytes 4 obj.length))) ∧
  (∀ (rq : MbxReq) (s : State), accepts s (.integratorEnroll rq) = true → (pointOf ((bodyOf rq).take 97)).isSome = true →
    s.record.integratorKey.all (· == 0) = true → s.record.writable = true →
    exec (.integratorEnroll rq) s = .next (respondAs
      { s with record := { s.record with integratorKey := (bodyOf rq).take 97 } } 0x0106 rq stOk 0 [])) ∧
  (∀ (rq : MbxReq) (s : State), accepts s (.integratorEnroll rq) = true → (pointOf ((bodyOf rq).take 97)).isSome = true →
    s.record.integratorKey.all (· == 0) = false →
    exec (.integratorEnroll rq) s = .next (respondAs s 0x0106 rq stInUse 0 []))

/-- PROT_SET and SVN_COMMIT request one slice with the merged values; REGION_SET rewrites its bytes of the region
  table. (17_security.md: R445, 17_security.md: R446, 17_security.md: R455, 16_service.md: R424). -/
def Obligations.ProtectionCommandsComplete : Prop :=
  (∀ (rq : MbxReq) (s : State) (mask : Nat) (v ctrl : W32), accepts s (.protSet rq) = true → changeRefused s = false →
    mask = field (leAt (bodyOf rq) 4 4) 0 4 → (s.h0.protLock ||| s.h1.protLock) &&& BitVec.ofNat 32 mask = 0 →
    v = BitVec.ofNat 32 (leAt (bodyOf rq) 0 4) →
    ctrl = (((if bit mask 0 then v else (s.hub s.leadOr0).protCtrl) &&& 0x3#32) |||
      ((if bit mask 1 then v else (s.hub s.leadOr0).protCtrl) &&& 0xC#32) |||
      ((if bit mask 2 then v else (s.hub s.leadOr0).protCtrl) &&& 0x10#32) |||
      ((if bit mask 3 then v else (s.hub s.leadOr0).protCtrl) &&& 0x60#32)) →
    exec (.protSet rq) s = .next (requestSlice (takenBy s 0x0103 rq) { kind := (.protChange rq.port rq.box ctrl
      ((s.hub s.leadOr0).protLock ||| BitVec.ofNat 32 mask)
      (if bit mask 2 then BitVec.ofNat 64 (leAt (bodyOf rq) 8 8) else (s.hub s.leadOr0).protRegionBase) none) })) ∧
  (∀ (rq : MbxReq) (s : State), accepts s (.svnCommit rq) = true → changeRefused s = false →
    s.h0.image.map (·.digest) = s.h1.image.map (·.digest) →
    exec (.svnCommit rq) s = .next (requestSlice (takenBy s 0x0105 rq) { kind := (.protChange rq.port rq.box
      (s.hub s.leadOr0).protCtrl (s.hub s.leadOr0).protLock (s.hub s.leadOr0).protRegionBase
      (some (max s.record.minSvn (((s.hub s.leadOr0).image.map (·.svn)).getD 0)))) })) ∧
  (∀ (rq : MbxReq) (s : State), accepts s (.regionSet rq) = true → (s.hub s.leadOr0).protRegionBase ≠ 0 →
    exec (.regionSet rq) s = .next (respondAs (deviceWrite (takenBy s 0x0104 rq)
      ((s.hub s.leadOr0).protRegionBase.toNat + leAt (bodyOf rq) 0 4)
      (List.replicate (leAt (bodyOf rq) 4 4) (BitVec.ofNat 8 (leAt (bodyOf rq) 8 1)))) 0x0104 rq stOk 0 []))

/-- BOOT_IMAGE and IMAGE_OFFER put an image under verification in step 3 of the boot; IMAGE_VERIFIED starts it or
  returns to step 3. (17_security.md: R439, 17_security.md: R440, 17_security.md: R436, 17_security.md: R441). -/
def Obligations.BootImagesAreOfferedAndVerified : Prop :=
  (∀ (rq : MbxReq) (s : State) (img : List Byte), accepts s (.bootImage rq) = true → (s.hub rq.port.hub).phase = .obtain →
    hostRead s rq.port (leAt (bodyOf rq) 0 8) (leAt (bodyOf rq) 8 4) = some img →
    exec (.bootImage rq) s = .next ((takenBy s 0x0100 rq).updHub rq.port.hub (fun h => { h with
      offered := some (img, .ownPort), offerBox := some rq.box, phase := .verify }))) ∧
  (∀ (hub : Hub) (source : OfferSource) (image : List Byte) (s : State), (s.hub hub).phase = .obtain →
    (s.hub hub).offered = none →
    (source = .otherHub ∧ (s.hub hub.other).image.map (·.digest) = some (sha3Digest image) ∨
      source = .parent ∧ s.dev.role = 2 ∧ ∃ k, k < 12 ∧ (s.worgon k).role = 1 ∧ (s.worgon k).up = true) →
    exec (.imageOffer hub source image) s = .next (s.updHub hub (fun h => { h with
      offered := some (image, source), phase := .verify }))) ∧
  (∀ (hub : Hub) (s : State) (b : List Byte) (box : Nat), (s.hub hub).offered = some (b, .ownPort) →
    (s.hub hub).phase = .verify → (s.hub hub).rejoin = none → (s.hub hub).offerBox = some box →
    exec (.imageVerified hub) s = .next (match imageFault s.record.minSvn b with
      | some d => respondTo (noteFirmware (s.updHub hub (fun x =>
          { x with phase := .obtain, offered := none, offerBox := none })) hub (sha3Digest b) (leAt b 4 2) stInvalidImage)
          hub.port box stInvalidImage d []
      | none => (respondTo (startImage s hub b) hub.port box stOk 0 []).updHub hub (fun x => { x with offerBox := none }))) ∧
  (∀ (hub : Hub) (s : State) (b : List Byte) (src : OfferSource), (s.hub hub).offered = some (b, src) → src ≠ .ownPort →
    (s.hub hub).phase = .verify → (s.hub hub).rejoin = none →
    exec (.imageVerified hub) s = .next (match imageFault s.record.minSvn b with
      | some _ => noteFirmware (s.updHub hub (fun x => { x with phase := .obtain, offered := none, offerBox := none })) hub
          (sha3Digest b) (leAt b 4 2) stInvalidImage
      | none => (startImage s hub b).updHub hub (fun x => { x with offerBox := none }))) ∧
  (∀ (hub : Hub) (s : State) (b : List Byte) (src : OfferSource) (r : Rejoin), (s.hub hub).offered = some (b, src) →
    (s.hub hub).phase = .verify → (s.hub hub).rejoin = some r →
    exec (.imageVerified hub) s = .next (verifyRejoin s hub r b))

/-- CONFIG_LOAD, CFG_DATA, CFG_PTR and GO deliver a board configuration: the checks decide, a good one is applied, a
  bad one answers its check. (19_package.md: R493, 19_package.md: R496, 19_package.md: R498, 19_package.md: R495). -/
def Obligations.ConfigurationDeliveryCompletes : Prop :=
  (∀ (rq : MbxReq) (s : State) (c : List Byte), accepts s (.configLoad rq) = true → s.dev.role ≠ 3 →
    leAt (bodyOf rq) 8 6 = 256 → hostRead s rq.port (leAt (bodyOf rq) 0 8) 256 = some c →
    exec (.configLoad rq) s = .next (match deliveryFault s c with
      | some n => respondAs s 0x0002 rq stInvalidImage n []
      | none => respondAs (applyConfig (takenBy s 0x0002 rq) c) 0x0002 rq stOk 0 [])) ∧
  (∀ (hub : Hub) (value : W32) (s : State), (s.hub hub).phase ≠ .porHeld → (s.hub hub).cfgPtr < 256 →
    exec (.cfgData hub value) s = .next (s.updHub hub (fun h => { h with
      cfgBuf := splice h.cfgBuf h.cfgPtr [BitVec.ofNat 8 value.toNat], cfgPtr := h.cfgPtr + 1 }))) ∧
  (∀ (hub : Hub) (value : W32) (s : State), (s.hub hub).phase ≠ .porHeld → value.toNat % 512 ≤ 256 →
    exec (.cfgPtr hub value) s = .next (s.updHub hub (fun h => { h with cfgPtr := value.toNat % 512 }))) ∧
  (∀ (hub : Hub) (value : W32) (s u : State), (s.hub hub).phase = .configWait → s.dev.role ≠ 3 →
    value.toNat % 512 ≤ 256 → 2 ^ 31 ≤ value.toNat → u = s.updHub hub (fun h => { h with cfgPtr := value.toNat % 512 }) →
    exec (.go hub value) s = .next (match deliveryFault u (padTo 256 (s.hub hub).cfgBuf) with
      | some n => u.updHub hub (fun h => { h with cfgDone := true, cfgStatus := stInvalidImage, cfgDetail := n })
      | none => (applyConfig u (padTo 256 (s.hub hub).cfgBuf)).updHub hub
          (fun h => { h with cfgDone := true, cfgStatus := stOk, cfgDetail := 0 }))) ∧
  (∀ (hub : Hub) (value : W32) (s : State), (s.hub hub).phase ≠ .porHeld → (s.hub hub).phase ≠ .configWait →
    value.toNat % 512 ≤ 256 → 2 ^ 31 ≤ value.toNat →
    exec (.go hub value) s = .next (s.updHub hub (fun h => { h with
      cfgPtr := value.toNat % 512, cfgDone := true, cfgStatus := stBadState, cfgDetail := portDstate s hub.port })))

/-- FAB_ENUM, FAB_STATUS, FAB_EVENTS, FAB_DOORBELL, FAB_SEAL and FAB_LAUNCH complete on a manager with the effect
  their rules give. (14_fabric.md: R352, 14_fabric.md: R359, 14_fabric.md: R362, 14_fabric.md: R366, 14_fabric.md:
  R370). -/
def Obligations.FabricCommandsComplete : Prop :=
  (∀ (rq : MbxReq) (tree : List WorkerFound) (s : State), accepts s (.fabEnum rq tree) = true →
    s.tab.jobs.any (fun j => j.link.isSome) = false → s.fab.linked = [] →
    ∃ t body ws, exec (.fabEnum rq tree) s = .next (respondAs t 0x0080 rq stOk 0 body) ∧
      body = leBytes 4 (enumerate s tree).length ++ (enumerate s tree).flatMap (fun w => workerBytes w.1) ∧
      ws = sortBy (·.dev) (s.fab.workers.filter (·.lost) ++ (enumerate s tree).map (·.1)) ∧
      t = (enumerate s tree).foldl (fun u w => tell u w.1.dev (numberBytes ws w.1.dev))
        ((takenBy s 0x0080 rq).updFab (fun f => { f with
          workers := ws
          refused := ((List.range tree.length).map (· + 1)).filter (fun i => !(enumerate s tree).any (fun w => w.2 == i) &&
            (tree[i - 1]?).any (fun x => x.parent == 0 || (enumerate s tree).any (fun w => w.2 == x.parent)))
          devNumber := 0, enumerated := true, tags := renumberTags s.fab ws })) ∧
      t.tab = s.tab ∧ t.far = s.far ∧ t.cores = s.cores ∧ t.fab.enumerated = true ∧ t.fab.workers = ws) ∧
  (∀ (rq : MbxReq) (answer : List Byte) (s : State), accepts s (.fabStatus rq answer) = true →
    (liveWorker s (leAt (bodyOf rq) 0 1)).isSome = true →
    exec (.fabStatus rq answer) s = .next (respondAs s 0x0081 rq stOk 0 (padTo 14 answer))) ∧
  (∀ (rq : MbxReq) (drained : List (List Byte)) (s : State), accepts s (.fabEvents rq drained) = true →
    (liveWorker s (leAt (bodyOf rq) 0 1)).isSome = true →
    exec (.fabEvents rq drained) s = .next (respondAs (tell (takenBy s 0x0083 rq) (leAt (bodyOf rq) 0 1)
      (leBytes 2 0x0083 ++ leBytes 2 (min drained.length 126))) 0x0083 rq stOk 0
      (padTo 0x20 (leBytes 1 (min drained.length 126)) ++ (drained.take 126).flatMap (padTo 32)))) ∧
  (∀ (rq : MbxReq) (s : State), accepts s (.fabDoorbell rq) = true →
    (liveWorker s (leAt (bodyOf rq) 0 1)).isSome = true →
    exec (.fabDoorbell rq) s = .next (respondAs (tell (takenBy s 0x0084 rq) (leAt (bodyOf rq) 0 1)
      (leBytes 2 0x0084 ++ bodyOf rq)) 0x0084 rq stOk 0 [])) ∧
  (∀ (rq : MbxReq) (s : State) (d : Nat), accepts s (.fabSeal rq) = true → d = leAt (bodyOf rq) 0 1 →
    s.fab.workers.any (fun w => w.lost && w.dev == d) = true →
    exec (.fabSeal rq) s = .next (respondAs { s with
      far := { s.far with windows := s.far.windows.filter (fun w => w.srcDev != d) }
      tab := { s.tab with jobs := s.tab.jobs.map (fun j => { j with peers := j.peers.filter (· != d) }) }
      fab := { s.fab with workers := s.fab.workers.filter (fun w => w.dev != d)
                          tags := s.fab.tags.filter (fun x => x.1 != d)
                          linked := s.fab.linked.filter (fun x => x.1 != d) } } 0x0088 rq stOk 0 [])) ∧
  (∀ (rq : MbxReq) (late : List Nat) (s : State), accepts s (.fabLaunch rq late) = true →
    (launchEntries (bodyOf rq)).all (fun e => e.1 == 0 || (liveWorker s e.1).isSome) = true →
    s.now.toNat + 10000 ≤ leAt (bodyOf rq) 0 8 →
    ∃ t mask, exec (.fabLaunch rq late) s = .next (respondAs t 0x0085 rq stOk 0 (leBytes 32 mask)) ∧
      t = ((launchEntries (bodyOf rq)).filter (fun e => e.1 != 0)).foldl
        (fun u e => tell u e.1 (leBytes 2 0x0085 ++ leBytes 2 e.2.1 ++ leBytes 8 (leAt (bodyOf rq) 0 8) ++ leBytes 8 e.2.2.1))
        ((takenBy s 0x0085 rq).updFab (fun f => { f with
          launches := s.fab.launches ++ ((launchEntries (bodyOf rq)).filter (fun e => e.1 == 0)).map (fun e =>
            { when_ := BitVec.ofNat 64 (leAt (bodyOf rq) 0 8), queue := e.2.1, value := BitVec.ofNat 64 e.2.2.1, port := rq.port }) })) ∧
      mask = ((late.filter (fun d => d != 0 && (launchEntries (bodyOf rq)).any (fun e => e.1 == d))).eraseDups).foldl
        (fun n d => n + 2 ^ d) 0 ∧
      t.tab = s.tab ∧ t.far = s.far ∧ t.cores = s.cores ∧ t.dev = s.dev ∧
      t.fab.launches = s.fab.launches ++ ((launchEntries (bodyOf rq)).filter (fun e => e.1 == 0)).map (fun e =>
        { when_ := BitVec.ofNat 64 (leAt (bodyOf rq) 0 8), queue := e.2.1, value := BitVec.ofNat 64 e.2.2.1, port := rq.port }))

/-- FAB_FORWARD, FAB_LINK and FAB_PAIR complete with the effect their rules give. (14_fabric.md: R360, 14_fabric.md:
  R361, 14_fabric.md: R363, 14_fabric.md: R371). -/
def Obligations.ForwardedAndLinkedAndPairedJobs : Prop :=
  (∀ (rq : MbxReq) (answer : List Byte) (s : State) (d code : Nat) (page body : List Byte),
    accepts s (.fabForward rq answer) = true → d = leAt (bodyOf rq) 0 1 → (liveWorker s d).isSome = true →
    page = (bodyOf rq).drop 0x20 → code = leAt page 0 2 → body = (page.drop 0x20).take (leAt page 2 2) →
    embeddedRefusal (takenBy s 0x0082 rq) rq.port code body = none →
    exec (.fabForward rq answer) s = .next
      (respondAs (noteDestroyed (takeCopy (recordTag (match embeddedData (takenBy s 0x0082 rq) rq.port code body with
          | some bytes => sendTo (tell (takenBy s 0x0082 rq) d page) d classData bytes
          | none => tell (takenBy s 0x0082 rq) d page) rq.port d code body answer) rq.port code body answer) d code body answer)
        0x0082 rq stOk 0 ((answer.take (0x20 + leAt answer 2 2)).take 4064))) ∧
  (∀ (rq : MbxReq) (answer : List Byte) (s : State) (d code st detail : Nat) (page body : List Byte),
    accepts s (.fabForward rq answer) = true → d = leAt (bodyOf rq) 0 1 → (liveWorker s d).isSome = true →
    page = (bodyOf rq).drop 0x20 → code = leAt page 0 2 → body = (page.drop 0x20).take (leAt page 2 2) →
    embeddedRefusal (takenBy s 0x0082 rq) rq.port code body = some (st, detail) →
    exec (.fabForward rq answer) s = .next (respondAs s 0x0082 rq stOk 0 (pageBytes code (leAt page 4 4) st detail []))) ∧
  (∀ (rq : MbxReq) (answers : List (Nat × Nat × List Nat × List Nat)) (s : State), accepts s (.fabLink rq answers) = true →
    linkFault s answers (leAt (bodyOf rq) 0 1) (linkEntries (bodyOf rq)) = none →
    exec (.fabLink rq answers) s = .next (respondAs ((linkEntries (bodyOf rq)).foldl (fun u e =>
      if e.1 = 0 then updJob u e.2.1 (fun j => { j with link := (some
        ⟨leAt (bodyOf rq) 0 1, (linkEntries (bodyOf rq)).map (fun e => (e.1, e.2.1))⟩) })
      else tell u e.1 (leBytes 2 0x0086 ++ leBytes 2 e.2.1 ++ bodyOf rq)) ((takenBy s 0x0086 rq).updFab (fun f => { f with
        linked := s.fab.linked ++ ((linkEntries (bodyOf rq)).filter (fun e => e.1 != 0)).map (fun e => (e.1, e.2.1)) })))
      0x0086 rq stOk 0 [])) ∧
  (∀ (rq : MbxReq) (s : State) (j : Job) (port : Nat), accepts s (.fabPair rq) = true →
    findJob s (leAt (bodyOf rq) 0 2) = some j → port = field (leAt (bodyOf rq) 4 1) 0 4 → (s.worgon port).role = 3 →
    j.pair = none →
    exec (.fabPair rq) s = .next (respondAs (transmit { takenBy s 0x0087 rq with
        tab := { s.tab with jobs := s.tab.jobs.map (fun x => if x.id == j.id then
          { x with pair := (some { peerJob := leAt (bodyOf rq) 2 2, port := port,
                                   fromSerial := if j.peerPaired then some j.nextSerial.toNat else none }) } else x) } }
        port classCtrl (leBytes 2 0x0087 ++ leBytes 2 (leAt (bodyOf rq) 2 2))) 0x0087 rq stOk 0 []))

/-- LAUNCH_DOORBELL_APPLY, COMPARISON_RECORD, PEER_LINK_TIMEOUT, WORKER_LOSS_TIMEOUT, WORKER_REFUSAL, FLIT_RECEIVE,
  GCOUNT_SYNC act as their rules say. (14_fabric.md: R354, 14_fabric.md: R365, 14_fabric.md: R366, 14_fabric.md: R367,
  14_fabric.md: R368, 14_fabric.md: R370, 14_fabric.md: R372, 14_fabric.md: R374, 19_package.md: R494). -/
def Obligations.FabricEventsComplete : Prop :=
  (∀ (queue : Nat) (s : State), queue < 8192 →
    exec (.launchDoorbellApply queue) s = .next
      ((s.fab.launches.filter (fun l => l.queue == queue && decide (l.when_.toNat ≤ s.now.toNat))).foldl applyLaunch
        { s with fab := { s.fab with launches := (s.fab.launches.filter
          (fun l => !(l.queue == queue && decide (l.when_.toNat ≤ s.now.toNat)))) } })) ∧
  (∀ (job serial block : Nat) (bcheck : W32) (s : State) (j : Job) (p : Pairing), findJob s job = some j → j.pair = some p →
    j.diverged = false → (s.worgon p.port).up = true →
    (∀ x ∈ s.tab.jobs, x.id = job → x = j) →
    exec (.comparisonRecord job serial block bcheck) s = .next (settlePair (updJob s job (fun x =>
      { x with pair := (some { p with
        theirs := if p.theirs.length < 1048576 then p.theirs ++ [⟨serial, block, bcheck⟩] else p.theirs
        last := some serial
        ended := (match p.last with
          | some n => if n = serial ∨ n ∈ p.ended then p.ended else p.ended ++ [n]
          | none => p.ended) }) })) job)) ∧
  (∀ (job : Nat) (s : State) (j : Job) (p : Pairing), findJob s job = some j → j.diverged = false → j.pair = some p →
    10000000 ≤ s.since (s.worgon p.port).lastValid →
    exec (.peerLinkTimeout job) s = .next (postBoth (updJob s job (fun j => { j with diverged := true }))
      { code := 0x0013, job := job, arg1 := 2 ^ 64 - 1 })) ∧
  (∀ (device : Nat) (s : State) (w : Worker), liveWorker s device = some w → s.dev.role = 1 → silent s w = true →
    exec (.workerLossTimeout device) s = .next (((sortBy (fun d => d) (subtree s device)).filter
      (fun d => (liveWorker s d).isSome)).foldl loseWorker s)) ∧
  (∀ (s : State), s.dev.role = 2 → exec (.workerRefusal false) s = .next (forgetJobs s)) ∧
  (∀ (s : State), s.dev.role = 2 → exec (.workerRefusal true) s = .next (refusedAtEnum s)) ∧
  (∀ (k : Fin 12) (f : Flit) (s : State), (s.worgon k.val).up = true →
    exec (.flitReceive k f) s = .next (if f.crc = crc32c (coveredBytes f) then acceptFlit s k.val f
      else dropFlit s k.val)) ∧
  (∀ (t1 t2 t3 t4 : W64) (s : State), s.dev.role = 2 → s.fab.devNumber ≠ 0 → s.fab.enumerated = true →
    exec (.gcountSync t1 t2 t3 t4) s = .next { s with fab := { s.fab with
      correction := (((t2.toNat : Int) - t1.toNat) + ((t3.toNat : Int) - t4.toNat)) / 2
      offset := (((t2.toNat : Int) - t1.toNat) + ((t3.toNat : Int) - t4.toNat)) / 2 } }) ∧
  (∀ (t1 t2 t3 t4 g : W64) (s : State), s.dev.role = 2 → s.fab.devNumber ≠ 0 → s.fab.enumerated = false →
    g = t3 + BitVec.ofNat 64 (((t4 - t1).toNat - (t3 - t2).toNat) / 2) →
    exec (.gcountSync t1 t2 t3 t4) s = .next { s with
      h0 := { s.h0 with gcount := g }, h1 := { s.h1 with gcount := g }
      fab := { s.fab with enumerated := true, correction := 0, offset := 0 } })

/-- MBX_ACK, EVT_HEAD, PWR_CAP, FAR_WINDOW and REGISTER_WRITE complete with the effect of the register they write.
  (13_host.md: R316, 13_host.md: R317, 13_host.md: R321, 20_registers.md: R501, 20_registers.md: R510,
  20_registers.md: R511, 20_registers.md: R513, 18_power.md: R471). -/
def Obligations.RegisterWritesHaveTheirEffect : Prop :=
  (∀ (p : Port) (value : W64) (s : State), (s.port p).linkUp = true →
    ∃ t, exec (.mbxAck p value) s = .next t ∧
      (∀ m, m < 64 → getMailbox t p m =
        if bit value.toNat m = true ∧ (getMailbox s p m).st = .done then {} else getMailbox s p m) ∧
      { t with pa := s.pa, pb := s.pb } = s) ∧
  (∀ (p : Port) (value : W64) (s : State) (head : Nat), RegionsRespond s p → (s.port p).evtSet = true →
    head = value.toNat % 2 ^ 16 → head < 2 ^ (s.port p).evtLog2 →
    ringDist (2 ^ (s.port p).evtLog2) (s.port p).evtHead head ≤ ringDist (2 ^ (s.port p).evtLog2) (s.port p).evtHead (s.port p).evtTail →
    exec (.evtHead p value) s = .next (flushPort (s.updPort p (fun ps => { ps with evtHead := head })) p)) ∧
  (∀ (p : Port) (value : W32) (s : State), Responds s p →
    exec (.pwrCap p value) s = .next { s with pwr := { s.pwr with capW := max 600 (min (value.toNat % 2 ^ 16) s.pwr.cfgCap) } }) ∧
  (∀ (p : Port) (value : W64) (s : State), Responds s p →
    exec (.farWindow p value) s = .next (s.updPort p (fun ps => { ps with
      farWindow := BitVec.ofNat 8 (value.toNat / 2 ^ 32 % 2 ^ 8) }))) ∧
  (∀ (p : Port) (m off : Nat) (data : List Byte) (s : State), (s.port p).linkUp = true → m < 64 → off + data.length ≤ 4096 →
    exec (.registerWrite (.bar0 p) (0x80000 + 8192 * m + off) data) s = .next (s.updPort p (fun ps => { ps with
      reqPages := memWriteN ps.reqPages (4096 * m + off) data }))) ∧
  (∀ (p : Port) (data : List Byte) (s : State), Responds s p → data.length = 4 →
    exec (.registerWrite (.bar0 p) 0x0A00 data) s = .next (s.updPort p (fun ps => { ps with
      errSummary := ps.errSummary &&& ~~~(BitVec.ofNat 20 (leNat data)) }))) ∧
  (∀ (p : Port) (data : List Byte) (s : State), (s.port p).linkUp = true → data.length = 4 → bit (leNat data) 0 = true →
    exec (.registerWrite (.bar0 p) 0x0108 data) s = .next (s.updHub p.hub (fun h => { h with pwrfail := false }))) ∧
  (∀ (p : Port) (offset : Nat) (data : List Byte) (s : State), offset + data.length ≤ 2 ^ 21 →
    (offset < 0x80000 ∨ 0x100000 ≤ offset) → ¬ ((data.length = 4 ∨ data.length = 8) ∧ offset % data.length = 0) →
    exec (.registerWrite (.bar0 p) offset data) s = .next s) ∧
  (∀ (h : Hub) (data : List Byte) (s : State), (s.hub h).phase ≠ .porHeld → data.length = 4 →
    exec (.registerWrite (.sideband h) 0 data) s = .next (s.updHub h (fun x => { x with
      cfgDone := x.cfgDone && !bit (leNat data) 6, thermAlert := x.thermAlert && !bit (leNat data) 7 })))

/-- BAR2_READ, BAR2_WRITE, GCOUNT_LOW_READ and GCOUNT_HIGH_READ complete as their rules say. (13_host.md: R318,
  17_security.md: R446, 20_registers.md: R507, 20_registers.md: R509, 12_memory.md: R298, 12_memory.md: R312). -/
def Obligations.Bar2AndGcountReadsComplete : Prop :=
  (∀ (p : Port) (offset length : Nat) (s : State), offset + length ≤ 2 ^ 32 → 4096 < length →
    exec (.bar2Read p offset length) s = .next s) ∧
  (∀ (p : Port) (offset length base : Nat) (s : State), RegionsRespond s p → offset + length ≤ 2 ^ 32 → length ≤ 4096 →
    base = (s.port p).farWindow.toNat * 2 ^ 32 + offset →
    ∃ t : State, exec (.bar2Read p offset length) s = .next (t.updPort p (fun ps => { ps with
        lastRead := (piecesOf base (zeros length)).flatMap (fun q =>
          if bar2Reaches s p (q.1 * blockBytes) then ((s.far.readBlock q.1).1.drop q.2.1).take q.2.2.length else q.2.2)
        windowMiss := if (blocksOf base length).any (fun b => !bar2Reaches s p (b * blockBytes)) then satInc ps.windowMiss else ps.windowMiss })) ∧
      t = touchBlocks (raceReads s p base length) false ((blocksOf base length).filter (fun b => bar2Reaches s p (b * blockBytes))) ∧
      (∃ ctrls dies, t = { s with far := { s.far with ctrls := ctrls }, dies := dies, tab := (raceReads s p base length).tab }) ∧
      (s.tab.queues.all (fun q => q.cmds.all (fun c => c.phase != .running || c.writes.isEmpty)) = true → t.tab = s.tab)) ∧
  (∀ (p : Port) (offset base : Nat) (data : List Byte) (s : State), RegionsRespond s p → offset + data.length ≤ 2 ^ 32 →
    base = (s.port p).farWindow.toNat * 2 ^ 32 + offset →
    ∃ t : State, t = (piecesOf base data).foldl (fun t q => if bar2Reaches s p (q.1 * blockBytes) then hostWriteBlock t q.1 q.2.1 q.2.2 else t)
        (touchBlocks s true ((blocksOf base data.length).filter (fun b => bar2Reaches s p (b * blockBytes)))) ∧
      exec (.bar2Write p offset data) s = .next
        (if (blocksOf base data.length).any (fun b => !bar2Reaches s p (b * blockBytes))
         then t.updPort p (fun ps => { ps with windowMiss := satInc ps.windowMiss }) else t)) ∧
  (∀ (p : Port) (offset base b : Nat) (data : List Byte) (s : State), RegionsRespond s p → offset + data.length ≤ 2 ^ 32 →
    data ≠ [] → base = (s.port p).farWindow.toNat * 2 ^ 32 + offset → b = base / 4096 → base % 4096 + data.length ≤ 4096 →
    bar2Reaches s p (b * blockBytes) = true → (s.far.group (b % 2)).onLost (b / 2) = false →
    s.tab.queues.any (fun q => q.cmds.any (·.touches (base, data.length, 0))) = false →
    ∃ t, exec (.bar2Write p offset data) s = .next t ∧ t.far.stored b = splice (mergeBase s.far b) (base % 4096) data ∧
      t.far.tag b = { st := .opened } ∧ (∀ c, c ≠ b → t.far.stored c = s.far.stored c ∧ t.far.tag c = s.far.tag c) ∧
      t.tab = s.tab ∧ t.cores = s.cores ∧ t.near = s.near ∧ t.key = s.key ∧ t.pa = s.pa ∧ t.pb = s.pb) ∧
  (∀ (p : Port) (s : State), (s.port p).linkUp = true →
    exec (.gcountLowRead p) s = .next (s.updPort p (fun ps => { ps with
      gcShadow := some (BitVec.ofNat 32 ((s.hub p.hub).gcount.toNat / 2 ^ 32 % 2 ^ 32))
      lastRead := leBytes 4 ((s.hub p.hub).gcount.toNat % 2 ^ 32) }))) ∧
  (∀ (p : Port) (s : State) (h : W32), (s.port p).linkUp = true → (s.port p).gcShadow = some h →
    exec (.gcountHighRead p) s = .next (s.updPort p (fun ps => { ps with gcShadow := none, lastRead := leBytes 4 h.toNat }))) ∧
  (∀ (p : Port) (s : State), (s.port p).linkUp = true → (s.port p).gcShadow = none →
    exec (.gcountHighRead p) s = .next (s.updPort p (fun ps => { ps with gcShadow := none
                                                                         lastRead := leBytes 4 ((s.hub p.hub).gcount.toNat / 2 ^ 32 % 2 ^ 32) })))

/-- POR, HRST, RAIL_SETTLE, PWRFAIL and LEAD_ABSENT_TIMEOUT have the effect their rules give. (19_package.md: R481,
  19_package.md: R485, 19_package.md: R486, 19_package.md: R487, 19_package.md: R488, 19_package.md: R489). -/
def Obligations.ResetAndSupplyInputsAct : Prop :=
  (∀ (hub : Hub) (strap : Straps) (railsOk sris : Bool) (s : State), (s.hub hub).phase = .porHeld →
    (s.hub hub.other).phase = .porHeld →
    exec (.porRelease hub strap railsOk sris) s = .next ((romRoles { s with dev := { s.dev with role := strap.role, sbAddr := strap.sbAddr } }).updHub hub (fun h =>
      { h with phase := if railsOk then .obtain else .railHold, sris := sris, railsOk := railsOk }))) ∧
  (∀ (hub : Hub) (strap : Straps) (railsOk sris : Bool) (s : State), (s.hub hub).phase = .porHeld →
    (s.hub hub.other).phase ≠ .porHeld →
    exec (.porRelease hub strap railsOk sris) s = .next (s.updHub hub (fun h =>
      { h with phase := if railsOk then .obtain else .railHold, sris := sris, railsOk := railsOk }))) ∧
  (∀ (hub : Hub) (s : State), (s.hub hub).phase = .railHold →
    exec (.railSettle hub) s = .next (s.updHub hub (fun h => { h with phase := .obtain, railsOk := true }))) ∧
  (∀ (hub : Hub) (s : State), (s.hub hub).phase ≠ .porHeld → (s.hub hub).phase ≠ .railHold →
    exec (.hrst hub) s = .next ((resetHub s hub .obtain true).updHub hub (fun h =>
      { h with hrstCount := if h.hrstCount = 0xFFFF then h.hrstCount else h.hrstCount + 1 }))) ∧
  (∀ (hub : Hub) (s : State), (s.hub hub).phase ≠ .porHeld →
    ∃ u, exec (.porAssert hub) s = .next u ∧
      (let v := (resetHub s hub .porHeld true).updHub hub (fun h => { h with
         gcount := 0, pwrfail := false, recordOk := false, thermLevel := 0, sris := false, hrstCount := 0, cfgBuf := [], cfgPtr := 0
         cfgDone := false, cfgStatus := 0, cfgDetail := 0, thermAlert := false })
       u = if (v.hub hub.other).phase = .porHeld then losePower (bothHeld v) else v) ∧
      (u.hub hub).phase = .porHeld ∧ (u.hub hub).gcount = 0 ∧
      (u.hub hub).protLock = 0 ∧ (u.hub hub).hrstCount = 0 ∧ (u.hub hub).pwrfail = false ∧ (u.hub hub).meas1 = 0 ∧
      (u.hub hub).meas0 = Config.romDigest) ∧
  (∀ (s : State), exec .pwrfail s = .next { s with
    h0 := { s.h0 with pwrfail := true }, h1 := { s.h1 with pwrfail := true }
    record := { s.record with stopped := true, marker := none } }) ∧
  (∀ (s : State) (t : W64), s.dev.lead = none → s.dev.noLeadSince = some t → 1000000 ≤ s.since t →
    ∃ u, exec .leadAbsentTimeout s = .next u ∧
      u = (powerUpTables ((List.range 8).foldl powerOffDie s)).updDev (fun d => { d with cpu := .idle, dstate := 1 }) ∧ u.tab = {} ∧ u.cores = [] ∧ u.far.owners = [] ∧ u.near.pieces = [] ∧
      u.dev.cpu = .idle ∧ u.dev.dstate = 1)

/-- PORT_DOWN, PERST, PORT_UP, HUB_FAULT, HEARTBEAT_TIMEOUT and DEBUG_PORT_HALT have the effect their rules give.
  (13_host.md: R313, 13_host.md: R346, 15_faults.md: R384, 16_service.md: R420, 16_service.md: R423, 17_security.md:
  R443, 17_security.md: R444, 19_package.md: R488). -/
def Obligations.PortsAndHubFaultsAct : Prop :=
  (∀ (i : Port → Instr) (port : Port) (s : State), (i = .portDown ∨ i = .perst) → (s.port port).linkUp = true →
    exec (i port) s = .next (postBoth (noteFault (s.updPort port (fun ps => { ps with linkUp := false, linkGen := 0, linkLanes := 0, ide := false }))
      0x0E port.num) { code := 0x0003, arg0 := port.num })) ∧
  (∀ (i : Port → Instr) (port : Port) (s : State), (i = .portDown ∨ i = .perst) → (s.port port).linkUp = false →
    exec (i port) s = .next s) ∧
  (∀ (port : Port) (gen lanes : Nat) (s : State), (s.port port).linkUp = false → (s.hub port.hub).counting = true → s.dev.role ≠ 2 →
    1 ≤ gen → gen ≤ 6 → (lanes = 1 ∨ lanes = 2 ∨ lanes = 4 ∨ lanes = 8) →
    ∃ t u, exec (.portUp ⟨port, gen, lanes⟩) s = .next ((u.tab.queues.map (·.num)).foldl fetchAll u) ∧
      t = s.updPort port (fun ps => { ps with linkUp := true, wasUp := true, linkGen := gen, linkLanes := lanes }) ∧
      u = flushPort (if (s.port port).wasUp then postBoth t { code := 0x0004, arg0 := port.num } else t) port) ∧
  (∀ (hub : Hub) (s : State), (s.hub hub).svc = .inService →
    exec (.hubFault hub) s = .next ((hubLeaves (portGoesDown s hub.port) hub true).updHub hub
      (fun h => { h with phase := .out }))) ∧
  (∀ (hub : Hub) (s : State), (s.hub hub).svc = .inService →
    exec (.heartbeatTimeout hub) s = .next ((hubLeaves (portGoesDown s hub.port) hub true).updHub hub
      (fun h => { h with phase := .out, isolated := true }))) ∧
  (∀ (hub : Hub) (step : Bool) (s : State), (s.hub hub).protCtrl.toNat / 4 % 4 = 2 →
    exec (.debugPortHalt hub step) s = .next (s.updHub hub (fun h => { h with
      halted := true, steps := if step then h.steps + 1 else h.steps }))) ∧
  (∀ (hub : Hub) (step : Bool) (s : State), (s.hub hub).protCtrl.toNat / 4 % 4 ≠ 2 →
    exec (.debugPortHalt hub step) s = .next s)

/-- HUB_JOIN, JOIN_TIMEOUT and COMPUTE_POWER_UP_STEP have the effect their rules give. (17_security.md: R442,
  19_package.md: R486, 19_package.md: R490, 19_package.md: R491). -/
def Obligations.JoinAndPowerUpAct : Prop :=
  (∀ (s : State), s.dev.lead = none → s.h0.phase = .locked → h0InTime s = true →
    exec .hubJoin s = .next (firstLead s .h0)) ∧
  (∀ (s : State), s.dev.lead = none → s.h0.phase = .locked → s.h1.phase = .locked → h0InTime s = false →
    exec .hubJoin s = .next (firstLead s .h1)) ∧
  (∀ (s : State) (l : Hub), s.dev.lead = some l → (s.hub l.other).phase = .locked → (s.hub l.other).powerUp = true →
    (s.hub l.other).rejoin = none → exec .hubJoin s = .next (joinOther s l.other)) ∧
  (∀ (s : State) (t : Nat), s.dev.lead = none → s.h1.lockedAt = some t → s.h1.phase = .locked → s.h0.phase ≠ .locked →
    t + 10000000 ≤ s.record.aonTicks → exec .joinTimeout s = .next (firstLead s .h1)) ∧
  (∀ (ok : Bool) (failed : List Nat) (s : State) (l : Hub), s.dev.lead = some l →
    exec (.computePowerUpStep ok failed) s = .next (match s.dev.cpu with
      | .railCheck =>
        if ok then { s with dev := { s.dev with cpu := .islands } }
        else
          let f := freeBytes { s with dev := { s.dev with cpu := .railFail } } 8
          postBoth (append f.2 4 (f.1.take 2 ++ zeros 2 ++ f.1.drop 4)) { code := 0x0002, arg0 := 1 }
      | .islands => { s with dev := { s.dev with cpu := .training } }
      | .training =>
        (((failed.filter (fun k => decide (16 ≤ k) && decide (k < 20))).foldl (fun s k => loseNearStack s (k - 16))
          ((failed.filter (fun k => decide (k < 16))).foldl loseFarStack s)).updNear (fun n => { n with trained := true })).updDev
          (fun d => { d with cpu := .regions })
      | .regions => (powerRegions s).updDev (fun d => { d with cpu := .selfTest })
      | .selfTest => (noteTests s failed (selfTestAll s failed)).updDev (fun d => { d with cpu := .mapping })
      | .mapping => enterReady (mapAll s)
      | .idle | .up | .railFail => s))

/-- INTERRUPTING_SLICE_START runs the first slice no sooner than 50 us after the last; SLICE_ABANDON retries, and ends
  the action at the third. (15_faults.md: R386, 16_service.md: R409, 16_service.md: R410, 15_faults.md: R384,
  16_service.md: R420, 16_service.md: R421). -/
def Obligations.SlicesAreSpacedAndBounded : Prop :=
  (∀ (s : State) (k : Slice) (r : List Slice), s.dev.slices = k :: r →
    (s.dev.lastSliceEnd = none ∨ ∃ t, s.dev.lastSliceEnd = some t ∧ 5000 ≤ s.since t) →
    ∃ v u : State, v = { s with dev := { s.dev with slices := r } } ∧
      exec .interruptingSliceStart s = .next (u.updDev (fun d => { d with lastSliceEnd := some u.now })) ∧
      u = (match k.kind with
        | .takeover h => giveLead v h.other
        | .protChange port box ctrl lock base svn => respondTo (applyProt v ctrl lock base svn) port box stOk 0
            (match svn with | some n => leBytes 4 n | none => [])
        | .farSwitch n => loseFarStack v n
        | .island d => loseIsland v d
        | .die d => loseDie v d
        | .rootSwitch h => rootLeaves v h
        | .nearSwitch n => loseNearStack v n
        | .takeBack h => rootReturns v h
        | .swap =>
          let w := match swapTo v with | some h => giveLead v h | none => v
          match k.box with
          | some b => respondTo w k.port b (if (swapTo v).isSome then stOk else stInUse) 0 []
          | none => w)) ∧
  (∀ s : State, s.dev.slices = [] → exec .interruptingSliceStart s = .next s ∧
    exec .sliceAbandon s = .next { s with dev := { s.dev with late := s.dev.late + 1 } }) ∧
  (∀ (s : State) (k : Slice) (r : List Slice) (t : W64), s.dev.slices = k :: r → s.dev.lastSliceEnd = some t →
    s.since t < 5000 → exec .interruptingSliceStart s = .next s ∧ exec .sliceAbandon s = .next s) ∧
  (∀ (s : State) (k : Slice) (r : List Slice), s.dev.slices = k :: r →
    (s.dev.lastSliceEnd = none ∨ ∃ t, s.dev.lastSliceEnd = some t ∧ 5000 ≤ s.since t) → k.abandons + 1 < 3 →
    exec .sliceAbandon s = .next { s with dev := { s.dev with
      lastSliceEnd := some s.now, slices := { k with abandons := k.abandons + 1 } :: r } }) ∧
  (∀ (s : State) (k : Slice) (r : List Slice), s.dev.slices = k :: r →
    (s.dev.lastSliceEnd = none ∨ ∃ t, s.dev.lastSliceEnd = some t ∧ 5000 ≤ s.since t) → 3 ≤ k.abandons + 1 →
    ∃ v : State, v = { s with dev := { s.dev with lastSliceEnd := some s.now, slices := r } } ∧
    (∀ b, k.kind = .swap → k.box = some b → exec .sliceAbandon s = .next (respondTo v k.port b stAborted 0x0D [])) ∧
    (∀ port box ctrl lock base svn, k.kind = .protChange port box ctrl lock base svn →
      exec .sliceAbandon s = .next (respondTo v port box stAborted 0x0D [])) ∧
    (∀ h, k.kind = .takeBack h → k.box = none → exec .sliceAbandon s = .next v) ∧
    (∀ d, k.kind = .die d → k.byCommand = false →
      exec .sliceAbandon s = .next { v with dev := { v.dev with slices := { kind := .island d } :: r } }) ∧
    (∀ d, k.kind = .island d → k.byCommand = false → exec .sliceAbandon s = .next { v with dev := { v.dev with
      slices := { kind := .farSwitch (2 * d) } :: { kind := .farSwitch (2 * d + 1) } :: r } }))

/-- POWER_STEP and THERMAL_STEP complete; k_cap moves by at most 1 and stays from 2 to 16, k_therm too, and a reading
  over the cap lowers k_cap. (18_power.md: R470, 18_power.md: R472, 18_power.md: R474). -/
def Obligations.PowerControllerStepsStayInRange : Prop :=
  (∀ (watts amps : Nat) (s : State), s.dev.lead ≠ none → (∀ x ∈ s.pwr.samples, 1000 ≤ s.since x.1) →
    2 ≤ s.pwr.kCap → s.pwr.kCap ≤ 16 →
    ∃ t, exec (.powerStep watts amps) s = .next t ∧ 2 ≤ t.pwr.kCap ∧ t.pwr.kCap ≤ 16 ∧
      s.pwr.kCap ≤ t.pwr.kCap + 1 ∧ t.pwr.kCap ≤ s.pwr.kCap + 1 ∧ t.pwr.samples = s.pwr.window s.now watts ∧
      t.pwr.powerW = ((s.pwr.window s.now watts).map (·.2)).sum / (s.pwr.window s.now watts).length ∧
      (s.pwr.capW < watts ∨ min 15000 (9 * s.pwr.phases * s.pwr.phaseAmps) < 10 * amps →
        t.pwr.kCap = max 2 (s.pwr.kCap - 1)) ∧
      t.far = s.far ∧ t.near = s.near ∧ t.tab = s.tab ∧ t.cores = s.cores ∧ t.dies = s.dies ∧ t.phys = s.phys) ∧
  (∀ (die : Fin 8) (s : State), (s.die die.val).hot = true → 10000 ≤ s.since (s.die die.val).thermSince →
    2 ≤ (s.die die.val).kTherm → (s.die die.val).kTherm ≤ 16 →
    ∃ t, exec (.thermalStep die) s = .next t ∧ (t.die die.val).kTherm = max 2 ((s.die die.val).kTherm - 1) ∧
      (t.die die.val).thermSince = s.now ∧ t.far = s.far ∧ t.tab = s.tab ∧ t.cores = s.cores ∧ t.phys = s.phys) ∧
  (∀ (die : Fin 8) (s : State), (s.die die.val).hot = false → (s.die die.val).cool = true →
    100000 ≤ s.since (s.die die.val).thermSince → 2 ≤ (s.die die.val).kTherm → (s.die die.val).kTherm ≤ 16 →
    ∃ t, exec (.thermalStep die) s = .next t ∧ (t.die die.val).kTherm = min 16 ((s.die die.val).kTherm + 1) ∧
      (t.die die.val).thermSince = s.now ∧ t.far = s.far ∧ t.tab = s.tab ∧ t.cores = s.cores ∧ t.phys = s.phys)

/-- Every well-formed command of the 199 rows answers a next state, whatever the state; no command at all is refused.
  (00_scope.md, 12_memory.md: R294, 13_host.md: R330, 18_power.md: R477). -/
def Obligations.WellFormedCommandsAnswerANextState : Prop :=
  (∀ (i : Instr) (s : State), i.wf = true → ∃ t, exec i s = .next t) ∧
  (∀ (i : Instr) (s : State) (r : Refusal), exec i s ≠ .refused r)

/-- A command that names a queue, core, lane, sensor, stack, path or address the device does not have stops under a
  name of its own (the model's choice). (12_memory.md: R294, 12_memory.md: R300, 13_host.md: R318, 13_host.md: R330,
  18_power.md: R477, 01_architecture.md: R13). -/
def Obligations.CommandsNamingNoUnitStop : Prop :=
  (∀ (p : Port) (q : Nat) (v : W64) (s : State), 8192 ≤ q →
    exec (.sqTail p q v) s = .fault .noSuchUnit ∧ exec (.cqHead p q v) s = .fault .noSuchUnit) ∧
  (∀ (c : Nat) (s : State), 512 ≤ c →
    exec (.taskPlace c) s = .fault .noSuchUnit ∧ exec (.scalarInstruction c) s = .fault .noSuchUnit ∧
      exec (.fold c) s = .fault .noSuchUnit ∧ exec (.wait c) s = .fault .noSuchUnit) ∧
  (∀ (p : Nat) (s : State), 576 ≤ p → exec (.coreFault p) s = .fault .noSuchUnit ∧ exec (.pllLock p) s = .fault .noSuchUnit) ∧
  (∀ (k : Fin 12) (l : Nat) (s : State), 9 ≤ l → exec (.linkLaneFail k l) s = .fault .noSuchUnit) ∧
  (∀ (k : Nat) (s : State), 20 ≤ k → exec (.selfRefreshEntry k) s = .fault .noSuchUnit) ∧
  (∀ (n : Nat) (r : W16) (s : State), sensorWf n = false → exec (.sensorSample n r) s = .fault .noSuchUnit) ∧
  (∀ (p : BeatPath) (e : BitVec 72) (s : State), p.wf = false → exec (.beatError ⟨p, e⟩) s = .fault .noSuchUnit) ∧
  (∀ (p : Port) (o n : Nat) (s : State), 2 ^ 32 < o + n → exec (.bar2Read p o n) s = .fault .noSuchUnit) ∧
  (∀ (c a : Nat) (v : W64) (s : State), farWordWf a = false →
    exec (.fadd64 ⟨c, a⟩ v) s = .fault .noMemory ∧ exec (.set64 a v) s = .fault .noMemory) ∧
  (∀ (b o : Nat) (d : List Byte) (s : State), farBlockWf b = false ∨ 4096 < o + d.length →
    exec (.farBlockWrite b o d) s = .fault .noMemory)

/-- SQ_TAIL and CQ_HEAD move the ring indices and fetch; a doorbell the rules refuse posts QUEUE_DOORBELL; one during
  a takeover is latched. (13_host.md: R331, 13_host.md: R338, 20_registers.md: R512). -/
def Obligations.QueueDoorbellsMoveTheRings : Prop :=
  (∀ (p : Port) (n : Nat) (v : W64) (s : State) (q : Queue), n < 8192 → (s.port p).linkUp = true → (s.hub p.hub).inRom = false →
    portDstate s p ≠ 0 → (s.hub p.hub).svc ≠ .out → servesMailboxes s p = true → ideBlocks s p = false → takeoverDue s = false → findQueue s n = some q → q.st ≠ .cancelled →
    (bit v.toNat 32 || bit v.toNat 33) = true → doorbellBad q (.port p) v = false →
    exec (.sqTail p n v) s = .next (fetchAll (updQueue s n (fun q => q.rung v)) n) ∧
      exec (.cqHead p n v) s = .next (fetchAll (updQueue s n (fun q => q.rung v)) n)) ∧
  (∀ (p : Port) (n : Nat) (v : W64) (s : State) (q : Queue), n < 8192 → (s.port p).linkUp = true → (s.hub p.hub).inRom = false →
    portDstate s p ≠ 0 → (s.hub p.hub).svc ≠ .out → servesMailboxes s p = true → ideBlocks s p = false → takeoverDue s = false → findQueue s n = some q → q.st ≠ .cancelled →
    (bit v.toNat 32 || bit v.toNat 33) = true → doorbellBad q (.port p) v = true →
    exec (.sqTail p n v) s = .next (postTo s p { code := 0x0007, job := q.job, queue := n, arg0 := v.toNat % 2 ^ 32 })) ∧
  (∀ (p : Port) (n : Nat) (v : W64) (s : State), n < 8192 → (s.port p).linkUp = true → (s.hub p.hub).inRom = false →
    portDstate s p ≠ 0 → (s.hub p.hub).svc ≠ .out → servesMailboxes s p = true → ideBlocks s p = false → takeoverDue s = true →
    exec (.sqTail p n v) s = .next { s with dev := { s.dev with latched := s.dev.latched ++ [(p, n, v)] } })

/-- RECORD_FAULT stops writing, RECORD_RECOVERED writes what was held, PMB_ALERT changes the phases and logs the
  reading. (15_faults.md: R384, 16_service.md: R433, 18_power.md: R473, 19_package.md: R499, 18_power.md: R470). -/
def Obligations.RecordDieAndRegulatorFaultsAct : Prop :=
  (∀ s : State, s.record.writable = true →
    ∃ t, t = noteFault { s with
      record := { s.record with writable := false }, h0 := { s.h0 with recordOk := false }, h1 := { s.h1 with recordOk := false } } 0x0F 0 ∧
    exec .recordFault s = .next (postBoth t { code := 0x0002, arg0 := t.dev.dstate })) ∧
  (∀ (s : State) (r : RecordDie), s.record.writable = false →
    r = { ((sortBy (·.seq) s.record.held).foldl RecordDie.place { s.record with held := [] }) with writable := true } →
    ∃ t, exec .recordRecovered s = .next t ∧
      (t.record.log = (if r.droppedNow = 0 ∨ r.stopped = true then r
         else r.write kindLost s.now (leBytes 4 r.droppedNow ++ zeros 4 ++ leBytes 8 r.firstDropped)).log) ∧
      t.record.writable = true ∧ t.record.held = [] ∧ t.record.droppedNow = 0 ∧
      t.h0.recordOk = s.h0.image.isSome ∧ t.h1.recordOk = s.h1.image.isSome ∧
      t.tab = s.tab ∧ t.far = s.far ∧ t.cores = s.cores) ∧
  (∀ (n : Nat) (r : W32) (s : State) (l : Hub), s.dev.lead = some l → n ≤ 64 → n ≠ s.pwr.phases →
    exec (.pmbAlert n r) s = .next (logPower ((if n < s.pwr.phases then noteFault s 0x10 0 else s).updPwr
      (fun w => { w with phases := n })) 0 r))

/-- SLEEP_TIMEOUT, PLL_LOCK, RUN_ENTRY, RUN_EXIT, NETWORK_CLOCK_GATE and SELF_REFRESH_ENTRY move cores, clocks and
  stacks as their rules say. (18_power.md: R463, 18_power.md: R464, 18_power.md: R465, 18_power.md: R466, 18_power.md:
  R467, 18_power.md: R468). -/
def Obligations.CorePowerStatesMove : Prop :=
  (∀ (p : Nat) (s : State), p < 576 → (s.physCore p).power = .park → (s.physCore p).waking = .no →
    (s.physCore p).logical = none → 100000 ≤ s.since (s.physCore p).since →
    exec (.sleepTimeout p) s = .next (s.updPhys p (fun c => { c with power := .sleep, since := s.now }))) ∧
  (∀ (p : Nat) (s : State), p < 576 → (s.physCore p).waking = .pll →
    exec (.pllLock p) s = .next (s.updPhys p (fun c => { c with waking := .ready }))) ∧
  (∀ (d : Fin 8) (p : Nat) (s : State), nextEntry s d.val = some p →
    (recentTurns s (s.die d.val).wakes).length < s.pwr.wakeRate →
    exec (.runEntry d) s = .next
      ((s.updPhys p (fun c => { c with power := .run, waking := .no, leaving := none, since := s.now, taking := false })).updDie d.val (fun x =>
        { x with wakes := recentTurns s (s.die d.val).wakes ++ [s.now], netGated := false, netIdleSince := s.now }))) ∧
  (∀ (d : Fin 8) (s : State), s.pwr.wakeRate ≤ (recentTurns s (s.die d.val).wakes).length →
    exec (.runEntry d) s = .next s) ∧
  (∀ (d : Fin 8) (p : Nat) (s : State),
    (physOf d.val).find? (fun p => (s.physCore p).power == .run && (s.physCore p).leaving.isSome) = some p →
    (recentTurns s (s.die d.val).sleeps).length < s.pwr.wakeRate →
    exec (.runExit d) s = .next
      ((s.updPhys p (fun c => { c with power := c.leaving.getD .park, leaving := none, since := s.now })).updDie d.val (fun x =>
        { x with sleeps := recentTurns s (s.die d.val).sleeps ++ [s.now], netIdleSince := s.now }))) ∧
  (∀ (d : Fin 8) (s : State), (∀ p ∈ physOf d.val, (s.physCore p).power ≠ .run ∧ (s.physCore p).power ≠ .park) →
    1000 ≤ s.since (s.die d.val).netIdleSince →
    exec (.networkClockGate d) s = .next (s.updDie d.val (fun x => { x with netGated := true }))) ∧
  (∀ (k : Nat) (s : State), k < 16 → 100000 ≤ s.since (s.stack k).lastRequest → (s.far.group (k / 8)).rebuilding = false →
    exec (.selfRefreshEntry k) s = .next (s.updStack k (fun x => { x with selfRefresh := true }))) ∧
  (∀ (k : Nat) (s : State), 16 ≤ k → k < 20 → 100000 ≤ s.since (s.stack k).lastRequest →
    (∀ d < 8, ∀ e ∈ (s.die d).cache, e.pins ≠ [] → ∀ c n, findCaddy s e.piece.caddy = some c → nearPieceOf s c e.piece = some n →
      n.stack ≠ k - 16) →
    exec (.selfRefreshEntry k) s = .next (s.updStack k (fun x => { x with selfRefresh := true })))

/-- SENSOR_SAMPLE stores the level of its sensor and shows the highest in both hubs; a far stack at 115 degrees halves
  its rate, trips and posts THERMAL. (18_power.md: R474, 18_power.md: R475, 18_power.md: R477, 20_registers.md: R506).
  -/
def Obligations.SensorSamplesSetLevels : Prop :=
  (∀ (n : Nat) (r : W16) (s : State), 8 ≤ n → n < 0x13 → tabGet 0 s.pwr.levels n = 0 →
    dieLevel s.pwr.tThrottle (signed 16 r.toNat) = 0 →
    exec (.sensorSample n r) s = .next { s with
      pwr := { s.pwr with levels := tabPut 0 s.pwr.levels n 0 }
      h0 := { s.h0 with thermLevel := topLevel (tabPut 0 s.pwr.levels n 0) }
      h1 := { s.h1 with thermLevel := topLevel (tabPut 0 s.pwr.levels n 0) } }) ∧
  (∀ (n : Nat) (r : W16) (s : State), 0x30 ≤ n → n < 0x40 → 16 * 115 ≤ signed 16 r.toNat → tabGet 0 s.pwr.levels n < 4 →
    ∃ u, exec (.sensorSample n r) s = .next (postThermal u n 4 r) ∧ (u.stack (n - 0x30)).share = 50 ∧
      u.dev.thermTrip = true ∧ tabGet 0 u.pwr.levels n = 4 ∧ u.tab = s.tab ∧ u.cores = s.cores ∧ u.dies = s.dies)

/-- LINK_LANE_FAIL, LANE_RETRAIN_DONE and WORGON_PORT_TRAINED have the effect their rules give. (14_fabric.md: R355,
  14_fabric.md: R356, 14_fabric.md: R358). -/
def Obligations.LinkLanesAndPortsMove : Prop :=
  (∀ (k : Fin 12) (l : Nat) (s : State), l < 9 → (s.worgon k.val).up = true → (s.worgon k.val).active.contains l = true →
    (s.worgon k.val).spare.isSome = true → (s.worgon k.val).width = 8 →
    exec (.linkLaneFail k l) s = .next
      (let u := noteFault s 0x0B k.val
       let v := u.updWorgon k.val (fun w => { w with spare := none, retraining := some l })
       noteRepair (updLife v (fun x => { x with linkLanes := lifeInc x.linkLanes })) 7 k.val 0)) ∧
  (∀ (k : Fin 12) (l : Nat) (s : State), l < 9 → (s.worgon k.val).up = true → (s.worgon k.val).active.contains l = false →
    (s.worgon k.val).spare = some l →
    exec (.linkLaneFail k l) s = .next (s.updWorgon k.val (fun w => { w with spare := none, retraining := some l }))) ∧
  (∀ (k : Fin 12) (l : Nat) (s : State), (s.worgon k.val).retraining = some l →
    exec (.laneRetrainDone k true) s = .next (s.updWorgon k.val (fun w => { w with retraining := none, spare := some l })) ∧
    exec (.laneRetrainDone k false) s = .next (s.updWorgon k.val (fun w =>
      { w with retraining := none, bad := w.bad ++ [l] }))) ∧
  (∀ (k : Fin 12) (s : State), (s.worgon k.val).up = false → (s.hub (worgonHub k.val)).counting = true →
    let u := s.updWorgon k.val (fun w =>
      { w with trained := true, lost := false, retrain := false, naks := 0, lastValid := s.now,
               credits := if w.credits.isEmpty then grantedCredits else w.credits }.pump s.now)
    ((s.worgon k.val).role = 2 ∨ (s.worgon k.val).role = 3 → exec (.worgonPortTrained k) s = .next u) ∧
    ((s.worgon k.val).role = 1 → s.fab.activeUp = none →
      exec (.worgonPortTrained k) s = .next (askImage { u with fab := { u.fab with activeUp := some k.val } } k.val)) ∧
    (∀ j, (s.worgon k.val).role = 1 → s.fab.activeUp = some j → j ≠ k.val → (s.worgon j).up = true →
      exec (.worgonPortTrained k) s = .next u))

/-- Each of the 25 operations, on a RUN that is served and names its opcode, dispatches, checks its bindings, and has
  its whole effect. (08_programs.md: R208, 08_programs.md: R219, 09_scheduling.md: R227, 09_scheduling.md: R233,
  13_host.md: R333, 13_host.md: R334). -/
def Obligations.OperationsDispatchCheckAndRun : Prop :=
  ∀ (i : Instr) (n op : Nat) (f : OpRun → State → State) (s : State) (q : Queue) (c : Cmd) (j : Job) (p : Program)
    (e : Entry) (b : BodyEntry), opEffect i = some (n, op, f) → servedEntry s n = some (q, c, j) → c.entry.cmd = 1 →
    c.entry.bad = none → runTarget s j c.entry = some (p, e, b) → e.opcode = op →
    (bindingFails (dispatched s q c j p e b).1 p (dispatched s q c j p e b).2 = true →
      exec i s = .next (abortCmd (dispatched s q c j p e b).1 n j.nextSerial.toNat stBinding 0)) ∧
    (bindingFails (dispatched s q c j p e b).1 p (dispatched s q c j p e b).2 = false →
      exec i s = .next
        (let u := launch (dispatched s q c j p e b).1 q (dispatched s q c j p e b).2
         if (tilesOf u n j.nextSerial.toNat).isEmpty then u else settleOverlap f (dispatched s q c j p e b).2 u))

/-- FLAG.SET, FLAG.WAIT and NOP dispatch and have their effect; a bad entry ends with BAD_ENTRY, a RUN that names
  nothing or a flag outside its memory with BINDING. (08_programs.md: R214, 13_host.md: R334, 13_host.md: R335,
  12_memory.md: R301). -/
def Obligations.FlagCommandsAndNopComplete : Prop :=
  (∀ (n : Nat) (s : State) (q : Queue) (c : Cmd) (j : Job), servedEntry s n = some (q, c, j) → c.entry.cmd = 4 → c.entry.bad = none →
    exec (.nop n) s = .next (finish (beginCmd s q j) n j.nextSerial.toNat stOk 0)) ∧
  (∀ (n o : Nat) (s : State) (q : Queue) (c : Cmd) (j : Job), servedEntry s n = some (q, c, j) → c.entry.bad = some o →
    exec (.nop n) s = .next (finish (beginCmd s q j) n j.nextSerial.toNat stBadEntry o)) ∧
  (∀ (n : Nat) (s : State) (q : Queue) (c : Cmd) (j : Job), servedEntry s n = some (q, c, j) → c.entry.cmd = 1 → c.entry.bad = none →
    runTarget s j c.entry = none → exec (.nop n) s = .next (abortCmd (beginCmd s q j) n j.nextSerial.toNat stBinding 0)) ∧
  (∀ (n : Nat) (s : State), setReady s n = true → exec (.flagSet n) s = .next (performSet s n)) ∧
  (∀ (n : Nat) (s : State) (q : Queue) (c : Cmd) (j : Job), setReady s n = false → servedEntry s n = some (q, c, j) →
    c.entry.cmd = 2 → c.entry.bad = none → exec (.flagSet n) s = .next
      (if grantedRange (beginCmd s q j) j c.entry.flagAddr 8 then performSet (beginCmd s q j) n
       else abortCmd (beginCmd s q j) n j.nextSerial.toNat stBinding 0)) ∧
  (∀ (n : Nat) (s : State) (q : Queue) (c : Cmd) (j : Job), servedEntry s n = some (q, c, j) → c.entry.cmd = 3 → c.entry.bad = none →
    exec (.flagWait n) s = .next
      (if grantedRange (beginCmd s q j) j c.entry.flagAddr 8 then
        registerWait (beginCmd s q j) n j.nextSerial.toNat c.entry.flagAddr c.entry.flagValue
       else abortCmd (beginCmd s q j) n j.nextSerial.toNat stBinding 0))

/-- WATCH_ANSWER, WATCH_POLL and FLAG_WAIT_TIMEOUT end a wait or stall its queue. (08_programs.md: R214,
  08_programs.md: R215, 12_memory.md: R300, 12_memory.md: R301, 13_host.md: R339). -/
def Obligations.WaitsEndOrTimeOut : Prop :=
  (∀ (k : Fin 16) (n : Nat) (s : State) (w : Watch),
    s.far.watches.find? (fun w => w.stack == k.val && w.number == n && w.due) = some w →
    exec (.watchAnswer k n) s = .next (endWait s w.queue)) ∧
  (∀ (n : Nat) (s : State) (q : Queue) (c : Cmd), waitOf s n = some (q, c) → c.polling = true →
    c.entry.flagValue.toNat ≤ (farWord s.far c.entry.flagAddr).toNat →
    (∀ d ∈ s.far.deltas, d.block ≠ c.entry.flagAddr / 4096) →
    exec (.watchPoll n) s = .next (endWait (touchFar s c.entry.flagAddr) n)) ∧
  (∀ (n : Nat) (s : State) (q : Queue) (c : Cmd), waitOf s n = some (q, c) → c.polling = true →
    ((farWord s.far c.entry.flagAddr).toNat < c.entry.flagValue.toNat ∨
      ∃ d ∈ s.far.deltas, d.block = c.entry.flagAddr / 4096) →
    exec (.watchPoll n) s = .next (touchFar s c.entry.flagAddr)) ∧
  (∀ (n : Nat) (s : State) (q : Queue) (c : Cmd), waitOf s n = some (q, c) → c.polling = false →
    exec (.watchPoll n) s = .next s) ∧
  (∀ (n t : Nat) (s : State) (q : Queue) (c : Cmd), waitOf s n = some (q, c) → waitTicks c.waitLimit = some t → q.st = .running →
    t ≤ s.since c.waitSince →
    exec (.flagWaitTimeout n) s = .next (postBoth (releaseBoundary (updQueue s n (fun q => { q with st := .stalled })) n)
      { code := 0x0006, job := q.job, queue := n, arg1 := c.entry.flagAddr })) ∧
  (∀ (n : Nat) (s : State) (q : Queue) (c : Cmd), waitOf s n = some (q, c) → c.waitLimit = 0 →
    exec (.flagWaitTimeout n) s = .next s)

/-- ACCUMULATOR_COMMIT, COMMAND_COMPLETE, COMPLETION_RECORD_POST and COMMAND_ABORT have the effect their rules give.
  (03_core.md: R82, 09_scheduling.md: R251, 11_training.md: R285, 13_host.md: R336, 14_fabric.md: R373, 15_faults.md:
  R400). -/
def Obligations.CommandsCommitCompleteAndPost : Prop :=
  (∀ (n m : Nat) (s : State) (c : Cmd) (p : Program) (r : OpRun), findCmd s n m = some c → runOfCmd s n m = some (p, r) →
    tilesDone c = true → c.committed = false → (accumsOf s n m).all (fun a => a.2.waiting.isEmpty) = true →
    exec (.accumulatorCommit n m) s = .next
      (let u := (accumsOf s n m).foldl (commitBuffer r) (if r.folds then beginHeld r s c.hdrs else s)
       let v := mapCores u (fun x => { x with accums := x.accums.filter (fun a => !(a.queue == n && a.serial == m)) })
       updCmd v n (isSerial m) (fun c => { c with committed := true }))) ∧
  (∀ (n m : Nat) (s : State) (q : Queue) (c : Cmd) (j : Job), findQueue s n = some q → findCmd s n m = some c →
    findJob s q.job = some j → tilesDone c = true → accumsOf s n m = [] → unacked s n m = [] →
    c.blocks.any (fun b => s.far.deltas.any (fun d => d.block == b.1)) = false → compareHeld s j c = false →
    exec (.commandComplete n m) s = .next
      (let u := drainCommand s n m
       endCmd (releaseKeys (dropCommand u n m) n m c.pieces) n m (if c.rejected then stBinding else stOk) 0)) ∧
  (∀ (n : Nat) (s : State) (q : Queue) (c : Cmd), owedRecord s n = some (q, c) → c.compared = true →
    exec (.completionRecordPost n) s = .next (settleDestroys (writeRecord s q c))) ∧
  (∀ (n m k : Nat) (s : State) (c : Cmd), findCmd s n m = some c → c.phase = .running → 1 ≤ k → k ≤ 0x13 →
    exec (.commandAbort n m k) s = .next (abortCmd s n m stAborted k))

/-- BOUNDARY_COMMAND starts the keys of the fenced entry behind the queue, with EARLY_FETCH its reads and pre-claims;
  it holds nothing twice. (09_scheduling.md: R244, 09_scheduling.md: R245, 09_scheduling.md: R246, 09_scheduling.md:
  R247). -/
def Obligations.BoundaryCommandPrefetches : Prop :=
  (∀ (n : Nat) (s : State) (q : Queue) (c : Cmd) (j : Job) (p : Program) (e : Entry) (b : BodyEntry), findQueue s n = some q →
    boundaryOf q = some c → findJob s q.job = some j → c.early = false → c.pieces = [] → q.st ≠ .stalled →
    runTarget s j c.entry = some (p, e, b) →
    exec (.boundaryCommand n) s = .next
      (let r := opRunOf s q j c p e b boundarySerial
       if bindingFails s p r then s
       else
         let ts := planTiles s r
         let u := if c.entry.early then zeroCounters (wakeBound s c r) r ts else wakeBound s c r
         let v := updCmd u q.num (fun x => x.phase == .fetched && x.sqIndex == c.sqIndex)
           (noteBoundary r ts (commandPieces s r ts) c.entry.early)
         let w := startKeys v q.num boundarySerial 3 q.priority v.tab.dispatchOrder true [] r ts
         if c.entry.early then preclaim w r else w)) ∧
  (∀ (n : Nat) (s : State) (q : Queue) (c : Cmd), findQueue s n = some q → boundaryOf q = some c →
    (c.early = true ∨ c.pieces ≠ []) → exec (.boundaryCommand n) s = .next s)

/-- CLAIM, TASK_PLACE, TASK_COMPLETE and PASS_NOTICE have the effect their rules give. (03_core.md: R62, 03_core.md:
  R81, 09_scheduling.md: R234, 09_scheduling.md: R237, 09_scheduling.md: R238, 09_scheduling.md: R235). -/
def Obligations.TasksAreClaimedPlacedAndEnded : Prop :=
  (∀ (core n m k : Nat) (s : State) (c : Cmd) (r : OpRun), core < 512 → runningOn s core n m = some (c, r) →
    takesTasks s core = true → k < r.body.phases.length → reissueWaits c (dieOfCore core) = false →
    (s.core core).held.any (fun h => h.1 == n && h.2.opSerial == m) = false →
    exec (.claim core n m k) s = .next
      (let a := counterWord c.entry.counterAddr k (dieOfCore core)
       let v := farWord s.far a
       let u := deviceWrite (touchFar s a) a (leBytes 8 (v + 1).toNat)
       match (dieTiles c (dieOfCore core) k)[v.toNat]? with
       | some t => if t.status = 0 then takeClaim u r core n m t else u
       | none => u)) ∧
  (∀ (core : Nat) (s : State), core < 512 → takesTasks s core = true →
    exec (.taskPlace core) s = .next (match (sortBy candidateKey ((candidates s core).filter (placeable s core))).head? with
      | some x => if (claimKeys s core).any (fun k => decide (k < commandKey x.prio x.cmd.dispatchOrder)) then s
        else placeTile s core x
      | none => s)) ∧
  (∀ (core slot : Nat) (s : State) (t : Task), core < 512 → tabGet? (s.core core).slots slot = some t →
    taskEnded (s.core core) slot t = true →
    exec (.taskComplete core slot) s = .next
      (let u := (reportDone (s.updCore core (freeTask slot)) t).updDie t.claim.die
         (dropReads t.queue t.claim.opSerial t.claim.claimIndex
           (((runOfCmd (reportDone (s.updCore core (freeTask slot)) t) t.queue t.claim.opSerial).map (fun r => pinsKeys r.2)).getD false)
           (fun _ => true))
       idleCore (settleRetire u core) core)) ∧
  (∀ (core slot : Nat) (s : State) (t : Task), core < 512 → tabGet? (s.core core).slots slot = some t →
    taskEnded (s.core core) slot t = false → exec (.taskComplete core slot) s = .next s) ∧
  (∀ (core h : Nat) (x : Claim) (s : State) (a : Accum), core < 512 → (s.core core).accums = [a] → a.handle = h →
    takesFrom s a x = true → a.waiting = [] →
    (tilesOf s a.queue a.serial).any (fun t => t.claim.claimIndex == x.claimIndex && t.status == 3) = true →
    exec (.passNotice core h x) s = .next (s.updCore core (fun c => { c with accums := [markLog a x] })))

/-- Each row that issues to an engine, to the movers or to an accumulator buffer enqueues the instruction its core
  issues next. (03_core.md: R57, 03_core.md: R58, 03_core.md: R59, 03_core.md: R64, 03_core.md: R79, 04_transforms.md:
  R94, 05_matrix_vector.md: R117, 05_matrix_vector.md: R122, 05_matrix_vector.md: R135, 09_scheduling.md: R240,
  09_scheduling.md: R242). -/
def Obligations.CoreInstructionsIssue : Prop :=
  (∀ (i : Instr) (core : Nat) (kind : CoreInstr → Bool) (s : State) (slot : Nat) (t : Task) (x : CoreInstr),
    issueKind i = some (core, kind) → issuing s core = some (slot, t, x) → kind x = true →
    exec i s = .next
      (let u := if isKeySwitch x then skipAtIssue s core slot t x (s.core core).nextId else s
       u.updCore core (enqueueInstr u.now slot ((targetOf x).getD 0) x (issueNow u core t).lvl2 t))) ∧
  (∀ (i : Instr) (core : Nat) (kind : CoreInstr → Bool) (s : State) (slot : Nat) (t : Task) (x : CoreInstr),
    issueKind i = some (core, kind) → issuing s core = some (slot, t, x) → kind x = false → exec i s = .next s) ∧
  (∀ (core slot : Nat) (s : State) (t : Task) (o : FoldOp), issuing s core = some (slot, t, .fold o) →
    exec (.fold core) s = .next
      (let y : Issue := issueNow s core t
       let u := s.updCore core (enqueueInstr s.now slot 4 (.fold o) y.lvl2 t)
       u.updCore (foldTarget y s o).1 (fun c => { c with accums := (updWhere
         (isTarget t.claim t.queue (foldTarget y s o).2) (fun a => { a with waiting := a.waiting ++ [foldOf y s o] }) c.accums) })))

/-- SIGNAL, WAIT, FENCE_SLOT, FENCE_KEY and SCALAR_INSTRUCTION act on their core alone; EVENT_TIMEOUT aborts a wait of
  100 ms. (03_core.md: R57, 03_core.md: R61, 03_core.md: R66, 03_core.md: R67, 03_core.md: R86). -/
def Obligations.EventsFencesAndScalarsIssue : Prop :=
  (∀ (core slot : Nat) (s : State) (t : Task) (e v : Nat), issuing s core = some (slot, t, .wait e v) →
    exec (.wait core) s = .next (s.updCore core (fun c => updTask { c with running := slot } slot (advance s.now)))) ∧
  (∀ (core slot : Nat) (s : State) (t : Task), issuing s core = some (slot, t, .fenceSlot) →
    exec (.fenceSlot core) s = .next (s.updCore core (fun c => updTask { c with running := slot } slot (advance s.now)))) ∧
  (∀ (core slot : Nat) (s : State) (t : Task), issuing s core = some (slot, t, .fenceKey) →
    exec (.fenceKey core) s = .next (s.updCore core (fun c => updTask { c with running := slot } slot (advance s.now)))) ∧
  (∀ (core slot : Nat) (s : State) (t : Task) (e : Nat), issuing s core = some (slot, t, .signal e) →
    exec (.signal core) s = .next ((s.updCore core (signalEvent s.now e)).updCore core (fun c =>
      updTask { c with running := slot } slot (advance s.now)))) ∧
  (∀ (core slot : Nat) (s : State) (t : Task) (o : ScalarOp), issuing s core = some (slot, t, .scalar o) →
    exec (.scalarInstruction core) s = .next (s.updCore core (fun c => updTask { c with running := slot } slot (fun t =>
      { scalarStep o (issueNow s core t).lvl2 t with waitSince := s.now })))) ∧
  (∀ (core slot : Nat) (s : State) (t : Task) (e v : Nat), core < 512 → tabGet? (s.core core).slots slot = some t →
    nextInstr t = some (.wait e v) → (eventCount (s.core core) e).toNat < v → 10000000 ≤ s.since t.waitSince →
    exec (.eventTimeout core slot) s = .next (abortCmd
      (postBoth s { code := 0x0009, job := t.job, queue := t.queue, arg0 := core, arg1 := e }) t.queue t.claim.opSerial stEventTimeout 0)) ∧
  (∀ (core slot : Nat) (s : State) (t : Task) (e v : Nat), core < 512 → tabGet? (s.core core).slots slot = some t →
    nextInstr t = some (.wait e v) → (v ≤ (eventCount (s.core core) e).toNat ∨ s.since t.waitSince < 10000000) →
    exec (.eventTimeout core slot) s = .next s)

/-- INSTRUCTION_COMPLETE, DMA_TRANSFER_START and FOLD_APPLY have the effect their rules give. (03_core.md: R59,
  03_core.md: R80, 03_core.md: R81, 09_scheduling.md: R242, 15_faults.md: R387, 15_faults.md: R389). -/
def Obligations.InstructionsAndFoldsComplete : Prop :=
  (∀ (core id : Nat) (s : State) (f : InFlight) (t : Task) (x : Issue), core < 512 → fenced s core = false →
    (s.core core).flight.find? (fun f => f.id == id && f.started && f.target != 4) = some f →
    tabGet? (s.core core).slots f.slot = some t →
    x = { core := core, task := t, sregs := f.scalars, lvl2 := f.lvl2, run := runOfTask s t, racy := f.racy || racesNow s core f } →
    ((x.lostSources f.instr s).flatMap (makersOf s) = [] → exec (.instructionComplete core id) s = .next
      ((readPieces (instrEffect x f.instr (markRacy s core f)) x f).updCore core (fun c =>
        startEngines { c with flight := c.flight.filter (fun g => g.id != id) }))) ∧
    ((x.lostSources f.instr s).flatMap (makersOf s) ≠ [] → exec (.instructionComplete core id) s = .next
      (failTiles s ((x.lostSources f.instr s).flatMap (makersOf s)).eraseDups 3))) ∧
  (∀ (core pq : Nat) (s : State) (f : InFlight), core < 512 → fenced s core = false → queueTurn (s.core core) = some pq →
    (s.core core).flight.find? (fun f => onQueue pq f && !f.started) = some f →
    exec (.dmaTransferStart core pq) s = .next (s.updCore core (fun c => { c with
      robin := (pq + 1) % 16
      flight := (updWhere (fun g => g.id == f.id) (fun g => { g with started := true }) c.flight) }))) ∧
  (∀ (core pq : Nat) (s : State), core < 512 → queueTurn (s.core core) ≠ some pq ∨ fenced s core = true → exec (.dmaTransferStart core pq) s = .next s) ∧
  (∀ (core id : Nat) (s : State), core < 512 → fenced s core = true → exec (.instructionComplete core id) s = .next s) ∧
  (∀ (core h : Nat) (s : State) (a : Accum) (w : WaitingFold), core < 512 →
    (s.core core).accums.findSome? (fun a => if a.handle = h then
      (a.waiting.find? (fun w => takesFrom s a w.claim && foldReady a w)).map (fun w => (a, w)) else none) = some (a, w) →
    exec (.foldApply core h) s = .next
      (let mine := fun (x : Accum) => x.queue == a.queue && x.serial == a.serial && x.bind == a.bind
       let u := (s.updCore core (fun c => { c with accums := (updWhere mine
         (fun x => { x with waiting := x.waiting.filter (· != w) }) c.accums) })).updCore w.fromCore (releaseFold w)
       if logged a (logBit a w.claim) then u
       else if w.dataOk then (addFold u core a w).updCore core (fun c => { c with accums := updWhere mine (logFold w) c.accums })
       else failTile (noteFault u 3 core) a.queue a.serial w.claim.claimIndex 3))

/-- FADD64 adds to its word and returns the prior value, SET64 stores it, no other byte of the tier changes; WATCH64
  and UNWATCH change the watches alone. (12_memory.md: R298, 12_memory.md: R300, 12_memory.md: R301). -/
def Obligations.MemorySideOperationsActOnWords : Prop :=
  (∀ (a : Nat) (v : W64) (s : State), farWordWf a = true → (s.far.group (a / 4096 % 2)).onLost (a / 4096 / 2) = false →
    ∃ t, exec (.fadd64 ⟨1, a⟩ v) s = .next t ∧ farWord t.far a = farWord s.far a + v ∧ t.far.prior = farWord s.far a ∧
      t.far.stored (a / 4096) = splice (mergeBase s.far (a / 4096)) (a % 4096) (leBytes 8 (farWord s.far a + v).toNat) ∧
      t.far.tag (a / 4096) = { st := .checked, check := crc32c (t.far.stored (a / 4096)) } ∧
      (∀ b, b ≠ a / 4096 → t.far.stored b = s.far.stored b ∧ t.far.tag b = s.far.tag b) ∧
      t.tab = (raceWord s a true).tab ∧ (s.tab.queues.any (fun q => q.cmds.any (·.touches (a, 8, 0))) = false → t.tab = s.tab) ∧
      t.cores = s.cores ∧
      (∀ d, { t.die d with netGated := (s.die d).netGated, netIdleSince := (s.die d).netIdleSince } = s.die d) ∧
      t.record = s.record ∧ t.pa = s.pa ∧ t.pb = s.pb) ∧
  (∀ (a : Nat) (v : W64) (s : State), farWordWf a = true → (s.far.group (a / 4096 % 2)).onLost (a / 4096 / 2) = false →
    ∃ t, exec (.set64 a v) s = .next t ∧ farWord t.far a = v ∧ t.far.prior = s.far.prior ∧
      t.far.stored (a / 4096) = splice (mergeBase s.far (a / 4096)) (a % 4096) (leBytes 8 v.toNat) ∧
      (∀ b, b ≠ a / 4096 → t.far.stored b = s.far.stored b ∧ t.far.tag b = s.far.tag b) ∧
      t.tab = (raceWord s a false).tab ∧ (s.tab.queues.any (fun q => q.cmds.any (·.touches (a, 8, 0))) = false → t.tab = s.tab) ∧
      t.cores = s.cores ∧
      (∀ d, { t.die d with netGated := (s.die d).netGated, netIdleSince := (s.die d).netIdleSince } = s.die d) ∧
      t.record = s.record ∧ t.pa = s.pa ∧ t.pb = s.pb) ∧
  (∀ (a q n : Nat) (v : W64) (s : State), farWordWf a = true → watched s q a = false →
    freeWatch s (controllerOf s.far a) = some n →
    exec (.watch64 a v q) s = .next (markPolling
      (let w : Watch := { stack := controllerOf s.far a, number := n, addr := a, threshold := v, queue := q,
                          due := decide (v.toNat ≤ (farWord s.far a).toNat) && !s.far.deltas.any (fun d => d.block == a / 4096) }
       (touchFar s a).updFar (fun f => { f with watches := f.watches ++ [w] })) q a false)) ∧
  (∀ (a q : Nat) (v : W64) (s : State), farWordWf a = true → watched s q a = false →
    freeWatch s (controllerOf s.far a) = none →
    exec (.watch64 a v q) s = .next (markPolling (touchFar s a) q a true)) ∧
  (∀ (a q : Nat) (v : W64) (s : State), farWordWf a = true → watched s q a = true →
    exec (.watch64 a v q) s = .next (touchFar s a)) ∧
  (∀ (k : BitVec 4) (a : Nat) (v : W64) (s : State), farWordWf a = true → (k.toNat = 0 ∨ 5 ≤ k.toNat) →
    exec (.fadd64 ⟨k, a⟩ v) s = .next (postBoth (touchFar s a) { code := 0x0012, arg0 := k.toNat, arg1 := a })) ∧
  (∀ (k : Fin 16) (n : Nat) (s : State), exec (.unwatch k n) s = .next { s with
    far := { s.far with watches := s.far.watches.filter (fun w => !(w.stack == k.val && w.number == n)) } })

/-- FAR_BLOCK_READ, FAR_BLOCK_WRITE, PARITY_DELTA and SCRUB have the effect their rules give. (12_memory.md: R297,
  12_memory.md: R298, 12_memory.md: R302, 12_memory.md: R304, 12_memory.md: R305, 12_memory.md: R306). -/
def Obligations.FarBlocksAreReadWrittenAndScrubbed : Prop :=
  (∀ (b : Nat) (e : List (Nat × BitVec 72)) (m : Option (List Byte)) (s : State), b < 0x9000000 → (s.far.tag b).st = .never →
    exec (.farBlockRead b e m) s = .next ((touchFar s (b * 4096)).updFar (fun f =>
      { f with delivered := some (zeros 4096, false) }))) ∧
  (∀ (b : Nat) (s : State), b < 0x9000000 → (s.far.tag b).st = .checked → (s.far.group (b % 2)).onLost (b / 2) = false →
    crc32c (s.far.stored b) = (s.far.tag b).check →
    exec (.farBlockRead b [] none) s = .next ((touchFar s (b * 4096)).updFar (fun f =>
      { f with delivered := some (s.far.stored b, true) }))) ∧
  (∀ (b : Nat) (s : State), b < 0x9000000 → (s.far.tag b).st = .checked → (s.far.group (b % 2)).onLost (b / 2) = false →
    crc32c (s.far.stored b) ≠ (s.far.tag b).check →
    exec (.farBlockRead b [] none) s = .next
      (let u := touchFar s (b * 4096)
       let r := repairBlock (noteFault u 3 (stackOfBlock u.far b) 0xFFFF (b * 4096)) b (s.far.stored b)
       r.1.updFar (fun f => { f with delivered := some r.2 }))) ∧
  (∀ (b o : Nat) (d : List Byte) (s : State), b < 0x9000000 → o + d.length ≤ 4096 →
    (s.far.group (b % 2)).onLost (b / 2) = false → (s.far.group (b % 2)).parityKept (b / 2) = true →
    ∃ t, exec (.farBlockWrite b o d) s = .next t ∧
      t.far.stored b = splice (mergeBase s.far b) o d ∧
      t.far.tag b = { st := .checked, check := crc32c (t.far.stored b) } ∧ t.far.parity = s.far.parity ∧
      t.far.deltas = s.far.deltas ++ [{ block := b, addr := parityAddr (b % 2) ((s.far.group (b % 2)).place (b / 2)),
                                        data := xorBytes (s.far.stored b) (t.far.stored b) }] ∧
      (∀ c, c ≠ b → t.far.stored c = s.far.stored c ∧ t.far.tag c = s.far.tag c) ∧
      t.tab = s.tab ∧ t.cores = s.cores ∧
      (∀ d, { t.die d with netGated := (s.die d).netGated, netIdleSince := (s.die d).netIdleSince } = s.die d) ∧
      t.record = s.record ∧ t.pa = s.pa ∧ t.pb = s.pb) ∧
  (∀ (i : Nat) (s : State) (d : Delta), s.far.deltas[i]? = some d →
    exec (.parityDelta i) s = .next
      (let data := xorBytes (memReadN s.far.parity d.addr d.data.length) d.data
       let t := touchStack s (parityStack s.far (d.addr / 4096))
       { t with far := retest { t.far with
           parity := memWriteN s.far.parity d.addr data
           parityTags := tabPut {} s.far.parityTags (d.addr / 4096)
             { st := if (s.far.parityTag d.addr).st = .stale then .stale else .checked, check := crc32c data }
           deltas := s.far.deltas.eraseIdx i } (d.block * 4096) (d.block * 4096 + 4096) })) ∧
  (∀ (b : Nat) (s : State), b < scrubBlocks → exec (.scrub b []) s = .next s) ∧
  (∀ (b : Nat) (e : List (Nat × BitVec 72)) (s : State), b < 0x9000000 → (s.stack (stackOfBlock s.far b)).selfRefresh = false →
    (s.far.group (b % 2)).onLost (b / 2) = false → (readWords s.far b (errorsOf 0 e)).failed = 0 →
    exec (.scrub b e) s = .next (rewriteCorrected s b (readWords s.far b (errorsOf 0 e))))

/-- PIECE_SEND, PIECE_ARRIVE and PIECE_READY move a key piece from its root to every die, into the caches that keep
  it, and to the tasks that wait. (06_keys.md: R166, 06_keys.md: R167, 06_keys.md: R168, 06_keys.md: R169,
  09_scheduling.md: R248). -/
def Obligations.KeyPiecesAreSentKeptAndReady : Prop :=
  (∀ (h : Hub) (s : State) (i : SendItem), s.near.rootOut.contains h = false →
    firstItem (s.key.sendList.filter (fun i => rootOf s i.piece == h)) = some i →
    ∃ t, exec (.pieceSend h) s = .next t ∧ t.key.sendList = s.key.sendList.filter (fun x => x.piece != i.piece) ∧
      t.key.flight = s.key.flight ++ (listening s).map (fun d => (d, i.piece)) ∧ t.tab = s.tab ∧
      (∀ d, { t.die d with netGated := (s.die d).netGated, netIdleSince := (s.die d).netIdleSince } = s.die d) ∧
      t.cores = s.cores ∧ t.near = s.near ∧ t.far.mem = s.far.mem ∧ t.far.tags = s.far.tags) ∧
  (∀ (h : Hub) (s : State), firstItem (s.key.sendList.filter (fun i => rootOf s i.piece == h)) = none →
    exec (.pieceSend h) s = .next s) ∧
  (∀ (d : Fin 8) (p : PieceId) (s : State), s.key.flight.contains (d.val, p) = true → (s.die d.val).keep.contains p = false →
    exec (.pieceArrive d p) s = .next { s with key := { s.key with flight := s.key.flight.erase (d.val, p) } }) ∧
  (∀ (d : Fin 8) (p : PieceId) (s t : State) (c : Caddy) (e : KeyEntry), s.key.flight.contains (d.val, p) = true →
    (s.die d.val).keep.contains p = true → (s.die d.val).cache.any (fun e => e.piece == p) = false →
    findCaddy s p.caddy = some c → c.keys[p.key]? = some e → keepPiece s d.val p c e false = some t →
    exec (.pieceArrive d p) s = .next { t with key := { t.key with flight := t.key.flight.erase (d.val, p) } }) ∧
  (∀ (d : Fin 8) (p : PieceId) (s : State), (s.die d.val).cache.any (fun e => e.piece == p && !e.ready) = true →
    ∃ t, exec (.pieceReady d p) s = .next t ∧
      (t.die d.val).cache = updWhere (fun e => e.piece == p) (fun e => { e with ready := true, aHalf := expandedHalf s p })
        (s.die d.val).cache ∧
      (∀ c x, c / 64 = d.val → x ∈ (t.core c).slots → x.2.keysPending.contains p = false) ∧
      (∀ c, (t.core c).slots.map (·.1) = (s.core c).slots.map (·.1)) ∧ (∀ c, c / 64 ≠ d.val → t.core c = s.core c) ∧
      t.tab = s.tab ∧ t.far = s.far ∧ t.near = s.near ∧ t.key = s.key)

/-- ACCUMULATE_PACKET and MERGE_HDR apply a packet once and answer it; ACCUMULATE_ANSWER and PACKET_RESEND_TIMEOUT end
  it or send it again. (11_training.md: R284, 11_training.md: R285, 11_training.md: R286, 15_faults.md: R393,
  11_training.md: R287). -/
def Obligations.AccumulatePacketsAreTakenOnce : Prop :=
  (∀ (p : AccPacket) (s : State), packetIntact p = false →
    exec (.accumulatePacket p) s = .next (answerPacket s (packetStack s p.dstAddr) p .resend)) ∧
  (∀ (p : AccPacket) (s : State), packetIntact p = true → acceptingJob s p = none →
    exec (.accumulatePacket p) s = .next (answerPacket (postRejected s 0xFFFF p) (packetStack s p.dstAddr) p .rejected)) ∧
  (∀ (p : AccPacket) (s : State) (j : Job), packetIntact p = true → acceptingJob s p = some j →
    (windowOf s (packetStack s p.dstAddr) p).isSealed = false → (s.fab.workers.any (fun x => x.dev == p.srcDev && x.lost)) = false →
    (2 ^ 31 ≤ (p.seq + 2 ^ 32 - (windowOf s (packetStack s p.dstAddr) p).floor.toNat) % 2 ^ 32 ∨
      (windowOf s (packetStack s p.dstAddr) p).map.getLsbD (p.seq % 4096) = true) →
    ∃ t, exec (.accumulatePacket p) s = .next t ∧ t.far = s.far ∧ t.tab = s.tab ∧ t.pa = s.pa ∧ t.pb = s.pb ∧
      (let a : AccAnswer := { rjob := p.rjob, srcDie := p.srcDie, seq := p.seq, stack := packetStack s p.dstAddr,
                              outcome := .duplicate }
       t.fab.answers = s.fab.answers ++ [(p.srcDev, a)])) ∧
  (∀ (p : AccPacket) (s : State) (j : Job), packetIntact p = true → acceptingJob s p = some j →
    (windowOf s (packetStack s p.dstAddr) p).isSealed = false → (s.fab.workers.any (fun x => x.dev == p.srcDev && x.lost)) = false →
    (p.seq + 2 ^ 32 - (windowOf s (packetStack s p.dstAddr) p).floor.toNat) % 2 ^ 32 < 4096 →
    (windowOf s (packetStack s p.dstAddr) p).map.getLsbD (p.seq % 4096) = false →
    exec (.accumulatePacket p) s = .next (takePacket s (packetStack s p.dstAddr) j p (windowOf s (packetStack s p.dstAddr) p)) ∧
      (p.aop = aopMerge → exec (.mergeHdr p) s =
        .next (takePacket s (packetStack s p.dstAddr) j p (windowOf s (packetStack s p.dstAddr) p)))) ∧
  (∀ (a : AccAnswer) (s : State) (p : OutPacket), sentPacket s a.srcDie a.rjob a.stack a.seq = some p →
    ((a.outcome = .applied ∨ a.outcome = .duplicate) → exec (.accumulateAnswer a) s = .next (ackPacket s a.srcDie p false)) ∧
    (a.outcome = .rejected → exec (.accumulateAnswer a) s = .next (ackPacket s a.srcDie p true)) ∧
    (a.outcome = .resend → exec (.accumulateAnswer a) s = .next (resendPacket s a.srcDie p))) ∧
  (∀ (d : Fin 8) (r k q : Nat) (s : State) (p : OutPacket), sentPacket s d.val r k q = some p →
    (2000000 ≤ s.since p.lastSent → exec (.packetResendTimeout d r k q) s = .next (resendPacket s d.val p)) ∧
    (s.since p.lastSent < 2000000 → exec (.packetResendTimeout d r k q) s = .next s))

/-- BEAT_ERROR, LANE_FAULT, CORE_FAULT, CORE_FENCE_DONE and DIE_CTRL_RESTART have the effect their rules give.
  (03_core.md: R88, 15_faults.md: R386, 15_faults.md: R389, 15_faults.md: R390, 15_faults.md: R405, 03_core.md: R85).
  -/
def Obligations.PathsLanesAndCoresFail : Prop :=
  (∀ (p : BeatPath) (e : BitVec 72) (s : State), p.wf = true → (∀ x, p ≠ .sram x) → beatCorrection p e = .uncorrectable →
    (pathStack p = none ∨ resends s p ≠ 0) → resends s p < 8 →
    exec (.beatError ⟨p, e⟩) s = .next (countResent (setErr (setResends s p (resends s p + 1)) 1) 1)) ∧
  (∀ (p : BeatPath) (i : Nat) (s : State), p.wf = true → (∀ x, p ≠ .worgonLane x) → i < 72 →
    exec (.beatError ⟨p, 1#72 <<< i⟩) s = .next ((setErr s 2).updDev (fun d => match p with
      | .sram _ => { d with corrSram := satAdd d.corrSram 1 }
      | _ => { d with corrPath := satAdd d.corrPath 1 }))) ∧
  (∀ (x : Nat) (e : BitVec 72) (s : State), x < 576 → beatCorrection (.sram x) e = .uncorrectable → (s.physCore x).st = .serving →
    (s.physCore x).fencing = false →
    exec (.beatError ⟨.sram x, e⟩) s = .next (noteFault (s.updPhys x (fun c => { c with fencing := true })) 5 x)) ∧
  (∀ (p : BeatPath) (e : BitVec 72) (s : State), p.wf = true → (∀ x, p ≠ .sram x) → beatCorrection p e = .uncorrectable →
    8 ≤ resends s p →
    exec (.beatError ⟨p, e⟩) s = .next (match pathStack p with
      | some k => failRetrain (setResends s p 0) k
      | none => loseLane (setResends s p 0) p)) ∧
  (∀ (p : Nat) (e : Engine) (s : State) (l : Nat), p < 576 → (s.physCore p).st = .serving → (s.physCore p).fencing = false →
    lanesUsed (s.physCore p) e < laneSpares e → (s.physCore p).logical = some l →
    exec (.laneFault p e) s = .next
      (let u := noteFault (s.updPhys p (useLane e)) 4 p
       let v := noteRepair (updLife u (fun x => { x with lanesSpared := lifeInc x.lanesSpared })) 1 p 0
       failTiles v (tilesOnEngine (v.core l) (engineTarget e)) 4)) ∧
  (∀ (p : Nat) (e : Engine) (s : State), p < 576 → (s.physCore p).st = .spare ∨ (s.physCore p).st = .testing →
    (s.physCore p).fencing = false → lanesUsed (s.physCore p) e < laneSpares e → (s.physCore p).logical = none →
    exec (.laneFault p e) s = .next
      (let u := noteFault (s.updPhys p (useLane e)) 4 p
       noteRepair (updLife u (fun x => { x with lanesSpared := lifeInc x.lanesSpared })) 1 p 0)) ∧
  (∀ (p : Nat) (e : Engine) (s : State), p < 576 → (s.physCore p).st = .serving → (s.physCore p).fencing = false →
    (laneSpares e ≤ lanesUsed (s.physCore p) e →
      exec (.laneFault p e) s = .next (noteFault (s.updPhys p (fun c => { c with fencing := true })) 5 p)) ∧
    exec (.coreFault p) s = .next (noteFault (s.updPhys p (fun c => { c with fencing := true })) 5 p)) ∧
  (∀ (p : Nat) (s : State) (core : Nat), p < 576 → (s.physCore p).logical = some core → (s.physCore p).fencing = true →
    exec (.coreFenceDone p) s = .next
      (let again := (claimedTiles (s.core core) ++ lostOutputs s core ++ foldedTiles s core).eraseDups
       let u := loseBuddy (retirePhys (dropRetire s p 0x05) p) core
       let v := mapCores (u.updCore core (fun c => { replacement s core with slots := c.slots, held := c.held })) (dropFolds core)
       postBoth (refreshState (replaceCore (failTiles v again 5) core)) { code := 0x000E, arg0 := core, arg1 := p })) ∧
  (∀ (d : Fin 8) (s : State), (s.die d.val).powered = true → exec (.dieCtrlRestart d) s = .next (noteFault s 6 d.val))

/-- DIE_LOST, ISLAND_LOST, FAR_STACK_LOST and NEAR_STACK_LOST ask for their slice once; REBUILD_ROW_MOVE and
  NEAR_REPLACEMENT_DONE repair. (06_keys.md: R161, 12_memory.md: R307, 12_memory.md: R310, 12_memory.md: R311,
  15_faults.md: R384). -/
def Obligations.StacksIslandsAndDiesAreLost : Prop :=
  (∀ (d : Fin 8) (s : State), (s.die d.val).powered = true → (s.die d.val).lost = false →
    exec (.dieLost d) s = .next (requestSlice s { kind := .die d.val })) ∧
  (∀ (d : Fin 8) (s : State), (s.die d.val).islandLost = false →
    exec (.islandLost d) s = .next (requestSlice s { kind := .island d.val })) ∧
  (∀ (d : Fin 8) (s : State), (s.die d.val).islandLost = true → exec (.islandLost d) s = .next s) ∧
  (∀ (k : Fin 16) (s : State), (s.far.group (k.val / 8)).lost.contains (k.val % 8) = false →
    exec (.farStackLost k) s = .next (requestSlice s { kind := .farSwitch k.val })) ∧
  (∀ (k : Fin 16) (s : State), (s.far.group (k.val / 8)).lost.contains (k.val % 8) = true → exec (.farStackLost k) s = .next s) ∧
  (∀ (k : Fin 4) (s : State), s.near.lost.contains k.val = false →
    exec (.nearStackLost k) s = .next (requestSlice s { kind := .nearSwitch k.val })) ∧
  (∀ (g : Fin 2) (s : State), (s.far.group g.val).rebuilding = true → survivorSleeps s g.val = false →
    (s.far.group g.val).watermark + 6 < 75497472 →
    ∃ t, exec (.rebuildRowMove g) s = .next t ∧ (t.far.group g.val).watermark = (s.far.group g.val).watermark + 6 ∧
      (t.far.group g.val).st = (s.far.group g.val).st ∧ (t.far.group g.val).lost = (s.far.group g.val).lost ∧
      t.far.tags = s.far.tags ∧ t.far.deltas = [] ∧ t.tab = s.tab ∧ t.cores = s.cores ∧ t.dies = s.dies) ∧
  (∀ (g : Fin 2) (s : State), (s.far.group g.val).rebuilding = false → exec (.rebuildRowMove g) s = .next s) ∧
  (∀ s : State, s.near.toPlace = true → nearStacks s = [] →
    exec .nearReplacementDone s = .next { s with near := { s.near with toPlace := false, rootBack := [] } }) ∧
  (∀ s : State, s.near.toPlace = true → nearStacks s ≠ [] →
    exec .nearReplacementDone s = .next
      (let u := roomFor (nearStacks s)
         (sortBy (·.streamed) (s.tab.caddies.filter (fun c => c.st == .resident && !caddyBound s c.index))) s
       u.updNear (fun n => { n with toPlace := false, rootBack := [], pieces := (placeAll u (nearStacks s)
         (u.tab.caddies.filter (fun c => c.st == .resident))) })))

/-- After reset no hub leads, both run their boot ROM and are yet to join, the registers hold the reset values of
  their tables, and no memory lists a cell. (20_registers.md: R505, 20_registers.md: R506, 20_registers.md: R511,
  08_programs.md: R204, 12_memory.md: R307, 12_memory.md: R299). -/
def Obligations.ResetLeavesTheValuesTheSpecGives : Prop :=
  State.reset.pending = [] ∧ State.reset.dev.dstate = 1 ∧ State.reset.dev.lead = none ∧ State.reset.dev.loadSerial = 1 ∧
  (∀ h : Hub, (State.reset.hub h).inRom = true ∧ (State.reset.hub h).svc = .rejoining ∧ (State.reset.hub h).gcount = 0 ∧
    (State.reset.hub h).hrstCount = 0 ∧ (State.reset.hub h).pwrfail = false ∧ (State.reset.hub h).thermLevel = 0 ∧
    (State.reset.hub h).image = none ∧ (State.reset.hub h).protCtrl = 0 ∧ (State.reset.hub h).protLock = 0 ∧
    (State.reset.hub h).protRegionBase = 0 ∧ (State.reset.hub h).measGen = 0 ∧ (State.reset.hub h).cfgDigest = 0 ∧
    (State.reset.hub h).meas0 = Config.romDigest ∧ (State.reset.hub h).meas1 = 0 ∧ (State.reset.hub h).meas2 = 0 ∧
    (State.reset.hub h).meas3 = 0 ∧ (State.reset.hub h).meas4 = 0) ∧
  (∀ p : Port, (∀ m, (getMailbox State.reset p m).st = .free) ∧ (State.reset.port p).errSummary = 0 ∧
    (State.reset.port p).farWindow = 0 ∧ (State.reset.port p).windowMiss = 0 ∧ (State.reset.port p).evtSet = false) ∧
  (State.reset.dev.corrStack = 0 ∧ State.reset.dev.corrSram = 0 ∧ State.reset.dev.corrPath = 0 ∧ State.reset.dev.resent = 0 ∧
    State.reset.dev.dataLoss = 0) ∧
  State.reset.far.g0.st = .normal ∧ State.reset.far.g1.st = .normal ∧ (∀ b, (State.reset.far.tag b).st = .never) ∧
  (∀ d, (State.reset.die d).powered = false) ∧ (∀ c, coreInService State.reset c = false) ∧ memoriesWf State.reset = true

/-- Whatever command stands in front, a step keeps every memory of the device and of the hosts in its canonical form.
  (12_memory.md: R298, 12_memory.md: R302, 13_host.md: R325). -/
def Obligations.StepKeepsMemoriesCanonical : Prop :=
  ∀ s t : State, memoriesWf s = true → step s = .next t → memoriesWf t = true

/-- In every state whose waiting commands are well-formed, a step never stops: it answers a next state, takes the
  front command alone and leaves the rest in order. (13_host.md: R320, 13_host.md: R323). -/
def Obligations.QueuedCommandsRunInOrderWithoutAStop : Prop :=
  ∀ s : State, s.pending.all Instr.wf = true →
    ∃ t, step s = .next t ∧ t.pending = s.pending.tail ∧ t.pending.all Instr.wf = true

/-- A COEFF automorphism with element g puts at t the coefficient u = t / g modulo 2N, negated where u is N or more.
  (04_transforms.md: R110). -/
def Obligations.CoefficientAutomorphismMovesAndNegates : Prop :=
  ∀ (m q g ginv : Nat) (a : List Nat), m ≤ 17 → g % 2 = 1 → g < 2 ^ (m + 1) → ginv * g % 2 ^ (m + 1) = 1 % 2 ^ (m + 1) →
    0 < q → a.length = 2 ^ m → (∀ x ∈ a, x < q) →
    (galoisCoeff m q g a).length = 2 ^ m ∧
    ∀ t, t < 2 ^ m → (galoisCoeff m q g a).getD t 0 =
      (let u := ginv * t % 2 ^ (m + 1)
       if u < 2 ^ m then a.getD u 0 else (q - a.getD (u - 2 ^ m) 0) % q)

/-- With INTR 1 a NOTIFY entry sends one message on VECTOR once its record stands; a message for a masked vector is
  pending, and one already pending takes it in. (13_host.md: R337). -/
def Obligations.NotifyingRecordSendsOneMessage : Prop :=
  ∀ (n : Nat) (s : State) (q : Queue) (c : Cmd), owedRecord s n = some (q, c) → c.compared = true →
    let u := writeRecord s { q with intr := false } c
    (∀ p : Port, q.intr = true → c.entry.notify = true → q.home = .port p →
      exec (.completionRecordPost n) s = .next (settleDestroys (u.updPort p (fun ps => ps.signal q.vector)))) ∧
    (q.intr = false ∨ c.entry.notify = false ∨ q.home = .fabric → exec (.completionRecordPost n) s = .next (settleDestroys u)) ∧
    (∀ p : Port, ((u.port p).vector q.vector).masked = false →
      ((u.port p).signal q.vector).msixOut =
          (u.port p).msixOut ++ [(((u.port p).vector q.vector).addr, ((u.port p).vector q.vector).data)] ∧
        ((u.port p).signal q.vector).msixPending = (u.port p).msixPending) ∧
    (∀ p : Port, ((u.port p).vector q.vector).masked = true →
      ((u.port p).signal q.vector).msixOut = (u.port p).msixOut ∧
        (q.vector < 16 → ((u.port p).signal q.vector).msixPending.getLsbD q.vector = true)) ∧
    (∀ p : Port, ((u.port p).vector q.vector).masked = true → (u.port p).msixPending.getLsbD q.vector = true →
      (u.port p).signal q.vector = u.port p)

/-- ADD, SUB, NEG, MUL.PT and MUL.CT compute every word of their result modulo the prime of its limb.
  (05_matrix_vector.md: R131, 08_programs.md: R208). -/
def Obligations.ElementWiseOperationsComputeModQ : Prop :=
  ∀ (c n : Nat) (qs : List Nat) (os : List Obj) (i t q : Nat), qs[i]? = some q → t < n →
    let a := fun k j => (Poly.limb (src os k) j i n).getD t 0
    let w := fun (p : Poly) j => ((p.getD j []).getD i []).getD t 0
    (∀ j, j < c → w (zipPoly limbAdd c qs n os) j = (a 0 j + a 1 j) % q) ∧
    (∀ j, j < c → 0 < q → w (zipPoly limbSub c qs n os) j < q ∧ (w (zipPoly limbSub c qs n os) j + a 1 j) % q = a 0 j % q) ∧
    (∀ j, j < c → 0 < q → w (negPoly c qs n os) j < q ∧ (w (negPoly c qs n os) j + a 0 j) % q = 0) ∧
    (∀ j, j < c → w (mulPtPoly c qs n os) j = a 0 j * a 1 0 % q) ∧
    (w (mulCtPoly 3 qs n os) 0 = a 0 0 * a 1 0 % q ∧
      w (mulCtPoly 3 qs n os) 1 = (a 0 0 * a 1 1 + a 0 1 * a 1 0) % q ∧
      w (mulCtPoly 3 qs n os) 2 = a 0 1 * a 1 1 % q)
end

