-- ==== Sys2Proof/Laws/Exec.lean ====
section
/-! SUPPORT. Each command's meaning by name, so that no proof unfolds the dispatch. -/

namespace Sys2Proof.Machine

open Sys2Proof

@[simp] theorem exec_getInfo (rq : MbxReq) (s : State) :
    exec (.getInfo rq) s = execGetInfo rq s := rfl
@[simp] theorem exec_configLoad (rq : MbxReq) (s : State) :
    exec (.configLoad rq) s = execConfigLoad rq s := rfl
@[simp] theorem exec_fwLoad (rq : MbxReq) (s : State) :
    exec (.fwLoad rq) s = execFwLoad rq s := rfl
@[simp] theorem exec_spdm (rq : MbxReq) (s : State) :
    exec (.spdm rq) s = execSpdm rq s := rfl
@[simp] theorem exec_doeMessage (port : Port) (msg : List Byte) (s : State) :
    exec (.doeMessage port msg) s = execDoeMessage port msg s := rfl
@[simp] theorem exec_memGrant (rq : MbxReq) (s : State) :
    exec (.memGrant rq) s = execMemGrant rq s := rfl
@[simp] theorem exec_memRelease (rq : MbxReq) (s : State) :
    exec (.memRelease rq) s = execMemRelease rq s := rfl
@[simp] theorem exec_copyIn (rq : MbxReq) (s : State) :
    exec (.copyIn rq) s = execCopyIn rq s := rfl
@[simp] theorem exec_copyOut (rq : MbxReq) (s : State) :
    exec (.copyOut rq) s = execCopyOut rq s := rfl
@[simp] theorem exec_chainLoad (rq : MbxReq) (s : State) :
    exec (.chainLoad rq) s = execChainLoad rq s := rfl
@[simp] theorem exec_chainUnload (rq : MbxReq) (s : State) :
    exec (.chainUnload rq) s = execChainUnload rq s := rfl
@[simp] theorem exec_caddyLoad (rq : MbxReq) (s : State) :
    exec (.caddyLoad rq) s = execCaddyLoad rq s := rfl
@[simp] theorem exec_caddyLoadDone (caddy : Nat) (s : State) :
    exec (.caddyLoadDone caddy) s = execCaddyLoadDone caddy s := rfl
@[simp] theorem exec_caddyUnload (rq : MbxReq) (s : State) :
    exec (.caddyUnload rq) s = execCaddyUnload rq s := rfl
@[simp] theorem exec_caddyQuery (rq : MbxReq) (s : State) :
    exec (.caddyQuery rq) s = execCaddyQuery rq s := rfl
@[simp] theorem exec_caddyResident (caddy : Nat) (s : State) :
    exec (.caddyResident caddy) s = execCaddyResident caddy s := rfl
@[simp] theorem exec_programLoad (rq : MbxReq) (body : Body) (s : State) :
    exec (.programLoad rq body) s = execProgramLoad rq body s := rfl
@[simp] theorem exec_programUnload (rq : MbxReq) (s : State) :
    exec (.programUnload rq) s = execProgramUnload rq s := rfl
@[simp] theorem exec_jobCreate (rq : MbxReq) (s : State) :
    exec (.jobCreate rq) s = execJobCreate rq s := rfl
@[simp] theorem exec_jobDestroy (rq : MbxReq) (s : State) :
    exec (.jobDestroy rq) s = execJobDestroy rq s := rfl
@[simp] theorem exec_jobStatus (rq : MbxReq) (s : State) :
    exec (.jobStatus rq) s = execJobStatus rq s := rfl
@[simp] theorem exec_queueCreate (rq : MbxReq) (s : State) :
    exec (.queueCreate rq) s = execQueueCreate rq s := rfl
@[simp] theorem exec_queueSet (rq : MbxReq) (s : State) :
    exec (.queueSet rq) s = execQueueSet rq s := rfl
@[simp] theorem exec_queueCancel (rq : MbxReq) (s : State) :
    exec (.queueCancel rq) s = execQueueCancel rq s := rfl
@[simp] theorem exec_queueResume (rq : MbxReq) (s : State) :
    exec (.queueResume rq) s = execQueueResume rq s := rfl
@[simp] theorem exec_queueReset (rq : MbxReq) (s : State) :
    exec (.queueReset rq) s = execQueueReset rq s := rfl
@[simp] theorem exec_queueDestroy (rq : MbxReq) (s : State) :
    exec (.queueDestroy rq) s = execQueueDestroy rq s := rfl
@[simp] theorem exec_queueRehome (rq : MbxReq) (s : State) :
    exec (.queueRehome rq) s = execQueueRehome rq s := rfl
@[simp] theorem exec_eventRingSet (rq : MbxReq) (s : State) :
    exec (.eventRingSet rq) s = execEventRingSet rq s := rfl
@[simp] theorem exec_rebuildShare (rq : MbxReq) (s : State) :
    exec (.rebuildShare rq) s = execRebuildShare rq s := rfl
@[simp] theorem exec_fabEnum (rq : MbxReq) (tree : List WorkerFound) (s : State) :
    exec (.fabEnum rq tree) s = execFabEnum rq tree s := rfl
@[simp] theorem exec_fabStatus (rq : MbxReq) (answer : List Byte) (s : State) :
    exec (.fabStatus rq answer) s = execFabStatus rq answer s := rfl
@[simp] theorem exec_fabForward (rq : MbxReq) (answer : List Byte) (s : State) :
    exec (.fabForward rq answer) s = execFabForward rq answer s := rfl
@[simp] theorem exec_fabEvents (rq : MbxReq) (drained : List (List Byte)) (s : State) :
    exec (.fabEvents rq drained) s = execFabEvents rq drained s := rfl
@[simp] theorem exec_fabDoorbell (rq : MbxReq) (s : State) :
    exec (.fabDoorbell rq) s = execFabDoorbell rq s := rfl
@[simp] theorem exec_fabLaunch (rq : MbxReq) (late : List Nat) (s : State) :
    exec (.fabLaunch rq late) s = execFabLaunch rq late s := rfl
@[simp] theorem exec_launchDoorbellApply (queue : Nat) (s : State) :
    exec (.launchDoorbellApply queue) s = execLaunchDoorbellApply queue s := rfl
@[simp] theorem exec_fabLink (rq : MbxReq) (answers : List (Nat × Nat × List Nat × List Nat)) (s : State) :
    exec (.fabLink rq answers) s = execFabLink rq answers s := rfl
@[simp] theorem exec_fabPair (rq : MbxReq) (s : State) :
    exec (.fabPair rq) s = execFabPair rq s := rfl
@[simp] theorem exec_fabSeal (rq : MbxReq) (s : State) :
    exec (.fabSeal rq) s = execFabSeal rq s := rfl
@[simp] theorem exec_svcStatus (rq : MbxReq) (s : State) :
    exec (.svcStatus rq) s = execSvcStatus rq s := rfl
@[simp] theorem exec_coreRetire (rq : MbxReq) (s : State) :
    exec (.coreRetire rq) s = execCoreRetire rq s := rfl
@[simp] theorem exec_coreTest (rq : MbxReq) (s : State) :
    exec (.coreTest rq) s = execCoreTest rq s := rfl
@[simp] theorem exec_coreInfo (rq : MbxReq) (s : State) :
    exec (.coreInfo rq) s = execCoreInfo rq s := rfl
@[simp] theorem exec_dieDown (rq : MbxReq) (s : State) :
    exec (.dieDown rq) s = execDieDown rq s := rfl
@[simp] theorem exec_dieUp (rq : MbxReq) (s : State) :
    exec (.dieUp rq) s = execDieUp rq s := rfl
@[simp] theorem exec_hubSwap (rq : MbxReq) (s : State) :
    exec (.hubSwap rq) s = execHubSwap rq s := rfl
@[simp] theorem exec_hubRejoin (rq : MbxReq) (s : State) :
    exec (.hubRejoin rq) s = execHubRejoin rq s := rfl
@[simp] theorem exec_hubRejoinDone (hub : Hub) (s : State) :
    exec (.hubRejoinDone hub) s = execHubRejoinDone hub s := rfl
@[simp] theorem exec_firmwareActivation (s : State) :
    exec (.firmwareActivation) s = execFirmwareActivation s := rfl
@[simp] theorem exec_bboxInfo (rq : MbxReq) (s : State) :
    exec (.bboxInfo rq) s = execBboxInfo rq s := rfl
@[simp] theorem exec_bboxRead (rq : MbxReq) (s : State) :
    exec (.bboxRead rq) s = execBboxRead rq s := rfl
@[simp] theorem exec_bootImage (rq : MbxReq) (s : State) :
    exec (.bootImage rq) s = execBootImage rq s := rfl
@[simp] theorem exec_attest (rq : MbxReq) (s : State) :
    exec (.attest rq) s = execAttest rq s := rfl
@[simp] theorem exec_identityGet (rq : MbxReq) (s : State) :
    exec (.identityGet rq) s = execIdentityGet rq s := rfl
@[simp] theorem exec_protSet (rq : MbxReq) (s : State) :
    exec (.protSet rq) s = execProtSet rq s := rfl
@[simp] theorem exec_regionSet (rq : MbxReq) (s : State) :
    exec (.regionSet rq) s = execRegionSet rq s := rfl
@[simp] theorem exec_svnCommit (rq : MbxReq) (s : State) :
    exec (.svnCommit rq) s = execSvnCommit rq s := rfl
@[simp] theorem exec_integratorEnroll (rq : MbxReq) (s : State) :
    exec (.integratorEnroll rq) s = execIntegratorEnroll rq s := rfl
@[simp] theorem exec_mbxAck (port : Port) (value : W64) (s : State) :
    exec (.mbxAck port value) s = execMbxAck port value s := rfl
@[simp] theorem exec_sqTail (port : Port) (queue : Nat) (value : W64) (s : State) :
    exec (.sqTail port queue value) s = execSqTail port queue value s := rfl
@[simp] theorem exec_cqHead (port : Port) (queue : Nat) (value : W64) (s : State) :
    exec (.cqHead port queue value) s = execCqHead port queue value s := rfl
@[simp] theorem exec_evtHead (port : Port) (value : W64) (s : State) :
    exec (.evtHead port value) s = execEvtHead port value s := rfl
@[simp] theorem exec_pwrCap (port : Port) (value : W32) (s : State) :
    exec (.pwrCap port value) s = execPwrCap port value s := rfl
@[simp] theorem exec_farWindow (port : Port) (value : W64) (s : State) :
    exec (.farWindow port value) s = execFarWindow port value s := rfl
@[simp] theorem exec_bar2Read (port : Port) (offset : Nat) (length : Nat) (s : State) :
    exec (.bar2Read port offset length) s = execBar2Read port offset length s := rfl
@[simp] theorem exec_bar2Write (port : Port) (offset : Nat) (data : List Byte) (s : State) :
    exec (.bar2Write port offset data) s = execBar2Write port offset data s := rfl
@[simp] theorem exec_gcountLowRead (port : Port) (s : State) :
    exec (.gcountLowRead port) s = execGcountLowRead port s := rfl
@[simp] theorem exec_gcountHighRead (port : Port) (s : State) :
    exec (.gcountHighRead port) s = execGcountHighRead port s := rfl
@[simp] theorem exec_registerWrite (path : RegPath) (offset : Nat) (data : List Byte) (s : State) :
    exec (.registerWrite path offset data) s = execRegisterWrite path offset data s := rfl
@[simp] theorem exec_cfgData (hub : Hub) (value : W32) (s : State) :
    exec (.cfgData hub value) s = execCfgData hub value s := rfl
@[simp] theorem exec_cfgPtr (hub : Hub) (value : W32) (s : State) :
    exec (.cfgPtr hub value) s = execCfgPtr hub value s := rfl
@[simp] theorem exec_go (hub : Hub) (value : W32) (s : State) :
    exec (.go hub value) s = execGo hub value s := rfl
@[simp] theorem exec_add (queue : Nat) (s : State) :
    exec (.add queue) s = execAdd queue s := rfl
@[simp] theorem exec_sub (queue : Nat) (s : State) :
    exec (.sub queue) s = execSub queue s := rfl
@[simp] theorem exec_neg (queue : Nat) (s : State) :
    exec (.neg queue) s = execNeg queue s := rfl
@[simp] theorem exec_mulPt (queue : Nat) (s : State) :
    exec (.mulPt queue) s = execMulPt queue s := rfl
@[simp] theorem exec_mulCt (queue : Nat) (s : State) :
    exec (.mulCt queue) s = execMulCt queue s := rfl
@[simp] theorem exec_relin (queue : Nat) (s : State) :
    exec (.relin queue) s = execRelin queue s := rfl
@[simp] theorem exec_rotate (queue : Nat) (s : State) :
    exec (.rotate queue) s = execRotate queue s := rfl
@[simp] theorem exec_conjugate (queue : Nat) (s : State) :
    exec (.conjugate queue) s = execConjugate queue s := rfl
@[simp] theorem exec_linear (queue : Nat) (s : State) :
    exec (.linear queue) s = execLinear queue s := rfl
@[simp] theorem exec_rescale (queue : Nat) (s : State) :
    exec (.rescale queue) s = execRescale queue s := rfl
@[simp] theorem exec_levelDrop (queue : Nat) (s : State) :
    exec (.levelDrop queue) s = execLevelDrop queue s := rfl
@[simp] theorem exec_nttFwd (queue : Nat) (s : State) :
    exec (.nttFwd queue) s = execNttFwd queue s := rfl
@[simp] theorem exec_nttInv (queue : Nat) (s : State) :
    exec (.nttInv queue) s = execNttInv queue s := rfl
@[simp] theorem exec_matmul (queue : Nat) (s : State) :
    exec (.matmul queue) s = execMatmul queue s := rfl
@[simp] theorem exec_map (queue : Nat) (s : State) :
    exec (.map queue) s = execMap queue s := rfl
@[simp] theorem exec_gather (queue : Nat) (s : State) :
    exec (.gather queue) s = execGather queue s := rfl
@[simp] theorem exec_scatter (queue : Nat) (s : State) :
    exec (.scatter queue) s = execScatter queue s := rfl
@[simp] theorem exec_scatterAdd (queue : Nat) (s : State) :
    exec (.scatterAdd queue) s = execScatterAdd queue s := rfl
@[simp] theorem exec_copy (queue : Nat) (s : State) :
    exec (.copy queue) s = execCopy queue s := rfl
@[simp] theorem exec_remoteAdd (queue : Nat) (s : State) :
    exec (.remoteAdd queue) s = execRemoteAdd queue s := rfl
@[simp] theorem exec_bootstrap (queue : Nat) (s : State) :
    exec (.bootstrap queue) s = execBootstrap queue s := rfl
@[simp] theorem exec_switchOut (queue : Nat) (s : State) :
    exec (.switchOut queue) s = execSwitchOut queue s := rfl
@[simp] theorem exec_lut (queue : Nat) (s : State) :
    exec (.lut queue) s = execLut queue s := rfl
@[simp] theorem exec_repack (queue : Nat) (s : State) :
    exec (.repack queue) s = execRepack queue s := rfl
@[simp] theorem exec_exportOp (queue : Nat) (s : State) :
    exec (.exportOp queue) s = execExportOp queue s := rfl
@[simp] theorem exec_flagSet (queue : Nat) (s : State) :
    exec (.flagSet queue) s = execFlagSet queue s := rfl
@[simp] theorem exec_flagWait (queue : Nat) (s : State) :
    exec (.flagWait queue) s = execFlagWait queue s := rfl
@[simp] theorem exec_nop (queue : Nat) (s : State) :
    exec (.nop queue) s = execNop queue s := rfl
@[simp] theorem exec_boundaryCommand (queue : Nat) (s : State) :
    exec (.boundaryCommand queue) s = execBoundaryCommand queue s := rfl
@[simp] theorem exec_taskPlace (core : Nat) (s : State) :
    exec (.taskPlace core) s = execTaskPlace core s := rfl
@[simp] theorem exec_claim (core : Nat) (queue : Nat) (serial : Nat) (phase : Nat) (s : State) :
    exec (.claim core queue serial phase) s = execClaim core queue serial phase s := rfl
@[simp] theorem exec_taskComplete (core : Nat) (slot : Nat) (s : State) :
    exec (.taskComplete core slot) s = execTaskComplete core slot s := rfl
@[simp] theorem exec_passNotice (core : Nat) (handle : Nat) (claim : Claim) (s : State) :
    exec (.passNotice core handle claim) s = execPassNotice core handle claim s := rfl
@[simp] theorem exec_nttFwdInstruction (core : Nat) (s : State) :
    exec (.nttFwdInstruction core) s = execNttFwdInstruction core s := rfl
@[simp] theorem exec_nttInvInstruction (core : Nat) (s : State) :
    exec (.nttInvInstruction core) s = execNttInvInstruction core s := rfl
@[simp] theorem exec_mxaMatmul (core : Nat) (s : State) :
    exec (.mxaMatmul core) s = execMxaMatmul core s := rfl
@[simp] theorem exec_inner (core : Nat) (s : State) :
    exec (.inner core) s = execInner core s := rfl
@[simp] theorem exec_bconvFast (core : Nat) (s : State) :
    exec (.bconvFast core) s = execBconvFast core s := rfl
@[simp] theorem exec_bconvExact (core : Nat) (s : State) :
    exec (.bconvExact core) s = execBconvExact core s := rfl
@[simp] theorem exec_vxeChain (core : Nat) (s : State) :
    exec (.vxeChain core) s = execVxeChain core s := rfl
@[simp] theorem exec_dma (core : Nat) (s : State) :
    exec (.dma core) s = execDma core s := rfl
@[simp] theorem exec_dmaTransferStart (core : Nat) (pq : Nat) (s : State) :
    exec (.dmaTransferStart core pq) s = execDmaTransferStart core pq s := rfl
@[simp] theorem exec_fold (core : Nat) (s : State) :
    exec (.fold core) s = execFold core s := rfl
@[simp] theorem exec_foldApply (core : Nat) (handle : Nat) (s : State) :
    exec (.foldApply core handle) s = execFoldApply core handle s := rfl
@[simp] theorem exec_signal (core : Nat) (s : State) :
    exec (.signal core) s = execSignal core s := rfl
@[simp] theorem exec_wait (core : Nat) (s : State) :
    exec (.wait core) s = execWait core s := rfl
@[simp] theorem exec_fenceSlot (core : Nat) (s : State) :
    exec (.fenceSlot core) s = execFenceSlot core s := rfl
@[simp] theorem exec_fenceKey (core : Nat) (s : State) :
    exec (.fenceKey core) s = execFenceKey core s := rfl
@[simp] theorem exec_scalarInstruction (core : Nat) (s : State) :
    exec (.scalarInstruction core) s = execScalarInstruction core s := rfl
@[simp] theorem exec_instructionComplete (core : Nat) (id : Nat) (s : State) :
    exec (.instructionComplete core id) s = execInstructionComplete core id s := rfl
@[simp] theorem exec_eventTimeout (core : Nat) (slot : Nat) (s : State) :
    exec (.eventTimeout core slot) s = execEventTimeout core slot s := rfl
@[simp] theorem exec_accumulatorCommit (queue : Nat) (serial : Nat) (s : State) :
    exec (.accumulatorCommit queue serial) s = execAccumulatorCommit queue serial s := rfl
@[simp] theorem exec_commandComplete (queue : Nat) (serial : Nat) (s : State) :
    exec (.commandComplete queue serial) s = execCommandComplete queue serial s := rfl
@[simp] theorem exec_completionRecordPost (queue : Nat) (s : State) :
    exec (.completionRecordPost queue) s = execCompletionRecordPost queue s := rfl
@[simp] theorem exec_commandAbort (queue : Nat) (serial : Nat) (cls : Nat) (s : State) :
    exec (.commandAbort queue serial cls) s = execCommandAbort queue serial cls s := rfl
@[simp] theorem exec_pieceSend (hub : Hub) (s : State) :
    exec (.pieceSend hub) s = execPieceSend hub s := rfl
@[simp] theorem exec_pieceArrive (die : Fin 8) (piece : PieceId) (s : State) :
    exec (.pieceArrive die piece) s = execPieceArrive die piece s := rfl
@[simp] theorem exec_pieceReady (die : Fin 8) (piece : PieceId) (s : State) :
    exec (.pieceReady die piece) s = execPieceReady die piece s := rfl
@[simp] theorem exec_fadd64 (op : MemOp) (value : W64) (s : State) :
    exec (.fadd64 op value) s = execFadd64 op value s := rfl
@[simp] theorem exec_set64 (address : Nat) (value : W64) (s : State) :
    exec (.set64 address value) s = execSet64 address value s := rfl
@[simp] theorem exec_watch64 (address : Nat) (threshold : W64) (queue : Nat) (s : State) :
    exec (.watch64 address threshold queue) s = execWatch64 address threshold queue s := rfl
@[simp] theorem exec_unwatch (stack : Fin 16) (number : Nat) (s : State) :
    exec (.unwatch stack number) s = execUnwatch stack number s := rfl
@[simp] theorem exec_watchAnswer (stack : Fin 16) (number : Nat) (s : State) :
    exec (.watchAnswer stack number) s = execWatchAnswer stack number s := rfl
@[simp] theorem exec_watchPoll (queue : Nat) (s : State) :
    exec (.watchPoll queue) s = execWatchPoll queue s := rfl
@[simp] theorem exec_flagWaitTimeout (queue : Nat) (s : State) :
    exec (.flagWaitTimeout queue) s = execFlagWaitTimeout queue s := rfl
@[simp] theorem exec_farBlockRead (block : Nat) (errors : List (Nat × BitVec 72)) (misread : Option (List Byte)) (s : State) :
    exec (.farBlockRead block errors misread) s = execFarBlockRead block errors misread s := rfl
@[simp] theorem exec_farBlockWrite (block : Nat) (offset : Nat) (data : List Byte) (s : State) :
    exec (.farBlockWrite block offset data) s = execFarBlockWrite block offset data s := rfl
@[simp] theorem exec_parityDelta (index : Nat) (s : State) :
    exec (.parityDelta index) s = execParityDelta index s := rfl
@[simp] theorem exec_scrub (block : Nat) (errors : List (Nat × BitVec 72)) (s : State) :
    exec (.scrub block errors) s = execScrub block errors s := rfl
@[simp] theorem exec_accumulatePacket (packet : AccPacket) (s : State) :
    exec (.accumulatePacket packet) s = execAccumulatePacket packet s := rfl
@[simp] theorem exec_mergeHdr (packet : AccPacket) (s : State) :
    exec (.mergeHdr packet) s = execMergeHdr packet s := rfl
@[simp] theorem exec_accumulateAnswer (answer : AccAnswer) (s : State) :
    exec (.accumulateAnswer answer) s = execAccumulateAnswer answer s := rfl
@[simp] theorem exec_packetResendTimeout (die : Fin 8) (rjob : Nat) (stack : Nat) (seq : Nat) (s : State) :
    exec (.packetResendTimeout die rjob stack seq) s = execPacketResendTimeout die rjob stack seq s := rfl
@[simp] theorem exec_beatError (beat : BeatHit) (s : State) :
    exec (.beatError beat) s = execBeatError beat s := rfl
@[simp] theorem exec_laneFault (physical : Nat) (engine : Engine) (s : State) :
    exec (.laneFault physical engine) s = execLaneFault physical engine s := rfl
@[simp] theorem exec_coreFault (physical : Nat) (s : State) :
    exec (.coreFault physical) s = execCoreFault physical s := rfl
@[simp] theorem exec_coreFenceDone (physical : Nat) (s : State) :
    exec (.coreFenceDone physical) s = execCoreFenceDone physical s := rfl
@[simp] theorem exec_coreSelfTestStart (die : Fin 8) (s : State) :
    exec (.coreSelfTestStart die) s = execCoreSelfTestStart die s := rfl
@[simp] theorem exec_coreSelfTestDone (die : Fin 8) (pass : Bool) (s : State) :
    exec (.coreSelfTestDone die pass) s = execCoreSelfTestDone die pass s := rfl
@[simp] theorem exec_dieCtrlRestart (die : Fin 8) (s : State) :
    exec (.dieCtrlRestart die) s = execDieCtrlRestart die s := rfl
@[simp] theorem exec_dieLost (die : Fin 8) (s : State) :
    exec (.dieLost die) s = execDieLost die s := rfl
@[simp] theorem exec_islandLost (die : Fin 8) (s : State) :
    exec (.islandLost die) s = execIslandLost die s := rfl
@[simp] theorem exec_farStackLost (stack : Fin 16) (s : State) :
    exec (.farStackLost stack) s = execFarStackLost stack s := rfl
@[simp] theorem exec_rebuildRowMove (group : Fin 2) (s : State) :
    exec (.rebuildRowMove group) s = execRebuildRowMove group s := rfl
@[simp] theorem exec_nearStackLost (stack : Fin 4) (s : State) :
    exec (.nearStackLost stack) s = execNearStackLost stack s := rfl
@[simp] theorem exec_nearReplacementDone (s : State) :
    exec (.nearReplacementDone) s = execNearReplacementDone s := rfl
@[simp] theorem exec_selfRefreshEntry (stack : Nat) (s : State) :
    exec (.selfRefreshEntry stack) s = execSelfRefreshEntry stack s := rfl
@[simp] theorem exec_hubFault (hub : Hub) (s : State) :
    exec (.hubFault hub) s = execHubFault hub s := rfl
@[simp] theorem exec_heartbeatTimeout (hub : Hub) (s : State) :
    exec (.heartbeatTimeout hub) s = execHeartbeatTimeout hub s := rfl
@[simp] theorem exec_sliceAbandon (s : State) :
    exec (.sliceAbandon) s = execSliceAbandon s := rfl
@[simp] theorem exec_recordFault (s : State) :
    exec (.recordFault) s = execRecordFault s := rfl
@[simp] theorem exec_recordRecovered (s : State) :
    exec (.recordRecovered) s = execRecordRecovered s := rfl
@[simp] theorem exec_pmbAlert (phases : Nat) (reading : W32) (s : State) :
    exec (.pmbAlert phases reading) s = execPmbAlert phases reading s := rfl
@[simp] theorem exec_portDown (port : Port) (s : State) :
    exec (.portDown port) s = execPortDown port s := rfl
@[simp] theorem exec_portUp (link : PortLink) (s : State) :
    exec (.portUp link) s = execPortUp link s := rfl
@[simp] theorem exec_perst (port : Port) (s : State) :
    exec (.perst port) s = execPerst port s := rfl
@[simp] theorem exec_flitReceive (worgon : Fin 12) (flit : Flit) (s : State) :
    exec (.flitReceive worgon flit) s = execFlitReceive worgon flit s := rfl
@[simp] theorem exec_linkLaneFail (worgon : Fin 12) (lane : Nat) (s : State) :
    exec (.linkLaneFail worgon lane) s = execLinkLaneFail worgon lane s := rfl
@[simp] theorem exec_laneRetrainDone (worgon : Fin 12) (pass : Bool) (s : State) :
    exec (.laneRetrainDone worgon pass) s = execLaneRetrainDone worgon pass s := rfl
@[simp] theorem exec_gcountSync (t1 : W64) (t2 : W64) (t3 : W64) (t4 : W64) (s : State) :
    exec (.gcountSync t1 t2 t3 t4) s = execGcountSync t1 t2 t3 t4 s := rfl
@[simp] theorem exec_workerLossTimeout (device : Nat) (s : State) :
    exec (.workerLossTimeout device) s = execWorkerLossTimeout device s := rfl
@[simp] theorem exec_workerRefusal (enumerating : Bool) (s : State) :
    exec (.workerRefusal enumerating) s = execWorkerRefusal enumerating s := rfl
@[simp] theorem exec_comparisonRecord (job : Nat) (serial : Nat) (block : Nat) (bcheck : W32) (s : State) :
    exec (.comparisonRecord job serial block bcheck) s = execComparisonRecord job serial block bcheck s := rfl
@[simp] theorem exec_peerLinkTimeout (job : Nat) (s : State) :
    exec (.peerLinkTimeout job) s = execPeerLinkTimeout job s := rfl
@[simp] theorem exec_porAssert (hub : Hub) (s : State) :
    exec (.porAssert hub) s = execPorAssert hub s := rfl
@[simp] theorem exec_porRelease (hub : Hub) (strap : Straps) (railsOk : Bool) (sris : Bool) (s : State) :
    exec (.porRelease hub strap railsOk sris) s = execPorRelease hub strap railsOk sris s := rfl
@[simp] theorem exec_railSettle (hub : Hub) (s : State) :
    exec (.railSettle hub) s = execRailSettle hub s := rfl
@[simp] theorem exec_hrst (hub : Hub) (s : State) :
    exec (.hrst hub) s = execHrst hub s := rfl
@[simp] theorem exec_pwrfail (s : State) :
    exec (.pwrfail) s = execPwrfail s := rfl
@[simp] theorem exec_leadAbsentTimeout (s : State) :
    exec (.leadAbsentTimeout) s = execLeadAbsentTimeout s := rfl
@[simp] theorem exec_imageOffer (hub : Hub) (source : OfferSource) (image : List Byte) (s : State) :
    exec (.imageOffer hub source image) s = execImageOffer hub source image s := rfl
@[simp] theorem exec_imageVerified (hub : Hub) (s : State) :
    exec (.imageVerified hub) s = execImageVerified hub s := rfl
@[simp] theorem exec_hubJoin (s : State) :
    exec (.hubJoin) s = execHubJoin s := rfl
@[simp] theorem exec_joinTimeout (s : State) :
    exec (.joinTimeout) s = execJoinTimeout s := rfl
@[simp] theorem exec_computePowerUpStep (railsOk : Bool) (failed : List Nat) (s : State) :
    exec (.computePowerUpStep railsOk failed) s = execComputePowerUpStep railsOk failed s := rfl
@[simp] theorem exec_sensorSample (sensor : Nat) (reading : W16) (s : State) :
    exec (.sensorSample sensor reading) s = execSensorSample sensor reading s := rfl
@[simp] theorem exec_thermalStep (die : Fin 8) (s : State) :
    exec (.thermalStep die) s = execThermalStep die s := rfl
@[simp] theorem exec_powerStep (watts : Nat) (amps : Nat) (s : State) :
    exec (.powerStep watts amps) s = execPowerStep watts amps s := rfl
@[simp] theorem exec_sleepTimeout (physical : Nat) (s : State) :
    exec (.sleepTimeout physical) s = execSleepTimeout physical s := rfl
@[simp] theorem exec_pllLock (physical : Nat) (s : State) :
    exec (.pllLock physical) s = execPllLock physical s := rfl
@[simp] theorem exec_runEntry (die : Fin 8) (s : State) :
    exec (.runEntry die) s = execRunEntry die s := rfl
@[simp] theorem exec_runExit (die : Fin 8) (s : State) :
    exec (.runExit die) s = execRunExit die s := rfl
@[simp] theorem exec_networkClockGate (die : Fin 8) (s : State) :
    exec (.networkClockGate die) s = execNetworkClockGate die s := rfl
@[simp] theorem exec_interruptingSliceStart (s : State) :
    exec (.interruptingSliceStart) s = execInterruptingSliceStart s := rfl
@[simp] theorem exec_worgonPortTrained (worgon : Fin 12) (s : State) :
    exec (.worgonPortTrained worgon) s = execWorgonPortTrained worgon s := rfl
@[simp] theorem exec_debugPortHalt (hub : Hub) (step : Bool) (s : State) :
    exec (.debugPortHalt hub step) s = execDebugPortHalt hub step s := rfl

end Sys2Proof.Machine
end

