-- ==== Sys2Proof/Laws/Rows.lean ====
section
/-! SUPPORT. Each mailbox command as `mailbox` with the checks of its row. -/

namespace Sys2Proof.Machine

open Sys2Proof

theorem execGetInfo_mailbox (rq : MbxReq) :
    ∃ handler, ∀ s, execGetInfo rq s =
      mailbox s (getInfoSpec) rq handler := ⟨_, fun _ => rfl⟩
theorem execConfigLoad_mailbox (rq : MbxReq) :
    ∃ handler, ∀ s, execConfigLoad rq s =
      mailbox s ({ loadSpec 0x0002 with states := [0] }) rq handler := ⟨_, fun _ => rfl⟩
theorem execFwLoad_mailbox (rq : MbxReq) :
    ∃ handler, ∀ s, execFwLoad rq s =
      mailbox s ({ loadSpec 0x0003 with service := true, range := fun b => if 0x4000000 < leAt b 8 6 then some 8 else none }) rq handler := ⟨_, fun _ => rfl⟩
theorem execSpdm_mailbox (rq : MbxReq) :
    ∃ handler, ∀ s, execSpdm rq s =
      mailbox s (spdmSpec) rq handler := ⟨_, fun _ => rfl⟩
theorem execMemGrant_mailbox (rq : MbxReq) :
    ∃ handler, ∀ s, execMemGrant rq s =
      mailbox s (grantSpec 0x0010) rq handler := ⟨_, fun _ => rfl⟩
theorem execMemRelease_mailbox (rq : MbxReq) :
    ∃ handler, ∀ s, execMemRelease rq s =
      mailbox s (grantSpec 0x0011) rq handler := ⟨_, fun _ => rfl⟩
theorem execCopyIn_mailbox (rq : MbxReq) :
    ∃ handler, ∀ s, execCopyIn rq s =
      mailbox s (copySpec 0x0012) rq handler := ⟨_, fun _ => rfl⟩
theorem execCopyOut_mailbox (rq : MbxReq) :
    ∃ handler, ∀ s, execCopyOut rq s =
      mailbox s (copySpec 0x0013) rq handler := ⟨_, fun _ => rfl⟩
theorem execChainLoad_mailbox (rq : MbxReq) :
    ∃ handler, ∀ s, execChainLoad rq s =
      mailbox s (loadSpec 0x0020) rq handler := ⟨_, fun _ => rfl⟩
theorem execChainUnload_mailbox (rq : MbxReq) :
    ∃ handler, ∀ s, execChainUnload rq s =
      mailbox s (nameSpec 0x0021) rq handler := ⟨_, fun _ => rfl⟩
theorem execCaddyLoad_mailbox (rq : MbxReq) :
    ∃ handler, ∀ s, execCaddyLoad rq s =
      mailbox s (loadSpec 0x0022) rq handler := ⟨_, fun _ => rfl⟩
theorem execCaddyUnload_mailbox (rq : MbxReq) :
    ∃ handler, ∀ s, execCaddyUnload rq s =
      mailbox s (nameSpec 0x0023) rq handler := ⟨_, fun _ => rfl⟩
theorem execCaddyQuery_mailbox (rq : MbxReq) :
    ∃ handler, ∀ s, execCaddyQuery rq s =
      mailbox s (nameSpec 0x0024) rq handler := ⟨_, fun _ => rfl⟩
theorem execProgramLoad_mailbox (rq : MbxReq) (body : Body) :
    ∃ handler, ∀ s, execProgramLoad rq body s =
      mailbox s (loadSpec 0x0028) rq handler := ⟨_, fun _ => rfl⟩
theorem execProgramUnload_mailbox (rq : MbxReq) :
    ∃ handler, ∀ s, execProgramUnload rq s =
      mailbox s (nameSpec 0x0029) rq handler := ⟨_, fun _ => rfl⟩
theorem execJobCreate_mailbox (rq : MbxReq) :
    ∃ handler, ∀ s, execJobCreate rq s =
      mailbox s ({ code := 0x0030, len := some 0x58 }) rq handler := ⟨_, fun _ => rfl⟩
theorem execJobDestroy_mailbox (rq : MbxReq) :
    ∃ handler, ∀ s, execJobDestroy rq s =
      mailbox s (nameSpec 0x0031) rq handler := ⟨_, fun _ => rfl⟩
theorem execJobStatus_mailbox (rq : MbxReq) :
    ∃ handler, ∀ s, execJobStatus rq s =
      mailbox s (nameSpec 0x0032) rq handler := ⟨_, fun _ => rfl⟩
theorem execQueueCreate_mailbox (rq : MbxReq) :
    ∃ handler, ∀ s, execQueueCreate rq s =
      mailbox s (queueCreateSpec) rq handler := ⟨_, fun _ => rfl⟩
theorem execQueueSet_mailbox (rq : MbxReq) :
    ∃ handler, ∀ s, execQueueSet rq s =
      mailbox s (queueSetSpec) rq handler := ⟨_, fun _ => rfl⟩
theorem execQueueCancel_mailbox (rq : MbxReq) :
    ∃ handler, ∀ s, execQueueCancel rq s =
      mailbox s (nameSpec 0x0042) rq handler := ⟨_, fun _ => rfl⟩
theorem execQueueResume_mailbox (rq : MbxReq) :
    ∃ handler, ∀ s, execQueueResume rq s =
      mailbox s (nameSpec 0x0043) rq handler := ⟨_, fun _ => rfl⟩
theorem execQueueReset_mailbox (rq : MbxReq) :
    ∃ handler, ∀ s, execQueueReset rq s =
      mailbox s (nameSpec 0x0044) rq handler := ⟨_, fun _ => rfl⟩
theorem execQueueDestroy_mailbox (rq : MbxReq) :
    ∃ handler, ∀ s, execQueueDestroy rq s =
      mailbox s (nameSpec 0x0045) rq handler := ⟨_, fun _ => rfl⟩
theorem execQueueRehome_mailbox (rq : MbxReq) :
    ∃ handler, ∀ s, execQueueRehome rq s =
      mailbox s (queueRehomeSpec) rq handler := ⟨_, fun _ => rfl⟩
theorem execEventRingSet_mailbox (rq : MbxReq) :
    ∃ handler, ∀ s, execEventRingSet rq s =
      mailbox s (eventRingSpec) rq handler := ⟨_, fun _ => rfl⟩
theorem execRebuildShare_mailbox (rq : MbxReq) :
    ∃ handler, ∀ s, execRebuildShare rq s =
      mailbox s (rebuildShareSpec) rq handler := ⟨_, fun _ => rfl⟩
theorem execFabEnum_mailbox (rq : MbxReq) (tree : List WorkerFound) :
    ∃ handler, ∀ s, execFabEnum rq tree s =
      mailbox s ({ code := 0x0080 }) rq handler := ⟨_, fun _ => rfl⟩
theorem execFabStatus_mailbox (rq : MbxReq) (answer : List Byte) :
    ∃ handler, ∀ s, execFabStatus rq answer s =
      mailbox s (deviceSpec 0x0081) rq handler := ⟨_, fun _ => rfl⟩
theorem execFabForward_mailbox (rq : MbxReq) (answer : List Byte) :
    ∃ handler, ∀ s, execFabForward rq answer s =
      mailbox s ({ code := 0x0082, len := none, reserved := [(0x01, 0, 248)], fits := forwardRange }) rq handler := ⟨_, fun _ => rfl⟩
theorem execFabEvents_mailbox (rq : MbxReq) (drained : List (List Byte)) :
    ∃ handler, ∀ s, execFabEvents rq drained s =
      mailbox s (deviceSpec 0x0083) rq handler := ⟨_, fun _ => rfl⟩
theorem execFabDoorbell_mailbox (rq : MbxReq) :
    ∃ handler, ∀ s, execFabDoorbell rq s =
      mailbox s ({ code := 0x0084, len := some 16, reserved := [(0x01, 0, 8), (0x04, 0, 32)] }) rq handler := ⟨_, fun _ => rfl⟩
theorem execFabLaunch_mailbox (rq : MbxReq) (late : List Nat) :
    ∃ handler, ∀ s, execFabLaunch rq late s =
      mailbox s ({ code := 0x0085, len := none, reserved := [(0x0A, 0, 48)], fits := launchFits, sizes := [(0x08, 2)], range := fun b => if 253 < leAt b 8 2 then some 0x08 else none }) rq handler := ⟨_, fun _ => rfl⟩
theorem execFabLink_mailbox (rq : MbxReq) (answers : List (Nat × Nat × List Nat × List Nat)) :
    ∃ handler, ∀ s, execFabLink rq answers s =
      mailbox s ({ code := 0x0086, len := none, reserved := [(0x02, 0, 16)], fits := linkFits, sizes := [(0x01, 1)] }) rq handler := ⟨_, fun _ => rfl⟩
theorem execFabPair_mailbox (rq : MbxReq) :
    ∃ handler, ∀ s, execFabPair rq s =
      mailbox s ({ code := 0x0087, len := some 8, reserved := [(0x04, 4, 28)] }) rq handler := ⟨_, fun _ => rfl⟩
theorem execFabSeal_mailbox (rq : MbxReq) :
    ∃ handler, ∀ s, execFabSeal rq s =
      mailbox s (deviceSpec 0x0088) rq handler := ⟨_, fun _ => rfl⟩
theorem execSvcStatus_mailbox (rq : MbxReq) :
    ∃ handler, ∀ s, execSvcStatus rq s =
      mailbox s ({ code := 0x00C0 }) rq handler := ⟨_, fun _ => rfl⟩
theorem execCoreRetire_mailbox (rq : MbxReq) :
    ∃ handler, ∀ s, execCoreRetire rq s =
      mailbox s (coreSpec 0x00C1 true) rq handler := ⟨_, fun _ => rfl⟩
theorem execCoreTest_mailbox (rq : MbxReq) :
    ∃ handler, ∀ s, execCoreTest rq s =
      mailbox s (coreSpec 0x00C2 true) rq handler := ⟨_, fun _ => rfl⟩
theorem execCoreInfo_mailbox (rq : MbxReq) :
    ∃ handler, ∀ s, execCoreInfo rq s =
      mailbox s (coreSpec 0x00C3 false) rq handler := ⟨_, fun _ => rfl⟩
theorem execDieDown_mailbox (rq : MbxReq) :
    ∃ handler, ∀ s, execDieDown rq s =
      mailbox s (dieSpec 0x00C4) rq handler := ⟨_, fun _ => rfl⟩
theorem execDieUp_mailbox (rq : MbxReq) :
    ∃ handler, ∀ s, execDieUp rq s =
      mailbox s (dieSpec 0x00C5) rq handler := ⟨_, fun _ => rfl⟩
theorem execHubSwap_mailbox (rq : MbxReq) :
    ∃ handler, ∀ s, execHubSwap rq s =
      mailbox s ({ code := 0x00C6, service := true }) rq handler := ⟨_, fun _ => rfl⟩
theorem execHubRejoin_mailbox (rq : MbxReq) :
    ∃ handler, ∀ s, execHubRejoin rq s =
      mailbox s ({ code := 0x00C7, service := true, len := some 16, reserved := [(0x0C, 1, 31)], sizes := [(0x08, 4)], range := fun b => if 0x4000000 < leAt b 8 4 then some 8 else none }) rq handler := ⟨_, fun _ => rfl⟩
theorem execBboxInfo_mailbox (rq : MbxReq) :
    ∃ handler, ∀ s, execBboxInfo rq s =
      mailbox s (recordSpec 0x00C8) rq handler := ⟨_, fun _ => rfl⟩
theorem execBboxRead_mailbox (rq : MbxReq) :
    ∃ handler, ∀ s, execBboxRead rq s =
      mailbox s ({ recordSpec 0x00C9 with len := some 16, reserved := [(0x09, 0, 56)], sizes := [(0x08, 1)], range := fun b => if 31 < leAt b 8 1 then some 8 else none }) rq handler := ⟨_, fun _ => rfl⟩
theorem execBootImage_mailbox (rq : MbxReq) :
    ∃ handler, ∀ s, execBootImage rq s =
      mailbox s ({ code := 0x0100, states := [1], len := some 16, reserved := [(0x0C, 0, 32)], sizes := [(0x08, 4)] }) rq handler := ⟨_, fun _ => rfl⟩
theorem execAttest_mailbox (rq : MbxReq) :
    ∃ handler, ∀ s, execAttest rq s =
      mailbox s ({ code := 0x0101, states := [0, 2, 3], len := some 40 }) rq handler := ⟨_, fun _ => rfl⟩
theorem execIdentityGet_mailbox (rq : MbxReq) :
    ∃ handler, ∀ s, execIdentityGet rq s =
      mailbox s ({ code := 0x0102, states := [0, 2, 3], len := some 16, reserved := [(0x09, 0, 24)], range := fun b => if 2 ≤ leAt b 8 1 then some 8 else none }) rq handler := ⟨_, fun _ => rfl⟩
theorem execProtSet_mailbox (rq : MbxReq) :
    ∃ handler, ∀ s, execProtSet rq s =
      mailbox s ({ code := 0x0103, service := true, len := some 16, reserved := [(0x00, 7, 25), (0x04, 4, 28)], range := protRange }) rq handler := ⟨_, fun _ => rfl⟩
theorem execRegionSet_mailbox (rq : MbxReq) :
    ∃ handler, ∀ s, execRegionSet rq s =
      mailbox s ({ code := 0x0104, service := true, len := some 12, reserved := [(0x08, 2, 6), (0x09, 0, 24)], sizes := [(0x04, 4)], range := fun b => if numExtents ≤ leAt b 0 4 then some 0 else if numExtents < leAt b 0 4 + leAt b 4 4 then some 4 else none }) rq handler := ⟨_, fun _ => rfl⟩
theorem execSvnCommit_mailbox (rq : MbxReq) :
    ∃ handler, ∀ s, execSvnCommit rq s =
      mailbox s ({ code := 0x0105, service := true }) rq handler := ⟨_, fun _ => rfl⟩
theorem execIntegratorEnroll_mailbox (rq : MbxReq) :
    ∃ handler, ∀ s, execIntegratorEnroll rq s =
      mailbox s ({ code := 0x0106, states := [0], len := some 100, reserved := [(0x61, 0, 24)] }) rq handler := ⟨_, fun _ => rfl⟩

end Sys2Proof.Machine
end

