-- ==== Sys2Proof/Laws/State.lean ====
section
/-! SUPPORT. What each update of the state does to each field: one lemma per field per update, and the laws of the tables
the state is kept in. -/

namespace Sys2Proof.Machine

open Sys2Proof

/-! Whole parts. -/


@[simp] theorem State.updDev_pending (s : State) (g) : (s.updDev g).pending = s.pending := rfl
@[simp] theorem State.updDev_freeCtr (s : State) (g) : (s.updDev g).freeCtr = s.freeCtr := rfl
@[simp] theorem State.updDev_dev (s : State) (g) : (s.updDev g).dev = g s.dev := rfl
@[simp] theorem State.updDev_h0 (s : State) (g) : (s.updDev g).h0 = s.h0 := rfl
@[simp] theorem State.updDev_h1 (s : State) (g) : (s.updDev g).h1 = s.h1 := rfl
@[simp] theorem State.updDev_pa (s : State) (g) : (s.updDev g).pa = s.pa := rfl
@[simp] theorem State.updDev_pb (s : State) (g) : (s.updDev g).pb = s.pb := rfl
@[simp] theorem State.updDev_far (s : State) (g) : (s.updDev g).far = s.far := rfl
@[simp] theorem State.updDev_near (s : State) (g) : (s.updDev g).near = s.near := rfl
@[simp] theorem State.updDev_key (s : State) (g) : (s.updDev g).key = s.key := rfl
@[simp] theorem State.updDev_dies (s : State) (g) : (s.updDev g).dies = s.dies := rfl
@[simp] theorem State.updDev_phys (s : State) (g) : (s.updDev g).phys = s.phys := rfl
@[simp] theorem State.updDev_cores (s : State) (g) : (s.updDev g).cores = s.cores := rfl
@[simp] theorem State.updDev_tab (s : State) (g) : (s.updDev g).tab = s.tab := rfl
@[simp] theorem State.updDev_record (s : State) (g) : (s.updDev g).record = s.record := rfl
@[simp] theorem State.updDev_fab (s : State) (g) : (s.updDev g).fab = s.fab := rfl
@[simp] theorem State.updDev_pwr (s : State) (g) : (s.updDev g).pwr = s.pwr := rfl

@[simp] theorem State.updTab_pending (s : State) (g) : (s.updTab g).pending = s.pending := rfl
@[simp] theorem State.updTab_freeCtr (s : State) (g) : (s.updTab g).freeCtr = s.freeCtr := rfl
@[simp] theorem State.updTab_dev (s : State) (g) : (s.updTab g).dev = s.dev := rfl
@[simp] theorem State.updTab_h0 (s : State) (g) : (s.updTab g).h0 = s.h0 := rfl
@[simp] theorem State.updTab_h1 (s : State) (g) : (s.updTab g).h1 = s.h1 := rfl
@[simp] theorem State.updTab_pa (s : State) (g) : (s.updTab g).pa = s.pa := rfl
@[simp] theorem State.updTab_pb (s : State) (g) : (s.updTab g).pb = s.pb := rfl
@[simp] theorem State.updTab_far (s : State) (g) : (s.updTab g).far = s.far := rfl
@[simp] theorem State.updTab_near (s : State) (g) : (s.updTab g).near = s.near := rfl
@[simp] theorem State.updTab_key (s : State) (g) : (s.updTab g).key = s.key := rfl
@[simp] theorem State.updTab_dies (s : State) (g) : (s.updTab g).dies = s.dies := rfl
@[simp] theorem State.updTab_phys (s : State) (g) : (s.updTab g).phys = s.phys := rfl
@[simp] theorem State.updTab_cores (s : State) (g) : (s.updTab g).cores = s.cores := rfl
@[simp] theorem State.updTab_tab (s : State) (g) : (s.updTab g).tab = g s.tab := rfl
@[simp] theorem State.updTab_record (s : State) (g) : (s.updTab g).record = s.record := rfl
@[simp] theorem State.updTab_fab (s : State) (g) : (s.updTab g).fab = s.fab := rfl
@[simp] theorem State.updTab_pwr (s : State) (g) : (s.updTab g).pwr = s.pwr := rfl

@[simp] theorem State.updRecord_pending (s : State) (g) : (s.updRecord g).pending = s.pending := rfl
@[simp] theorem State.updRecord_freeCtr (s : State) (g) : (s.updRecord g).freeCtr = s.freeCtr := rfl
@[simp] theorem State.updRecord_dev (s : State) (g) : (s.updRecord g).dev = s.dev := rfl
@[simp] theorem State.updRecord_h0 (s : State) (g) : (s.updRecord g).h0 = s.h0 := rfl
@[simp] theorem State.updRecord_h1 (s : State) (g) : (s.updRecord g).h1 = s.h1 := rfl
@[simp] theorem State.updRecord_pa (s : State) (g) : (s.updRecord g).pa = s.pa := rfl
@[simp] theorem State.updRecord_pb (s : State) (g) : (s.updRecord g).pb = s.pb := rfl
@[simp] theorem State.updRecord_far (s : State) (g) : (s.updRecord g).far = s.far := rfl
@[simp] theorem State.updRecord_near (s : State) (g) : (s.updRecord g).near = s.near := rfl
@[simp] theorem State.updRecord_key (s : State) (g) : (s.updRecord g).key = s.key := rfl
@[simp] theorem State.updRecord_dies (s : State) (g) : (s.updRecord g).dies = s.dies := rfl
@[simp] theorem State.updRecord_phys (s : State) (g) : (s.updRecord g).phys = s.phys := rfl
@[simp] theorem State.updRecord_cores (s : State) (g) : (s.updRecord g).cores = s.cores := rfl
@[simp] theorem State.updRecord_tab (s : State) (g) : (s.updRecord g).tab = s.tab := rfl
@[simp] theorem State.updRecord_record (s : State) (g) : (s.updRecord g).record = g s.record := rfl
@[simp] theorem State.updRecord_fab (s : State) (g) : (s.updRecord g).fab = s.fab := rfl
@[simp] theorem State.updRecord_pwr (s : State) (g) : (s.updRecord g).pwr = s.pwr := rfl

@[simp] theorem State.updFab_pending (s : State) (g) : (s.updFab g).pending = s.pending := rfl
@[simp] theorem State.updFab_freeCtr (s : State) (g) : (s.updFab g).freeCtr = s.freeCtr := rfl
@[simp] theorem State.updFab_dev (s : State) (g) : (s.updFab g).dev = s.dev := rfl
@[simp] theorem State.updFab_h0 (s : State) (g) : (s.updFab g).h0 = s.h0 := rfl
@[simp] theorem State.updFab_h1 (s : State) (g) : (s.updFab g).h1 = s.h1 := rfl
@[simp] theorem State.updFab_pa (s : State) (g) : (s.updFab g).pa = s.pa := rfl
@[simp] theorem State.updFab_pb (s : State) (g) : (s.updFab g).pb = s.pb := rfl
@[simp] theorem State.updFab_far (s : State) (g) : (s.updFab g).far = s.far := rfl
@[simp] theorem State.updFab_near (s : State) (g) : (s.updFab g).near = s.near := rfl
@[simp] theorem State.updFab_key (s : State) (g) : (s.updFab g).key = s.key := rfl
@[simp] theorem State.updFab_dies (s : State) (g) : (s.updFab g).dies = s.dies := rfl
@[simp] theorem State.updFab_phys (s : State) (g) : (s.updFab g).phys = s.phys := rfl
@[simp] theorem State.updFab_cores (s : State) (g) : (s.updFab g).cores = s.cores := rfl
@[simp] theorem State.updFab_tab (s : State) (g) : (s.updFab g).tab = s.tab := rfl
@[simp] theorem State.updFab_record (s : State) (g) : (s.updFab g).record = s.record := rfl
@[simp] theorem State.updFab_fab (s : State) (g) : (s.updFab g).fab = g s.fab := rfl
@[simp] theorem State.updFab_pwr (s : State) (g) : (s.updFab g).pwr = s.pwr := rfl

@[simp] theorem State.updPwr_pending (s : State) (g) : (s.updPwr g).pending = s.pending := rfl
@[simp] theorem State.updPwr_freeCtr (s : State) (g) : (s.updPwr g).freeCtr = s.freeCtr := rfl
@[simp] theorem State.updPwr_dev (s : State) (g) : (s.updPwr g).dev = s.dev := rfl
@[simp] theorem State.updPwr_h0 (s : State) (g) : (s.updPwr g).h0 = s.h0 := rfl
@[simp] theorem State.updPwr_h1 (s : State) (g) : (s.updPwr g).h1 = s.h1 := rfl
@[simp] theorem State.updPwr_pa (s : State) (g) : (s.updPwr g).pa = s.pa := rfl
@[simp] theorem State.updPwr_pb (s : State) (g) : (s.updPwr g).pb = s.pb := rfl
@[simp] theorem State.updPwr_far (s : State) (g) : (s.updPwr g).far = s.far := rfl
@[simp] theorem State.updPwr_near (s : State) (g) : (s.updPwr g).near = s.near := rfl
@[simp] theorem State.updPwr_key (s : State) (g) : (s.updPwr g).key = s.key := rfl
@[simp] theorem State.updPwr_dies (s : State) (g) : (s.updPwr g).dies = s.dies := rfl
@[simp] theorem State.updPwr_phys (s : State) (g) : (s.updPwr g).phys = s.phys := rfl
@[simp] theorem State.updPwr_cores (s : State) (g) : (s.updPwr g).cores = s.cores := rfl
@[simp] theorem State.updPwr_tab (s : State) (g) : (s.updPwr g).tab = s.tab := rfl
@[simp] theorem State.updPwr_record (s : State) (g) : (s.updPwr g).record = s.record := rfl
@[simp] theorem State.updPwr_fab (s : State) (g) : (s.updPwr g).fab = s.fab := rfl
@[simp] theorem State.updPwr_pwr (s : State) (g) : (s.updPwr g).pwr = g s.pwr := rfl

@[simp] theorem State.updFar_pending (s : State) (g) : (s.updFar g).pending = s.pending := rfl
@[simp] theorem State.updFar_freeCtr (s : State) (g) : (s.updFar g).freeCtr = s.freeCtr := rfl
@[simp] theorem State.updFar_dev (s : State) (g) : (s.updFar g).dev = s.dev := rfl
@[simp] theorem State.updFar_h0 (s : State) (g) : (s.updFar g).h0 = s.h0 := rfl
@[simp] theorem State.updFar_h1 (s : State) (g) : (s.updFar g).h1 = s.h1 := rfl
@[simp] theorem State.updFar_pa (s : State) (g) : (s.updFar g).pa = s.pa := rfl
@[simp] theorem State.updFar_pb (s : State) (g) : (s.updFar g).pb = s.pb := rfl
@[simp] theorem State.updFar_far (s : State) (g) : (s.updFar g).far = g s.far := rfl
@[simp] theorem State.updFar_near (s : State) (g) : (s.updFar g).near = s.near := rfl
@[simp] theorem State.updFar_key (s : State) (g) : (s.updFar g).key = s.key := rfl
@[simp] theorem State.updFar_dies (s : State) (g) : (s.updFar g).dies = s.dies := rfl
@[simp] theorem State.updFar_phys (s : State) (g) : (s.updFar g).phys = s.phys := rfl
@[simp] theorem State.updFar_cores (s : State) (g) : (s.updFar g).cores = s.cores := rfl
@[simp] theorem State.updFar_tab (s : State) (g) : (s.updFar g).tab = s.tab := rfl
@[simp] theorem State.updFar_record (s : State) (g) : (s.updFar g).record = s.record := rfl
@[simp] theorem State.updFar_fab (s : State) (g) : (s.updFar g).fab = s.fab := rfl
@[simp] theorem State.updFar_pwr (s : State) (g) : (s.updFar g).pwr = s.pwr := rfl

@[simp] theorem State.updNear_pending (s : State) (g) : (s.updNear g).pending = s.pending := rfl
@[simp] theorem State.updNear_freeCtr (s : State) (g) : (s.updNear g).freeCtr = s.freeCtr := rfl
@[simp] theorem State.updNear_dev (s : State) (g) : (s.updNear g).dev = s.dev := rfl
@[simp] theorem State.updNear_h0 (s : State) (g) : (s.updNear g).h0 = s.h0 := rfl
@[simp] theorem State.updNear_h1 (s : State) (g) : (s.updNear g).h1 = s.h1 := rfl
@[simp] theorem State.updNear_pa (s : State) (g) : (s.updNear g).pa = s.pa := rfl
@[simp] theorem State.updNear_pb (s : State) (g) : (s.updNear g).pb = s.pb := rfl
@[simp] theorem State.updNear_far (s : State) (g) : (s.updNear g).far = s.far := rfl
@[simp] theorem State.updNear_near (s : State) (g) : (s.updNear g).near = g s.near := rfl
@[simp] theorem State.updNear_key (s : State) (g) : (s.updNear g).key = s.key := rfl
@[simp] theorem State.updNear_dies (s : State) (g) : (s.updNear g).dies = s.dies := rfl
@[simp] theorem State.updNear_phys (s : State) (g) : (s.updNear g).phys = s.phys := rfl
@[simp] theorem State.updNear_cores (s : State) (g) : (s.updNear g).cores = s.cores := rfl
@[simp] theorem State.updNear_tab (s : State) (g) : (s.updNear g).tab = s.tab := rfl
@[simp] theorem State.updNear_record (s : State) (g) : (s.updNear g).record = s.record := rfl
@[simp] theorem State.updNear_fab (s : State) (g) : (s.updNear g).fab = s.fab := rfl
@[simp] theorem State.updNear_pwr (s : State) (g) : (s.updNear g).pwr = s.pwr := rfl

@[simp] theorem State.updKey_pending (s : State) (g) : (s.updKey g).pending = s.pending := rfl
@[simp] theorem State.updKey_freeCtr (s : State) (g) : (s.updKey g).freeCtr = s.freeCtr := rfl
@[simp] theorem State.updKey_dev (s : State) (g) : (s.updKey g).dev = s.dev := rfl
@[simp] theorem State.updKey_h0 (s : State) (g) : (s.updKey g).h0 = s.h0 := rfl
@[simp] theorem State.updKey_h1 (s : State) (g) : (s.updKey g).h1 = s.h1 := rfl
@[simp] theorem State.updKey_pa (s : State) (g) : (s.updKey g).pa = s.pa := rfl
@[simp] theorem State.updKey_pb (s : State) (g) : (s.updKey g).pb = s.pb := rfl
@[simp] theorem State.updKey_far (s : State) (g) : (s.updKey g).far = s.far := rfl
@[simp] theorem State.updKey_near (s : State) (g) : (s.updKey g).near = s.near := rfl
@[simp] theorem State.updKey_key (s : State) (g) : (s.updKey g).key = g s.key := rfl
@[simp] theorem State.updKey_dies (s : State) (g) : (s.updKey g).dies = s.dies := rfl
@[simp] theorem State.updKey_phys (s : State) (g) : (s.updKey g).phys = s.phys := rfl
@[simp] theorem State.updKey_cores (s : State) (g) : (s.updKey g).cores = s.cores := rfl
@[simp] theorem State.updKey_tab (s : State) (g) : (s.updKey g).tab = s.tab := rfl
@[simp] theorem State.updKey_record (s : State) (g) : (s.updKey g).record = s.record := rfl
@[simp] theorem State.updKey_fab (s : State) (g) : (s.updKey g).fab = s.fab := rfl
@[simp] theorem State.updKey_pwr (s : State) (g) : (s.updKey g).pwr = s.pwr := rfl

/-! Entries of tables. -/

@[simp] theorem State.updDie_pending (s : State) (i : Nat) (g) : (s.updDie i g).pending = s.pending := rfl
@[simp] theorem State.updDie_freeCtr (s : State) (i : Nat) (g) : (s.updDie i g).freeCtr = s.freeCtr := rfl
@[simp] theorem State.updDie_dev (s : State) (i : Nat) (g) : (s.updDie i g).dev = s.dev := rfl
@[simp] theorem State.updDie_h0 (s : State) (i : Nat) (g) : (s.updDie i g).h0 = s.h0 := rfl
@[simp] theorem State.updDie_h1 (s : State) (i : Nat) (g) : (s.updDie i g).h1 = s.h1 := rfl
@[simp] theorem State.updDie_pa (s : State) (i : Nat) (g) : (s.updDie i g).pa = s.pa := rfl
@[simp] theorem State.updDie_pb (s : State) (i : Nat) (g) : (s.updDie i g).pb = s.pb := rfl
@[simp] theorem State.updDie_far (s : State) (i : Nat) (g) : (s.updDie i g).far = s.far := rfl
@[simp] theorem State.updDie_near (s : State) (i : Nat) (g) : (s.updDie i g).near = s.near := rfl
@[simp] theorem State.updDie_key (s : State) (i : Nat) (g) : (s.updDie i g).key = s.key := rfl
theorem State.updDie_dies (s : State) (i : Nat) (g) : (s.updDie i g).dies = tabPut {} s.dies i (g (s.die i)) := rfl
@[simp] theorem State.updDie_phys (s : State) (i : Nat) (g) : (s.updDie i g).phys = s.phys := rfl
@[simp] theorem State.updDie_cores (s : State) (i : Nat) (g) : (s.updDie i g).cores = s.cores := rfl
@[simp] theorem State.updDie_tab (s : State) (i : Nat) (g) : (s.updDie i g).tab = s.tab := rfl
@[simp] theorem State.updDie_record (s : State) (i : Nat) (g) : (s.updDie i g).record = s.record := rfl
@[simp] theorem State.updDie_fab (s : State) (i : Nat) (g) : (s.updDie i g).fab = s.fab := rfl
@[simp] theorem State.updDie_pwr (s : State) (i : Nat) (g) : (s.updDie i g).pwr = s.pwr := rfl

@[simp] theorem State.updPhys_pending (s : State) (i : Nat) (g) : (s.updPhys i g).pending = s.pending := rfl
@[simp] theorem State.updPhys_freeCtr (s : State) (i : Nat) (g) : (s.updPhys i g).freeCtr = s.freeCtr := rfl
@[simp] theorem State.updPhys_dev (s : State) (i : Nat) (g) : (s.updPhys i g).dev = s.dev := rfl
@[simp] theorem State.updPhys_h0 (s : State) (i : Nat) (g) : (s.updPhys i g).h0 = s.h0 := rfl
@[simp] theorem State.updPhys_h1 (s : State) (i : Nat) (g) : (s.updPhys i g).h1 = s.h1 := rfl
@[simp] theorem State.updPhys_pa (s : State) (i : Nat) (g) : (s.updPhys i g).pa = s.pa := rfl
@[simp] theorem State.updPhys_pb (s : State) (i : Nat) (g) : (s.updPhys i g).pb = s.pb := rfl
@[simp] theorem State.updPhys_far (s : State) (i : Nat) (g) : (s.updPhys i g).far = s.far := rfl
@[simp] theorem State.updPhys_near (s : State) (i : Nat) (g) : (s.updPhys i g).near = s.near := rfl
@[simp] theorem State.updPhys_key (s : State) (i : Nat) (g) : (s.updPhys i g).key = s.key := rfl
@[simp] theorem State.updPhys_dies (s : State) (i : Nat) (g) : (s.updPhys i g).dies = s.dies := rfl
theorem State.updPhys_phys (s : State) (i : Nat) (g) : (s.updPhys i g).phys = tabPut {} s.phys i (g (s.physCore i)) := rfl
@[simp] theorem State.updPhys_cores (s : State) (i : Nat) (g) : (s.updPhys i g).cores = s.cores := rfl
@[simp] theorem State.updPhys_tab (s : State) (i : Nat) (g) : (s.updPhys i g).tab = s.tab := rfl
@[simp] theorem State.updPhys_record (s : State) (i : Nat) (g) : (s.updPhys i g).record = s.record := rfl
@[simp] theorem State.updPhys_fab (s : State) (i : Nat) (g) : (s.updPhys i g).fab = s.fab := rfl
@[simp] theorem State.updPhys_pwr (s : State) (i : Nat) (g) : (s.updPhys i g).pwr = s.pwr := rfl

@[simp] theorem State.updCore_pending (s : State) (i : Nat) (g) : (s.updCore i g).pending = s.pending := rfl
@[simp] theorem State.updCore_freeCtr (s : State) (i : Nat) (g) : (s.updCore i g).freeCtr = s.freeCtr := rfl
@[simp] theorem State.updCore_dev (s : State) (i : Nat) (g) : (s.updCore i g).dev = s.dev := rfl
@[simp] theorem State.updCore_h0 (s : State) (i : Nat) (g) : (s.updCore i g).h0 = s.h0 := rfl
@[simp] theorem State.updCore_h1 (s : State) (i : Nat) (g) : (s.updCore i g).h1 = s.h1 := rfl
@[simp] theorem State.updCore_pa (s : State) (i : Nat) (g) : (s.updCore i g).pa = s.pa := rfl
@[simp] theorem State.updCore_pb (s : State) (i : Nat) (g) : (s.updCore i g).pb = s.pb := rfl
@[simp] theorem State.updCore_far (s : State) (i : Nat) (g) : (s.updCore i g).far = s.far := rfl
@[simp] theorem State.updCore_near (s : State) (i : Nat) (g) : (s.updCore i g).near = s.near := rfl
@[simp] theorem State.updCore_key (s : State) (i : Nat) (g) : (s.updCore i g).key = s.key := rfl
@[simp] theorem State.updCore_dies (s : State) (i : Nat) (g) : (s.updCore i g).dies = s.dies := rfl
@[simp] theorem State.updCore_phys (s : State) (i : Nat) (g) : (s.updCore i g).phys = s.phys := rfl
theorem State.updCore_cores (s : State) (i : Nat) (g) : (s.updCore i g).cores = tabPut {} s.cores i (g (s.core i)) := rfl
@[simp] theorem State.updCore_tab (s : State) (i : Nat) (g) : (s.updCore i g).tab = s.tab := rfl
@[simp] theorem State.updCore_record (s : State) (i : Nat) (g) : (s.updCore i g).record = s.record := rfl
@[simp] theorem State.updCore_fab (s : State) (i : Nat) (g) : (s.updCore i g).fab = s.fab := rfl
@[simp] theorem State.updCore_pwr (s : State) (i : Nat) (g) : (s.updCore i g).pwr = s.pwr := rfl

/-! Hubs and ports. -/

@[simp] theorem State.setHub_pending (s : State) (h : Hub) (v) : (s.setHub h v).pending = s.pending := by cases h <;> rfl
@[simp] theorem State.setHub_freeCtr (s : State) (h : Hub) (v) : (s.setHub h v).freeCtr = s.freeCtr := by cases h <;> rfl
@[simp] theorem State.setHub_dev (s : State) (h : Hub) (v) : (s.setHub h v).dev = s.dev := by cases h <;> rfl
@[simp] theorem State.setHub_pa (s : State) (h : Hub) (v) : (s.setHub h v).pa = s.pa := by cases h <;> rfl
@[simp] theorem State.setHub_pb (s : State) (h : Hub) (v) : (s.setHub h v).pb = s.pb := by cases h <;> rfl
@[simp] theorem State.setHub_far (s : State) (h : Hub) (v) : (s.setHub h v).far = s.far := by cases h <;> rfl
@[simp] theorem State.setHub_near (s : State) (h : Hub) (v) : (s.setHub h v).near = s.near := by cases h <;> rfl
@[simp] theorem State.setHub_key (s : State) (h : Hub) (v) : (s.setHub h v).key = s.key := by cases h <;> rfl
@[simp] theorem State.setHub_dies (s : State) (h : Hub) (v) : (s.setHub h v).dies = s.dies := by cases h <;> rfl
@[simp] theorem State.setHub_phys (s : State) (h : Hub) (v) : (s.setHub h v).phys = s.phys := by cases h <;> rfl
@[simp] theorem State.setHub_cores (s : State) (h : Hub) (v) : (s.setHub h v).cores = s.cores := by cases h <;> rfl
@[simp] theorem State.setHub_tab (s : State) (h : Hub) (v) : (s.setHub h v).tab = s.tab := by cases h <;> rfl
@[simp] theorem State.setHub_record (s : State) (h : Hub) (v) : (s.setHub h v).record = s.record := by cases h <;> rfl
@[simp] theorem State.setHub_fab (s : State) (h : Hub) (v) : (s.setHub h v).fab = s.fab := by cases h <;> rfl
@[simp] theorem State.setHub_pwr (s : State) (h : Hub) (v) : (s.setHub h v).pwr = s.pwr := by cases h <;> rfl
@[simp] theorem State.updHub_pending (s : State) (h : Hub) (g) : (s.updHub h g).pending = s.pending := by cases h <;> rfl
@[simp] theorem State.updHub_freeCtr (s : State) (h : Hub) (g) : (s.updHub h g).freeCtr = s.freeCtr := by cases h <;> rfl
@[simp] theorem State.updHub_dev (s : State) (h : Hub) (g) : (s.updHub h g).dev = s.dev := by cases h <;> rfl
@[simp] theorem State.updHub_pa (s : State) (h : Hub) (g) : (s.updHub h g).pa = s.pa := by cases h <;> rfl
@[simp] theorem State.updHub_pb (s : State) (h : Hub) (g) : (s.updHub h g).pb = s.pb := by cases h <;> rfl
@[simp] theorem State.updHub_far (s : State) (h : Hub) (g) : (s.updHub h g).far = s.far := by cases h <;> rfl
@[simp] theorem State.updHub_near (s : State) (h : Hub) (g) : (s.updHub h g).near = s.near := by cases h <;> rfl
@[simp] theorem State.updHub_key (s : State) (h : Hub) (g) : (s.updHub h g).key = s.key := by cases h <;> rfl
@[simp] theorem State.updHub_dies (s : State) (h : Hub) (g) : (s.updHub h g).dies = s.dies := by cases h <;> rfl
@[simp] theorem State.updHub_phys (s : State) (h : Hub) (g) : (s.updHub h g).phys = s.phys := by cases h <;> rfl
@[simp] theorem State.updHub_cores (s : State) (h : Hub) (g) : (s.updHub h g).cores = s.cores := by cases h <;> rfl
@[simp] theorem State.updHub_tab (s : State) (h : Hub) (g) : (s.updHub h g).tab = s.tab := by cases h <;> rfl
@[simp] theorem State.updHub_record (s : State) (h : Hub) (g) : (s.updHub h g).record = s.record := by cases h <;> rfl
@[simp] theorem State.updHub_fab (s : State) (h : Hub) (g) : (s.updHub h g).fab = s.fab := by cases h <;> rfl
@[simp] theorem State.updHub_pwr (s : State) (h : Hub) (g) : (s.updHub h g).pwr = s.pwr := by cases h <;> rfl
@[simp] theorem State.setHub_hub (s : State) (h : Hub) (v) : (s.setHub h v).hub h = v := by cases h <;> rfl
@[simp] theorem State.updHub_hub (s : State) (h : Hub) (g) : (s.updHub h g).hub h = g (s.hub h) := by cases h <;> rfl
@[simp] theorem State.updHub_hub_other (s : State) (h : Hub) (g) : (s.updHub h g).hub h.other = s.hub h.other := by cases h <;> rfl
@[simp] theorem State.updHub_port (s : State) (h : Hub) (p : Port) (g) : (s.updHub h g).port p = s.port p := by cases h <;> cases p <;> rfl
@[simp] theorem State.setPort_pending (s : State) (p : Port) (v) : (s.setPort p v).pending = s.pending := by cases p <;> rfl
@[simp] theorem State.setPort_freeCtr (s : State) (p : Port) (v) : (s.setPort p v).freeCtr = s.freeCtr := by cases p <;> rfl
@[simp] theorem State.setPort_dev (s : State) (p : Port) (v) : (s.setPort p v).dev = s.dev := by cases p <;> rfl
@[simp] theorem State.setPort_h0 (s : State) (p : Port) (v) : (s.setPort p v).h0 = s.h0 := by cases p <;> rfl
@[simp] theorem State.setPort_h1 (s : State) (p : Port) (v) : (s.setPort p v).h1 = s.h1 := by cases p <;> rfl
@[simp] theorem State.setPort_far (s : State) (p : Port) (v) : (s.setPort p v).far = s.far := by cases p <;> rfl
@[simp] theorem State.setPort_near (s : State) (p : Port) (v) : (s.setPort p v).near = s.near := by cases p <;> rfl
@[simp] theorem State.setPort_key (s : State) (p : Port) (v) : (s.setPort p v).key = s.key := by cases p <;> rfl
@[simp] theorem State.setPort_dies (s : State) (p : Port) (v) : (s.setPort p v).dies = s.dies := by cases p <;> rfl
@[simp] theorem State.setPort_phys (s : State) (p : Port) (v) : (s.setPort p v).phys = s.phys := by cases p <;> rfl
@[simp] theorem State.setPort_cores (s : State) (p : Port) (v) : (s.setPort p v).cores = s.cores := by cases p <;> rfl
@[simp] theorem State.setPort_tab (s : State) (p : Port) (v) : (s.setPort p v).tab = s.tab := by cases p <;> rfl
@[simp] theorem State.setPort_record (s : State) (p : Port) (v) : (s.setPort p v).record = s.record := by cases p <;> rfl
@[simp] theorem State.setPort_fab (s : State) (p : Port) (v) : (s.setPort p v).fab = s.fab := by cases p <;> rfl
@[simp] theorem State.setPort_pwr (s : State) (p : Port) (v) : (s.setPort p v).pwr = s.pwr := by cases p <;> rfl
@[simp] theorem State.updPort_pending (s : State) (p : Port) (g) : (s.updPort p g).pending = s.pending := by cases p <;> rfl
@[simp] theorem State.updPort_freeCtr (s : State) (p : Port) (g) : (s.updPort p g).freeCtr = s.freeCtr := by cases p <;> rfl
@[simp] theorem State.updPort_dev (s : State) (p : Port) (g) : (s.updPort p g).dev = s.dev := by cases p <;> rfl
@[simp] theorem State.updPort_h0 (s : State) (p : Port) (g) : (s.updPort p g).h0 = s.h0 := by cases p <;> rfl
@[simp] theorem State.updPort_h1 (s : State) (p : Port) (g) : (s.updPort p g).h1 = s.h1 := by cases p <;> rfl
@[simp] theorem State.updPort_far (s : State) (p : Port) (g) : (s.updPort p g).far = s.far := by cases p <;> rfl
@[simp] theorem State.updPort_near (s : State) (p : Port) (g) : (s.updPort p g).near = s.near := by cases p <;> rfl
@[simp] theorem State.updPort_key (s : State) (p : Port) (g) : (s.updPort p g).key = s.key := by cases p <;> rfl
@[simp] theorem State.updPort_dies (s : State) (p : Port) (g) : (s.updPort p g).dies = s.dies := by cases p <;> rfl
@[simp] theorem State.updPort_phys (s : State) (p : Port) (g) : (s.updPort p g).phys = s.phys := by cases p <;> rfl
@[simp] theorem State.updPort_cores (s : State) (p : Port) (g) : (s.updPort p g).cores = s.cores := by cases p <;> rfl
@[simp] theorem State.updPort_tab (s : State) (p : Port) (g) : (s.updPort p g).tab = s.tab := by cases p <;> rfl
@[simp] theorem State.updPort_record (s : State) (p : Port) (g) : (s.updPort p g).record = s.record := by cases p <;> rfl
@[simp] theorem State.updPort_fab (s : State) (p : Port) (g) : (s.updPort p g).fab = s.fab := by cases p <;> rfl
@[simp] theorem State.updPort_pwr (s : State) (p : Port) (g) : (s.updPort p g).pwr = s.pwr := by cases p <;> rfl
@[simp] theorem State.setPort_port (s : State) (p : Port) (v) : (s.setPort p v).port p = v := by cases p <;> rfl
@[simp] theorem State.updPort_port (s : State) (p : Port) (g) : (s.updPort p g).port p = g (s.port p) := by cases p <;> rfl
@[simp] theorem State.updPort_port_other (s : State) (p : Port) (g) : (s.updPort p g).port p.other = s.port p.other := by cases p <;> rfl
@[simp] theorem State.updPort_hub (s : State) (p : Port) (h : Hub) (g) : (s.updPort p g).hub h = s.hub h := by cases p <;> cases h <;> rfl

/-! What no update of another part changes. -/

@[simp] theorem State.updDev_hub (s : State) (g) (h : Hub) : (s.updDev g).hub h = s.hub h := rfl
@[simp] theorem State.updDev_port (s : State) (g) (h : Port) : (s.updDev g).port h = s.port h := rfl
@[simp] theorem State.updDev_die (s : State) (g) (h : Nat) : (s.updDev g).die h = s.die h := rfl
@[simp] theorem State.updDev_physCore (s : State) (g) (h : Nat) : (s.updDev g).physCore h = s.physCore h := rfl
@[simp] theorem State.updDev_core (s : State) (g) (h : Nat) : (s.updDev g).core h = s.core h := rfl
@[simp] theorem State.updTab_hub (s : State) (g) (h : Hub) : (s.updTab g).hub h = s.hub h := rfl
@[simp] theorem State.updTab_port (s : State) (g) (h : Port) : (s.updTab g).port h = s.port h := rfl
@[simp] theorem State.updTab_die (s : State) (g) (h : Nat) : (s.updTab g).die h = s.die h := rfl
@[simp] theorem State.updTab_physCore (s : State) (g) (h : Nat) : (s.updTab g).physCore h = s.physCore h := rfl
@[simp] theorem State.updTab_core (s : State) (g) (h : Nat) : (s.updTab g).core h = s.core h := rfl
@[simp] theorem State.updRecord_hub (s : State) (g) (h : Hub) : (s.updRecord g).hub h = s.hub h := rfl
@[simp] theorem State.updRecord_port (s : State) (g) (h : Port) : (s.updRecord g).port h = s.port h := rfl
@[simp] theorem State.updRecord_die (s : State) (g) (h : Nat) : (s.updRecord g).die h = s.die h := rfl
@[simp] theorem State.updRecord_physCore (s : State) (g) (h : Nat) : (s.updRecord g).physCore h = s.physCore h := rfl
@[simp] theorem State.updRecord_core (s : State) (g) (h : Nat) : (s.updRecord g).core h = s.core h := rfl
@[simp] theorem State.updFab_hub (s : State) (g) (h : Hub) : (s.updFab g).hub h = s.hub h := rfl
@[simp] theorem State.updFab_port (s : State) (g) (h : Port) : (s.updFab g).port h = s.port h := rfl
@[simp] theorem State.updFab_die (s : State) (g) (h : Nat) : (s.updFab g).die h = s.die h := rfl
@[simp] theorem State.updFab_physCore (s : State) (g) (h : Nat) : (s.updFab g).physCore h = s.physCore h := rfl
@[simp] theorem State.updFab_core (s : State) (g) (h : Nat) : (s.updFab g).core h = s.core h := rfl
@[simp] theorem State.updPwr_hub (s : State) (g) (h : Hub) : (s.updPwr g).hub h = s.hub h := rfl
@[simp] theorem State.updPwr_port (s : State) (g) (h : Port) : (s.updPwr g).port h = s.port h := rfl
@[simp] theorem State.updPwr_die (s : State) (g) (h : Nat) : (s.updPwr g).die h = s.die h := rfl
@[simp] theorem State.updPwr_physCore (s : State) (g) (h : Nat) : (s.updPwr g).physCore h = s.physCore h := rfl
@[simp] theorem State.updPwr_core (s : State) (g) (h : Nat) : (s.updPwr g).core h = s.core h := rfl
@[simp] theorem State.updFar_hub (s : State) (g) (h : Hub) : (s.updFar g).hub h = s.hub h := rfl
@[simp] theorem State.updFar_port (s : State) (g) (h : Port) : (s.updFar g).port h = s.port h := rfl
@[simp] theorem State.updFar_die (s : State) (g) (h : Nat) : (s.updFar g).die h = s.die h := rfl
@[simp] theorem State.updFar_physCore (s : State) (g) (h : Nat) : (s.updFar g).physCore h = s.physCore h := rfl
@[simp] theorem State.updFar_core (s : State) (g) (h : Nat) : (s.updFar g).core h = s.core h := rfl
@[simp] theorem State.updNear_hub (s : State) (g) (h : Hub) : (s.updNear g).hub h = s.hub h := rfl
@[simp] theorem State.updNear_port (s : State) (g) (h : Port) : (s.updNear g).port h = s.port h := rfl
@[simp] theorem State.updNear_die (s : State) (g) (h : Nat) : (s.updNear g).die h = s.die h := rfl
@[simp] theorem State.updNear_physCore (s : State) (g) (h : Nat) : (s.updNear g).physCore h = s.physCore h := rfl
@[simp] theorem State.updNear_core (s : State) (g) (h : Nat) : (s.updNear g).core h = s.core h := rfl
@[simp] theorem State.updKey_hub (s : State) (g) (h : Hub) : (s.updKey g).hub h = s.hub h := rfl
@[simp] theorem State.updKey_port (s : State) (g) (h : Port) : (s.updKey g).port h = s.port h := rfl
@[simp] theorem State.updKey_die (s : State) (g) (h : Nat) : (s.updKey g).die h = s.die h := rfl
@[simp] theorem State.updKey_physCore (s : State) (g) (h : Nat) : (s.updKey g).physCore h = s.physCore h := rfl
@[simp] theorem State.updKey_core (s : State) (g) (h : Nat) : (s.updKey g).core h = s.core h := rfl
@[simp] theorem State.updDie_hub (s : State) (i : Nat) (g) (h : Hub) : (s.updDie i g).hub h = s.hub h := rfl
@[simp] theorem State.updDie_port (s : State) (i : Nat) (g) (h : Port) : (s.updDie i g).port h = s.port h := rfl
@[simp] theorem State.updDie_physCore (s : State) (i : Nat) (g) (h : Nat) : (s.updDie i g).physCore h = s.physCore h := rfl
@[simp] theorem State.updDie_core (s : State) (i : Nat) (g) (h : Nat) : (s.updDie i g).core h = s.core h := rfl
@[simp] theorem State.updPhys_hub (s : State) (i : Nat) (g) (h : Hub) : (s.updPhys i g).hub h = s.hub h := rfl
@[simp] theorem State.updPhys_port (s : State) (i : Nat) (g) (h : Port) : (s.updPhys i g).port h = s.port h := rfl
@[simp] theorem State.updPhys_die (s : State) (i : Nat) (g) (h : Nat) : (s.updPhys i g).die h = s.die h := rfl
@[simp] theorem State.updPhys_core (s : State) (i : Nat) (g) (h : Nat) : (s.updPhys i g).core h = s.core h := rfl
@[simp] theorem State.updCore_hub (s : State) (i : Nat) (g) (h : Hub) : (s.updCore i g).hub h = s.hub h := rfl
@[simp] theorem State.updCore_port (s : State) (i : Nat) (g) (h : Port) : (s.updCore i g).port h = s.port h := rfl
@[simp] theorem State.updCore_die (s : State) (i : Nat) (g) (h : Nat) : (s.updCore i g).die h = s.die h := rfl
@[simp] theorem State.updCore_physCore (s : State) (i : Nat) (g) (h : Nat) : (s.updCore i g).physCore h = s.physCore h := rfl
@[simp] theorem State.updHub_die (s : State) (p : Hub) (g) (h : Nat) : (s.updHub p g).die h = s.die h := by cases p <;> rfl
@[simp] theorem State.updHub_physCore (s : State) (p : Hub) (g) (h : Nat) : (s.updHub p g).physCore h = s.physCore h := by cases p <;> rfl
@[simp] theorem State.updHub_core (s : State) (p : Hub) (g) (h : Nat) : (s.updHub p g).core h = s.core h := by cases p <;> rfl
@[simp] theorem State.updPort_die (s : State) (p : Port) (g) (h : Nat) : (s.updPort p g).die h = s.die h := by cases p <;> rfl
@[simp] theorem State.updPort_physCore (s : State) (p : Port) (g) (h : Nat) : (s.updPort p g).physCore h = s.physCore h := by cases p <;> rfl
@[simp] theorem State.updPort_core (s : State) (p : Port) (g) (h : Nat) : (s.updPort p g).core h = s.core h := by cases p <;> rfl

/-! Tables. -/

theorem tabGet?_tabSet {α : Type} (t : Tab α) (i j : Nat) (v : α) :
    tabGet? (tabSet t i v) j = if i = j then some v else tabGet? t j := by
  induction t with
  | nil => simp [tabSet, tabGet?]
  | cons x r ih =>
    obtain ⟨k, w⟩ := x
    simp only [tabSet]
    split
    · simp [tabGet?]
    · split
      · subst_vars
        simp only [tabGet?]
        split <;> simp_all
      · simp only [tabGet?, ih]
        split <;> split <;> simp_all

theorem tabGet?_tabErase {α : Type} (t : Tab α) (i j : Nat) :
    tabGet? (tabErase t i) j = if i = j then none else tabGet? t j := by
  induction t with
  | nil => simp [tabErase, tabGet?]
  | cons x r ih =>
    obtain ⟨k, w⟩ := x
    simp only [tabErase] at ih
    by_cases h : k = i
    · subst h
      simp only [tabErase, List.filter, bne_self_eq_false, tabGet?, ih]
      split <;> simp_all
    · have hb : (k != i) = true := by simpa using h
      simp only [tabErase, List.filter, hb, tabGet?, ih]
      split <;> split <;> simp_all

/-- A table reads back what was put, and every other key as before. -/
theorem tabGet_tabPut {α : Type} [DecidableEq α] (d : α) (t : Tab α) (i j : Nat) (v : α) :
    tabGet d (tabPut d t i v) j = if i = j then v else tabGet d t j := by
  unfold tabPut tabGet
  split
  · rw [tabGet?_tabErase]
    split <;> simp_all
  · rw [tabGet?_tabSet]
    split <;> simp_all

@[simp] theorem State.updDie_die (s : State) (i j : Nat) (g) :
    (s.updDie i g).die j = if i = j then g (s.die i) else s.die j := tabGet_tabPut _ _ _ _ _

@[simp] theorem State.updPhys_physCore (s : State) (i j : Nat) (g) :
    (s.updPhys i g).physCore j = if i = j then g (s.physCore i) else s.physCore j := tabGet_tabPut _ _ _ _ _

@[simp] theorem State.updCore_core (s : State) (i j : Nat) (g) :
    (s.updCore i g).core j = if i = j then g (s.core i) else s.core j := tabGet_tabPut _ _ _ _ _

end Sys2Proof.Machine
end

