-- ==== Sys2Proof/Laws/Mailbox.lean ====
section
/-! SUPPORT. What a mailbox command comes to: a request that is accepted reaches its handler with the mailbox BUSY; the
response changes the mailbox and, with NOTIFY, posts one event. -/

namespace Sys2Proof.Machine

set_option linter.all false

open Sys2Proof

theorem tabSet_tabSet {α : Type} (t : Tab α) (i : Nat) (v w : α) : tabSet (tabSet t i v) i w = tabSet t i w := by
  induction t with
  | nil => simp [tabSet]
  | cons x r ih =>
    obtain ⟨k, u⟩ := x
    simp only [tabSet]
    split
    · simp [tabSet]
    · split
      · simp [tabSet]
      · rename_i h1 h2
        simp [tabSet, h1, h2, ih]

theorem tabPut_tabPut {α : Type} [DecidableEq α] (d : α) (t : Tab α) (i : Nat) (v w : α) (hv : v ≠ d) (hw : w ≠ d) :
    tabPut d (tabPut d t i v) i w = tabPut d t i w := by
  simp [tabPut, hv, hw, tabSet_tabSet]

/-- Two writes of one mailbox are the later one. -/
theorem setMailbox_setMailbox (s : State) (p : Port) (b : Nat) (m n : Mailbox) (hm : m ≠ {}) (hn : n ≠ {}) :
    setMailbox (setMailbox s p b m) p b n = setMailbox s p b n := by
  cases p <;> simp [setMailbox, State.updPort, State.setPort, State.port, tabPut_tabPut _ _ _ _ _ hm hn]

theorem setMailbox_updDev (s : State) (p : Port) (b : Nat) (m : Mailbox) (f : DevState → DevState) :
    setMailbox (s.updDev f) p b m = (setMailbox s p b m).updDev f := by
  cases p <;> rfl

/-- A request rung in a FREE mailbox, with no earlier one waiting, is taken at once. -/
theorem ring_take {s : State} {code : Nat} {rq : MbxReq} (hf : (getMailbox s rq.port rq.box).st = .free)
    (ho : s.dev.mbxOrder = []) : ∃ r, ring s code rq = some r ∧ take r code rq = some (takenBy s code rq) := by
  refine ⟨(setMailbox s rq.port rq.box { getMailbox s rq.port rq.box with st := .rung, req := some (code, rq) }).updDev
        (fun d => { d with mbxOrder := [(rq.port, rq.box)] }), ?_, ?_⟩
  · simp only [ring, hf, Option.some.injEq]
    cases hp : rq.port <;> simp [setMailbox, State.updDev, State.updPort, State.setPort, ho]
  · simp only [take, State.updDev_dev, if_true, Option.some.injEq]
    rw [setMailbox_updDev, setMailbox_updDev, setMailbox_setMailbox _ _ _ _ _ (by simp) (by simp)]
    have hd : ({ s.dev with mbxOrder := [] } : DevState) = s.dev := by rw [← ho]
    cases hp : rq.port <;> simp [takenBy, setMailbox, State.updDev, State.updPort, State.setPort, hp, hd]

/-- An accepted request reaches its handler in the state `takenBy`. -/
theorem mailbox_accepted {s : State} {spec : CmdSpec} {rq : MbxReq} (handler : State → List Byte → Reply)
    (h : accepted s spec rq = true) :
    mailbox s spec rq handler = match handler (takenBy s spec.code rq) (bodyOf rq) with
      | .done u st d body => .next (respondAs u spec.code rq st d body)
      | .stay u => .next u := by
  simp only [accepted, Bool.and_eq_true, decide_eq_true_eq, beq_iff_eq, List.isEmpty_iff, Bool.not_eq_true',
    Option.isNone_iff_eq_none] at h
  obtain ⟨⟨⟨⟨⟨⟨hbox, hr⟩, hf⟩, ho⟩, hs⟩, ht⟩, hc⟩ := h
  obtain ⟨r, hring, htake⟩ := ring_take (code := spec.code) hf ho
  simp only [mailbox, if_neg (Nat.not_le.mpr hbox), hr, Bool.not_true, Bool.false_eq_true, if_false, hring, hs, ht,
    Bool.or_self, htake, hc]
  try (cases handler (takenBy s spec.code rq) (bodyOf rq) <;> rfl)

/-- A request of an existing mailbox answers a next state, whatever its handler. -/
theorem mailbox_next (s : State) (spec : CmdSpec) {rq : MbxReq} (handler : State → List Byte → Reply) (h : rq.box < 64) :
    ∃ t, mailbox s spec rq handler = .next t := by
  simp only [mailbox, if_neg (Nat.not_le.mpr h)]
  repeat' split
  all_goals exact ⟨_, rfl⟩

/-- A request of a mailbox that does not exist stops. -/
theorem mailbox_box (s : State) (spec : CmdSpec) {rq : MbxReq} (handler : State → List Byte → Reply) (h : 64 ≤ rq.box) :
    mailbox s spec rq handler = .fault .noSuchUnit := by
  simp [mailbox, h]

/-- Every mailbox command is `mailbox` with the checks of its row and a handler of its own. -/
theorem exec_mailbox {i : Instr} {spec : CmdSpec} {rq : MbxReq} (h : mbxRow i = some (spec, rq)) :
    ∃ handler, ∀ s, exec i s = mailbox s spec rq handler := by
  cases i with
  | getInfo rq => cases h; exact execGetInfo_mailbox _
  | configLoad rq => cases h; exact execConfigLoad_mailbox _
  | fwLoad rq => cases h; exact execFwLoad_mailbox _
  | spdm rq => cases h; exact execSpdm_mailbox _
  | memGrant rq => cases h; exact execMemGrant_mailbox _
  | memRelease rq => cases h; exact execMemRelease_mailbox _
  | copyIn rq => cases h; exact execCopyIn_mailbox _
  | copyOut rq => cases h; exact execCopyOut_mailbox _
  | chainLoad rq => cases h; exact execChainLoad_mailbox _
  | chainUnload rq => cases h; exact execChainUnload_mailbox _
  | caddyLoad rq => cases h; exact execCaddyLoad_mailbox _
  | caddyUnload rq => cases h; exact execCaddyUnload_mailbox _
  | caddyQuery rq => cases h; exact execCaddyQuery_mailbox _
  | programLoad rq body => cases h; exact execProgramLoad_mailbox _ _
  | programUnload rq => cases h; exact execProgramUnload_mailbox _
  | jobCreate rq => cases h; exact execJobCreate_mailbox _
  | jobDestroy rq => cases h; exact execJobDestroy_mailbox _
  | jobStatus rq => cases h; exact execJobStatus_mailbox _
  | queueCreate rq => cases h; exact execQueueCreate_mailbox _
  | queueSet rq => cases h; exact execQueueSet_mailbox _
  | queueCancel rq => cases h; exact execQueueCancel_mailbox _
  | queueResume rq => cases h; exact execQueueResume_mailbox _
  | queueReset rq => cases h; exact execQueueReset_mailbox _
  | queueDestroy rq => cases h; exact execQueueDestroy_mailbox _
  | queueRehome rq => cases h; exact execQueueRehome_mailbox _
  | eventRingSet rq => cases h; exact execEventRingSet_mailbox _
  | rebuildShare rq => cases h; exact execRebuildShare_mailbox _
  | fabEnum rq tree => cases h; exact execFabEnum_mailbox _ _
  | fabStatus rq answer => cases h; exact execFabStatus_mailbox _ _
  | fabForward rq answer => cases h; exact execFabForward_mailbox _ _
  | fabEvents rq drained => cases h; exact execFabEvents_mailbox _ _
  | fabDoorbell rq => cases h; exact execFabDoorbell_mailbox _
  | fabLaunch rq late => cases h; exact execFabLaunch_mailbox _ _
  | fabLink rq answers => cases h; exact execFabLink_mailbox _ _
  | fabPair rq => cases h; exact execFabPair_mailbox _
  | fabSeal rq => cases h; exact execFabSeal_mailbox _
  | svcStatus rq => cases h; exact execSvcStatus_mailbox _
  | coreRetire rq => cases h; exact execCoreRetire_mailbox _
  | coreTest rq => cases h; exact execCoreTest_mailbox _
  | coreInfo rq => cases h; exact execCoreInfo_mailbox _
  | dieDown rq => cases h; exact execDieDown_mailbox _
  | dieUp rq => cases h; exact execDieUp_mailbox _
  | hubSwap rq => cases h; exact execHubSwap_mailbox _
  | hubRejoin rq => cases h; exact execHubRejoin_mailbox _
  | bboxInfo rq => cases h; exact execBboxInfo_mailbox _
  | bboxRead rq => cases h; exact execBboxRead_mailbox _
  | bootImage rq => cases h; exact execBootImage_mailbox _
  | attest rq => cases h; exact execAttest_mailbox _
  | identityGet rq => cases h; exact execIdentityGet_mailbox _
  | protSet rq => cases h; exact execProtSet_mailbox _
  | regionSet rq => cases h; exact execRegionSet_mailbox _
  | svnCommit rq => cases h; exact execSvnCommit_mailbox _
  | integratorEnroll rq => cases h; exact execIntegratorEnroll_mailbox _
  | _ => cases h

/-! Posting and answering touch the ports alone. -/

@[simp] theorem setMailbox_pending (s : State) (p : Port) (b : Nat) (m : Mailbox) : (setMailbox s p b m).pending = s.pending := by cases p <;> rfl
@[simp] theorem setMailbox_freeCtr (s : State) (p : Port) (b : Nat) (m : Mailbox) : (setMailbox s p b m).freeCtr = s.freeCtr := by cases p <;> rfl
@[simp] theorem setMailbox_dev (s : State) (p : Port) (b : Nat) (m : Mailbox) : (setMailbox s p b m).dev = s.dev := by cases p <;> rfl
@[simp] theorem setMailbox_h0 (s : State) (p : Port) (b : Nat) (m : Mailbox) : (setMailbox s p b m).h0 = s.h0 := by cases p <;> rfl
@[simp] theorem setMailbox_h1 (s : State) (p : Port) (b : Nat) (m : Mailbox) : (setMailbox s p b m).h1 = s.h1 := by cases p <;> rfl
@[simp] theorem setMailbox_far (s : State) (p : Port) (b : Nat) (m : Mailbox) : (setMailbox s p b m).far = s.far := by cases p <;> rfl
@[simp] theorem setMailbox_near (s : State) (p : Port) (b : Nat) (m : Mailbox) : (setMailbox s p b m).near = s.near := by cases p <;> rfl
@[simp] theorem setMailbox_key (s : State) (p : Port) (b : Nat) (m : Mailbox) : (setMailbox s p b m).key = s.key := by cases p <;> rfl
@[simp] theorem setMailbox_dies (s : State) (p : Port) (b : Nat) (m : Mailbox) : (setMailbox s p b m).dies = s.dies := by cases p <;> rfl
@[simp] theorem setMailbox_phys (s : State) (p : Port) (b : Nat) (m : Mailbox) : (setMailbox s p b m).phys = s.phys := by cases p <;> rfl
@[simp] theorem setMailbox_cores (s : State) (p : Port) (b : Nat) (m : Mailbox) : (setMailbox s p b m).cores = s.cores := by cases p <;> rfl
@[simp] theorem setMailbox_tab (s : State) (p : Port) (b : Nat) (m : Mailbox) : (setMailbox s p b m).tab = s.tab := by cases p <;> rfl
@[simp] theorem setMailbox_record (s : State) (p : Port) (b : Nat) (m : Mailbox) : (setMailbox s p b m).record = s.record := by cases p <;> rfl
@[simp] theorem setMailbox_fab (s : State) (p : Port) (b : Nat) (m : Mailbox) : (setMailbox s p b m).fab = s.fab := by cases p <;> rfl
@[simp] theorem setMailbox_pwr (s : State) (p : Port) (b : Nat) (m : Mailbox) : (setMailbox s p b m).pwr = s.pwr := by cases p <;> rfl
@[simp] theorem takenBy_pending (s : State) (c : Nat) (rq : MbxReq) : (takenBy s c rq).pending = s.pending := setMailbox_pending ..
@[simp] theorem takenBy_freeCtr (s : State) (c : Nat) (rq : MbxReq) : (takenBy s c rq).freeCtr = s.freeCtr := setMailbox_freeCtr ..
@[simp] theorem takenBy_dev (s : State) (c : Nat) (rq : MbxReq) : (takenBy s c rq).dev = s.dev := setMailbox_dev ..
@[simp] theorem takenBy_h0 (s : State) (c : Nat) (rq : MbxReq) : (takenBy s c rq).h0 = s.h0 := setMailbox_h0 ..
@[simp] theorem takenBy_h1 (s : State) (c : Nat) (rq : MbxReq) : (takenBy s c rq).h1 = s.h1 := setMailbox_h1 ..
@[simp] theorem takenBy_far (s : State) (c : Nat) (rq : MbxReq) : (takenBy s c rq).far = s.far := setMailbox_far ..
@[simp] theorem takenBy_near (s : State) (c : Nat) (rq : MbxReq) : (takenBy s c rq).near = s.near := setMailbox_near ..
@[simp] theorem takenBy_key (s : State) (c : Nat) (rq : MbxReq) : (takenBy s c rq).key = s.key := setMailbox_key ..
@[simp] theorem takenBy_dies (s : State) (c : Nat) (rq : MbxReq) : (takenBy s c rq).dies = s.dies := setMailbox_dies ..
@[simp] theorem takenBy_phys (s : State) (c : Nat) (rq : MbxReq) : (takenBy s c rq).phys = s.phys := setMailbox_phys ..
@[simp] theorem takenBy_cores (s : State) (c : Nat) (rq : MbxReq) : (takenBy s c rq).cores = s.cores := setMailbox_cores ..
@[simp] theorem takenBy_tab (s : State) (c : Nat) (rq : MbxReq) : (takenBy s c rq).tab = s.tab := setMailbox_tab ..
@[simp] theorem takenBy_record (s : State) (c : Nat) (rq : MbxReq) : (takenBy s c rq).record = s.record := setMailbox_record ..
@[simp] theorem takenBy_fab (s : State) (c : Nat) (rq : MbxReq) : (takenBy s c rq).fab = s.fab := setMailbox_fab ..
@[simp] theorem takenBy_pwr (s : State) (c : Nat) (rq : MbxReq) : (takenBy s c rq).pwr = s.pwr := setMailbox_pwr ..
@[simp] theorem postTo_pending (s : State) (p : Port) (e : Ev) : (postTo s p e).pending = s.pending := by
  simp only [postTo]; split <;> cases p <;> rfl
@[simp] theorem postTo_freeCtr (s : State) (p : Port) (e : Ev) : (postTo s p e).freeCtr = s.freeCtr := by
  simp only [postTo]; split <;> cases p <;> rfl
@[simp] theorem postTo_dev (s : State) (p : Port) (e : Ev) : (postTo s p e).dev = s.dev := by
  simp only [postTo]; split <;> cases p <;> rfl
@[simp] theorem postTo_h0 (s : State) (p : Port) (e : Ev) : (postTo s p e).h0 = s.h0 := by
  simp only [postTo]; split <;> cases p <;> rfl
@[simp] theorem postTo_h1 (s : State) (p : Port) (e : Ev) : (postTo s p e).h1 = s.h1 := by
  simp only [postTo]; split <;> cases p <;> rfl
@[simp] theorem postTo_far (s : State) (p : Port) (e : Ev) : (postTo s p e).far = s.far := by
  simp only [postTo]; split <;> cases p <;> rfl
@[simp] theorem postTo_near (s : State) (p : Port) (e : Ev) : (postTo s p e).near = s.near := by
  simp only [postTo]; split <;> cases p <;> rfl
@[simp] theorem postTo_key (s : State) (p : Port) (e : Ev) : (postTo s p e).key = s.key := by
  simp only [postTo]; split <;> cases p <;> rfl
@[simp] theorem postTo_dies (s : State) (p : Port) (e : Ev) : (postTo s p e).dies = s.dies := by
  simp only [postTo]; split <;> cases p <;> rfl
@[simp] theorem postTo_phys (s : State) (p : Port) (e : Ev) : (postTo s p e).phys = s.phys := by
  simp only [postTo]; split <;> cases p <;> rfl
@[simp] theorem postTo_cores (s : State) (p : Port) (e : Ev) : (postTo s p e).cores = s.cores := by
  simp only [postTo]; split <;> cases p <;> rfl
@[simp] theorem postTo_tab (s : State) (p : Port) (e : Ev) : (postTo s p e).tab = s.tab := by
  simp only [postTo]; split <;> cases p <;> rfl
@[simp] theorem postTo_record (s : State) (p : Port) (e : Ev) : (postTo s p e).record = s.record := by
  simp only [postTo]; split <;> cases p <;> rfl
@[simp] theorem postTo_fab (s : State) (p : Port) (e : Ev) : (postTo s p e).fab = s.fab := by
  simp only [postTo]; split <;> cases p <;> rfl
@[simp] theorem postTo_pwr (s : State) (p : Port) (e : Ev) : (postTo s p e).pwr = s.pwr := by
  simp only [postTo]; split <;> cases p <;> rfl
@[simp] theorem postBoth_pending (s : State) (e : Ev) : (postBoth s e).pending = s.pending := by simp only [postBoth]; split <;> simp
@[simp] theorem postBoth_freeCtr (s : State) (e : Ev) : (postBoth s e).freeCtr = s.freeCtr := by simp only [postBoth]; split <;> simp
@[simp] theorem postBoth_dev (s : State) (e : Ev) : (postBoth s e).dev = s.dev := by simp only [postBoth]; split <;> simp
@[simp] theorem postBoth_h0 (s : State) (e : Ev) : (postBoth s e).h0 = s.h0 := by simp only [postBoth]; split <;> simp
@[simp] theorem postBoth_h1 (s : State) (e : Ev) : (postBoth s e).h1 = s.h1 := by simp only [postBoth]; split <;> simp
@[simp] theorem postBoth_far (s : State) (e : Ev) : (postBoth s e).far = s.far := by simp only [postBoth]; split <;> simp
@[simp] theorem postBoth_near (s : State) (e : Ev) : (postBoth s e).near = s.near := by simp only [postBoth]; split <;> simp
@[simp] theorem postBoth_key (s : State) (e : Ev) : (postBoth s e).key = s.key := by simp only [postBoth]; split <;> simp
@[simp] theorem postBoth_dies (s : State) (e : Ev) : (postBoth s e).dies = s.dies := by simp only [postBoth]; split <;> simp
@[simp] theorem postBoth_phys (s : State) (e : Ev) : (postBoth s e).phys = s.phys := by simp only [postBoth]; split <;> simp
@[simp] theorem postBoth_cores (s : State) (e : Ev) : (postBoth s e).cores = s.cores := by simp only [postBoth]; split <;> simp
@[simp] theorem postBoth_tab (s : State) (e : Ev) : (postBoth s e).tab = s.tab := by simp only [postBoth]; split <;> simp
@[simp] theorem postBoth_record (s : State) (e : Ev) : (postBoth s e).record = s.record := by simp only [postBoth]; split <;> simp
@[simp] theorem postBoth_fab (s : State) (e : Ev) : (postBoth s e).fab = s.fab := by simp only [postBoth]; split <;> simp
@[simp] theorem postBoth_pwr (s : State) (e : Ev) : (postBoth s e).pwr = s.pwr := by simp only [postBoth]; split <;> simp
@[simp] theorem flushPort_pending (s : State) (p : Port) : (flushPort s p).pending = s.pending := by cases p <;> rfl
@[simp] theorem flushPort_freeCtr (s : State) (p : Port) : (flushPort s p).freeCtr = s.freeCtr := by cases p <;> rfl
@[simp] theorem flushPort_dev (s : State) (p : Port) : (flushPort s p).dev = s.dev := by cases p <;> rfl
@[simp] theorem flushPort_h0 (s : State) (p : Port) : (flushPort s p).h0 = s.h0 := by cases p <;> rfl
@[simp] theorem flushPort_h1 (s : State) (p : Port) : (flushPort s p).h1 = s.h1 := by cases p <;> rfl
@[simp] theorem flushPort_far (s : State) (p : Port) : (flushPort s p).far = s.far := by cases p <;> rfl
@[simp] theorem flushPort_near (s : State) (p : Port) : (flushPort s p).near = s.near := by cases p <;> rfl
@[simp] theorem flushPort_key (s : State) (p : Port) : (flushPort s p).key = s.key := by cases p <;> rfl
@[simp] theorem flushPort_dies (s : State) (p : Port) : (flushPort s p).dies = s.dies := by cases p <;> rfl
@[simp] theorem flushPort_phys (s : State) (p : Port) : (flushPort s p).phys = s.phys := by cases p <;> rfl
@[simp] theorem flushPort_cores (s : State) (p : Port) : (flushPort s p).cores = s.cores := by cases p <;> rfl
@[simp] theorem flushPort_tab (s : State) (p : Port) : (flushPort s p).tab = s.tab := by cases p <;> rfl
@[simp] theorem flushPort_record (s : State) (p : Port) : (flushPort s p).record = s.record := by cases p <;> rfl
@[simp] theorem flushPort_fab (s : State) (p : Port) : (flushPort s p).fab = s.fab := by cases p <;> rfl
@[simp] theorem flushPort_pwr (s : State) (p : Port) : (flushPort s p).pwr = s.pwr := by cases p <;> rfl

/-! A packet sent to another device changes the links alone. -/

@[simp] theorem sendTo_pending (s : State) (d c : Nat) (b : List Byte) : (sendTo s d c b).pending = s.pending := by simp only [sendTo]; split <;> rfl
@[simp] theorem sendBack_pending (s : State) (c : Nat) (b : List Byte) : (sendBack s c b).pending = s.pending := by simp only [sendBack]; split <;> simp
@[simp] theorem sendTo_freeCtr (s : State) (d c : Nat) (b : List Byte) : (sendTo s d c b).freeCtr = s.freeCtr := by simp only [sendTo]; split <;> rfl
@[simp] theorem sendBack_freeCtr (s : State) (c : Nat) (b : List Byte) : (sendBack s c b).freeCtr = s.freeCtr := by simp only [sendBack]; split <;> simp
@[simp] theorem sendTo_dev (s : State) (d c : Nat) (b : List Byte) : (sendTo s d c b).dev = s.dev := by simp only [sendTo]; split <;> rfl
@[simp] theorem sendBack_dev (s : State) (c : Nat) (b : List Byte) : (sendBack s c b).dev = s.dev := by simp only [sendBack]; split <;> simp
@[simp] theorem sendTo_h0 (s : State) (d c : Nat) (b : List Byte) : (sendTo s d c b).h0 = s.h0 := by simp only [sendTo]; split <;> rfl
@[simp] theorem sendBack_h0 (s : State) (c : Nat) (b : List Byte) : (sendBack s c b).h0 = s.h0 := by simp only [sendBack]; split <;> simp
@[simp] theorem sendTo_h1 (s : State) (d c : Nat) (b : List Byte) : (sendTo s d c b).h1 = s.h1 := by simp only [sendTo]; split <;> rfl
@[simp] theorem sendBack_h1 (s : State) (c : Nat) (b : List Byte) : (sendBack s c b).h1 = s.h1 := by simp only [sendBack]; split <;> simp
@[simp] theorem sendTo_far (s : State) (d c : Nat) (b : List Byte) : (sendTo s d c b).far = s.far := by simp only [sendTo]; split <;> rfl
@[simp] theorem sendBack_far (s : State) (c : Nat) (b : List Byte) : (sendBack s c b).far = s.far := by simp only [sendBack]; split <;> simp
@[simp] theorem sendTo_near (s : State) (d c : Nat) (b : List Byte) : (sendTo s d c b).near = s.near := by simp only [sendTo]; split <;> rfl
@[simp] theorem sendBack_near (s : State) (c : Nat) (b : List Byte) : (sendBack s c b).near = s.near := by simp only [sendBack]; split <;> simp
@[simp] theorem sendTo_key (s : State) (d c : Nat) (b : List Byte) : (sendTo s d c b).key = s.key := by simp only [sendTo]; split <;> rfl
@[simp] theorem sendBack_key (s : State) (c : Nat) (b : List Byte) : (sendBack s c b).key = s.key := by simp only [sendBack]; split <;> simp
@[simp] theorem sendTo_dies (s : State) (d c : Nat) (b : List Byte) : (sendTo s d c b).dies = s.dies := by simp only [sendTo]; split <;> rfl
@[simp] theorem sendBack_dies (s : State) (c : Nat) (b : List Byte) : (sendBack s c b).dies = s.dies := by simp only [sendBack]; split <;> simp
@[simp] theorem sendTo_phys (s : State) (d c : Nat) (b : List Byte) : (sendTo s d c b).phys = s.phys := by simp only [sendTo]; split <;> rfl
@[simp] theorem sendBack_phys (s : State) (c : Nat) (b : List Byte) : (sendBack s c b).phys = s.phys := by simp only [sendBack]; split <;> simp
@[simp] theorem sendTo_cores (s : State) (d c : Nat) (b : List Byte) : (sendTo s d c b).cores = s.cores := by simp only [sendTo]; split <;> rfl
@[simp] theorem sendBack_cores (s : State) (c : Nat) (b : List Byte) : (sendBack s c b).cores = s.cores := by simp only [sendBack]; split <;> simp
@[simp] theorem sendTo_tab (s : State) (d c : Nat) (b : List Byte) : (sendTo s d c b).tab = s.tab := by simp only [sendTo]; split <;> rfl
@[simp] theorem sendBack_tab (s : State) (c : Nat) (b : List Byte) : (sendBack s c b).tab = s.tab := by simp only [sendBack]; split <;> simp
@[simp] theorem sendTo_record (s : State) (d c : Nat) (b : List Byte) : (sendTo s d c b).record = s.record := by simp only [sendTo]; split <;> rfl
@[simp] theorem sendBack_record (s : State) (c : Nat) (b : List Byte) : (sendBack s c b).record = s.record := by simp only [sendBack]; split <;> simp
@[simp] theorem sendTo_pwr (s : State) (d c : Nat) (b : List Byte) : (sendTo s d c b).pwr = s.pwr := by simp only [sendTo]; split <;> rfl
@[simp] theorem sendBack_pwr (s : State) (c : Nat) (b : List Byte) : (sendBack s c b).pwr = s.pwr := by simp only [sendBack]; split <;> simp
@[simp] theorem sendTo_pa (s : State) (d c : Nat) (b : List Byte) : (sendTo s d c b).pa = s.pa := by simp only [sendTo]; split <;> rfl
@[simp] theorem sendBack_pa (s : State) (c : Nat) (b : List Byte) : (sendBack s c b).pa = s.pa := by simp only [sendBack]; split <;> simp
@[simp] theorem sendTo_pb (s : State) (d c : Nat) (b : List Byte) : (sendTo s d c b).pb = s.pb := by simp only [sendTo]; split <;> rfl
@[simp] theorem sendBack_pb (s : State) (c : Nat) (b : List Byte) : (sendBack s c b).pb = s.pb := by simp only [sendBack]; split <;> simp
@[simp] theorem sendBack_port (s : State) (c : Nat) (b : List Byte) (p : Port) : (sendBack s c b).port p = s.port p := by cases p <;> simp [State.port]
@[simp] theorem sendBack_getMailbox (s : State) (c : Nat) (b : List Byte) (p : Port) (x : Nat) :
    getMailbox (sendBack s c b) p x = getMailbox s p x := by simp [getMailbox]
/-- A device that is no worker on the fabric sends nothing back. -/
@[simp] theorem sendTo_answers (s : State) (d c : Nat) (b : List Byte) : (sendTo s d c b).fab.answers = s.fab.answers := by simp only [sendTo]; split <;> rfl
theorem sendBack_off {s : State} (h : onFabric s = false) (c : Nat) (b : List Byte) : sendBack s c b = s := by simp [sendBack, h]
@[simp] theorem setMailbox_onFabric (s : State) (p : Port) (b : Nat) (m : Mailbox) : onFabric (setMailbox s p b m) = onFabric s := by
  simp [onFabric]
@[simp] theorem takenBy_onFabric (s : State) (c : Nat) (rq : MbxReq) : onFabric (takenBy s c rq) = onFabric s := by simp [onFabric]

@[simp] theorem respondAs_pending (s : State) (c : Nat) (rq : MbxReq) (st d : Nat) (b : List Byte) :
    (respondAs s c rq st d b).pending = s.pending := by simp only [respondAs]; split <;> simp
@[simp] theorem respondAs_freeCtr (s : State) (c : Nat) (rq : MbxReq) (st d : Nat) (b : List Byte) :
    (respondAs s c rq st d b).freeCtr = s.freeCtr := by simp only [respondAs]; split <;> simp
@[simp] theorem respondAs_dev (s : State) (c : Nat) (rq : MbxReq) (st d : Nat) (b : List Byte) :
    (respondAs s c rq st d b).dev = s.dev := by simp only [respondAs]; split <;> simp
@[simp] theorem respondAs_h0 (s : State) (c : Nat) (rq : MbxReq) (st d : Nat) (b : List Byte) :
    (respondAs s c rq st d b).h0 = s.h0 := by simp only [respondAs]; split <;> simp
@[simp] theorem respondAs_h1 (s : State) (c : Nat) (rq : MbxReq) (st d : Nat) (b : List Byte) :
    (respondAs s c rq st d b).h1 = s.h1 := by simp only [respondAs]; split <;> simp
@[simp] theorem respondAs_far (s : State) (c : Nat) (rq : MbxReq) (st d : Nat) (b : List Byte) :
    (respondAs s c rq st d b).far = s.far := by simp only [respondAs]; split <;> simp
@[simp] theorem respondAs_near (s : State) (c : Nat) (rq : MbxReq) (st d : Nat) (b : List Byte) :
    (respondAs s c rq st d b).near = s.near := by simp only [respondAs]; split <;> simp
@[simp] theorem respondAs_key (s : State) (c : Nat) (rq : MbxReq) (st d : Nat) (b : List Byte) :
    (respondAs s c rq st d b).key = s.key := by simp only [respondAs]; split <;> simp
@[simp] theorem respondAs_dies (s : State) (c : Nat) (rq : MbxReq) (st d : Nat) (b : List Byte) :
    (respondAs s c rq st d b).dies = s.dies := by simp only [respondAs]; split <;> simp
@[simp] theorem respondAs_phys (s : State) (c : Nat) (rq : MbxReq) (st d : Nat) (b : List Byte) :
    (respondAs s c rq st d b).phys = s.phys := by simp only [respondAs]; split <;> simp
@[simp] theorem respondAs_cores (s : State) (c : Nat) (rq : MbxReq) (st d : Nat) (b : List Byte) :
    (respondAs s c rq st d b).cores = s.cores := by simp only [respondAs]; split <;> simp
@[simp] theorem respondAs_tab (s : State) (c : Nat) (rq : MbxReq) (st d : Nat) (b : List Byte) :
    (respondAs s c rq st d b).tab = s.tab := by simp only [respondAs]; split <;> simp
@[simp] theorem respondAs_record (s : State) (c : Nat) (rq : MbxReq) (st d : Nat) (b : List Byte) :
    (respondAs s c rq st d b).record = s.record := by simp only [respondAs]; split <;> simp
theorem respondAs_fab {s : State} (h : onFabric s = false) (c : Nat) (rq : MbxReq) (st d : Nat) (b : List Byte) :
    (respondAs s c rq st d b).fab = s.fab := by
  simp only [respondAs]; split <;> simp [sendBack_off, h]
@[simp] theorem respondAs_pwr (s : State) (c : Nat) (rq : MbxReq) (st d : Nat) (b : List Byte) :
    (respondAs s c rq st d b).pwr = s.pwr := by simp only [respondAs]; split <;> simp
@[simp] theorem respondTo_pending (s : State) (p : Port) (x st d : Nat) (b : List Byte) :
    (respondTo s p x st d b).pending = s.pending := by simp only [respondTo]; split <;> (try split) <;> simp
@[simp] theorem respondTo_freeCtr (s : State) (p : Port) (x st d : Nat) (b : List Byte) :
    (respondTo s p x st d b).freeCtr = s.freeCtr := by simp only [respondTo]; split <;> (try split) <;> simp
@[simp] theorem respondTo_dev (s : State) (p : Port) (x st d : Nat) (b : List Byte) :
    (respondTo s p x st d b).dev = s.dev := by simp only [respondTo]; split <;> (try split) <;> simp
@[simp] theorem respondTo_h0 (s : State) (p : Port) (x st d : Nat) (b : List Byte) :
    (respondTo s p x st d b).h0 = s.h0 := by simp only [respondTo]; split <;> (try split) <;> simp
@[simp] theorem respondTo_h1 (s : State) (p : Port) (x st d : Nat) (b : List Byte) :
    (respondTo s p x st d b).h1 = s.h1 := by simp only [respondTo]; split <;> (try split) <;> simp
@[simp] theorem respondTo_far (s : State) (p : Port) (x st d : Nat) (b : List Byte) :
    (respondTo s p x st d b).far = s.far := by simp only [respondTo]; split <;> (try split) <;> simp
@[simp] theorem respondTo_near (s : State) (p : Port) (x st d : Nat) (b : List Byte) :
    (respondTo s p x st d b).near = s.near := by simp only [respondTo]; split <;> (try split) <;> simp
@[simp] theorem respondTo_key (s : State) (p : Port) (x st d : Nat) (b : List Byte) :
    (respondTo s p x st d b).key = s.key := by simp only [respondTo]; split <;> (try split) <;> simp
@[simp] theorem respondTo_dies (s : State) (p : Port) (x st d : Nat) (b : List Byte) :
    (respondTo s p x st d b).dies = s.dies := by simp only [respondTo]; split <;> (try split) <;> simp
@[simp] theorem respondTo_phys (s : State) (p : Port) (x st d : Nat) (b : List Byte) :
    (respondTo s p x st d b).phys = s.phys := by simp only [respondTo]; split <;> (try split) <;> simp
@[simp] theorem respondTo_cores (s : State) (p : Port) (x st d : Nat) (b : List Byte) :
    (respondTo s p x st d b).cores = s.cores := by simp only [respondTo]; split <;> (try split) <;> simp
@[simp] theorem respondTo_tab (s : State) (p : Port) (x st d : Nat) (b : List Byte) :
    (respondTo s p x st d b).tab = s.tab := by simp only [respondTo]; split <;> (try split) <;> simp
@[simp] theorem respondTo_record (s : State) (p : Port) (x st d : Nat) (b : List Byte) :
    (respondTo s p x st d b).record = s.record := by simp only [respondTo]; split <;> (try split) <;> simp
@[simp] theorem respondTo_pwr (s : State) (p : Port) (x st d : Nat) (b : List Byte) :
    (respondTo s p x st d b).pwr = s.pwr := by simp only [respondTo]; split <;> (try split) <;> simp

/-! A port's events leave its mailboxes alone. -/

@[simp] theorem PortState.signal_mailboxes (ps : PortState) (v : Nat) : (ps.signal v).mailboxes = ps.mailboxes := by
  simp only [PortState.signal]; split <;> rfl

@[simp] theorem PortState.writeEvent_mailboxes (ps : PortState) (e : HeldEv) : (ps.writeEvent e).mailboxes = ps.mailboxes := by
  simp only [PortState.writeEvent]; split <;> simp

@[simp] theorem PortState.post_mailboxes (ps : PortState) (e : Ev) (g : W64) : (ps.post e g).mailboxes = ps.mailboxes := by
  simp only [PortState.post]
  split
  · simp [PortState.takeSeq]
  · split <;> simp [PortState.takeSeq, PortState.discard]

@[simp] theorem postTo_getMailbox (s : State) (p q : Port) (e : Ev) (b : Nat) :
    getMailbox (postTo s p e) q b = getMailbox s q b := by
  simp only [postTo]
  split <;> cases p <;> cases q <;> simp [getMailbox, State.updPort, State.setPort, State.port]

/-- A mailbox reads back what was set, every other mailbox as before. -/
theorem setMailbox_getMailbox (s : State) (p q : Port) (a b : Nat) (m : Mailbox) :
    getMailbox (setMailbox s p a m) q b = if p = q ∧ a = b then m else getMailbox s q b := by
  cases p <;> cases q <;> simp [setMailbox, getMailbox, State.updPort, State.setPort, State.port, tabGet_tabPut]

/-- The response is in the mailbox, DONE; every other mailbox is as before. -/
theorem respondAs_getMailbox (s : State) (c : Nat) (rq : MbxReq) (st d : Nat) (b : List Byte) (q : Port) (x : Nat) :
    getMailbox (respondAs s c rq st d b) q x = if rq.port = q ∧ rq.box = x then
      { st := .done, req := some (c, rq), resp := some { cmd := c, token := rq.token, status := st, detail := d, body := b } }
      else getMailbox s q x := by
  simp only [respondAs]
  split <;> simp [setMailbox_getMailbox]

/-- A response overwrites the mailbox, whatever was taken in it. -/
theorem respondAs_takenBy (s : State) (c c' : Nat) (rq : MbxReq) (st d : Nat) (b : List Byte) :
    respondAs (takenBy s c rq) c' rq st d b = respondAs s c' rq st d b := by
  have h (m : Mailbox) (hm : m ≠ {}) : setMailbox (takenBy s c rq) rq.port rq.box m = setMailbox s rq.port rq.box m :=
    setMailbox_setMailbox s rq.port rq.box _ _ (by simp) hm
  simp only [respondAs]
  rw [h _ (by simp)]

/-- A response in a state whose ports are those of a state that took the request. -/
theorem respondAs_taken (s : State) {c c' : Nat} {rq : MbxReq} {st d : Nat} {b : List Byte} (u : State)
    (ha : u.pa = (takenBy s c rq).pa) (hb : u.pb = (takenBy s c rq).pb) :
    respondAs u c' rq st d b = respondAs { u with pa := s.pa, pb := s.pb } c' rq st d b := by
  have h : u = takenBy { u with pa := s.pa, pb := s.pb } c rq := by
    obtain ⟨⟩ := u
    simp only at ha hb
    subst ha hb
    cases h : rq.port <;> simp [takenBy, setMailbox, State.updPort, State.setPort, State.port, h]
  rw [h, respondAs_takenBy]
  cases h : rq.port <;> simp [takenBy, setMailbox, State.updPort, State.setPort, State.port, h]

/-! What is taken in a mailbox and what is changed elsewhere do not meet. -/

theorem takenBy_with_far (s : State) (c : Nat) (rq : MbxReq) (v : FarTier) :
    { takenBy s c rq with far := v } = takenBy { s with far := v } c rq := by
  cases h : rq.port <;> simp [takenBy, setMailbox, State.updPort, State.setPort, State.port, h]
theorem takenBy_with_dev (s : State) (c : Nat) (rq : MbxReq) (v : DevState) :
    { takenBy s c rq with dev := v } = takenBy { s with dev := v } c rq := by
  cases h : rq.port <;> simp [takenBy, setMailbox, State.updPort, State.setPort, State.port, h]
theorem takenBy_with_tab (s : State) (c : Nat) (rq : MbxReq) (v : Tables) :
    { takenBy s c rq with tab := v } = takenBy { s with tab := v } c rq := by
  cases h : rq.port <;> simp [takenBy, setMailbox, State.updPort, State.setPort, State.port, h]
theorem takenBy_with_record (s : State) (c : Nat) (rq : MbxReq) (v : RecordDie) :
    { takenBy s c rq with record := v } = takenBy { s with record := v } c rq := by
  cases h : rq.port <;> simp [takenBy, setMailbox, State.updPort, State.setPort, State.port, h]
theorem takenBy_with_fab (s : State) (c : Nat) (rq : MbxReq) (v : Fabric) :
    { takenBy s c rq with fab := v } = takenBy { s with fab := v } c rq := by
  cases h : rq.port <;> simp [takenBy, setMailbox, State.updPort, State.setPort, State.port, h]
theorem takenBy_with_freeCtr (s : State) (c : Nat) (rq : MbxReq) (v : Nat) :
    { takenBy s c rq with freeCtr := v } = takenBy { s with freeCtr := v } c rq := by
  cases h : rq.port <;> simp [takenBy, setMailbox, State.updPort, State.setPort, State.port, h]

end Sys2Proof.Machine
end

