-- ==== Sys2Proof/Laws/Answers.lean ====
section
/-! SUPPORT. A well-formed command never stops: it answers a next state. -/

namespace Sys2Proof.Machine

set_option linter.all false

open Sys2Proof

theorem mailbox_answers {s : State} {spec : CmdSpec} {rq : MbxReq} {handler : State → List Byte → Reply} (h : rq.wf = true) :
    ∃ t, mailbox s spec rq handler = .next t :=
  mailbox_next s spec handler (by simp [MbxReq.wf] at h; exact h.1.1)

theorem doorbell_answers {s : State} {port : Port} {q : Nat} {value : W64} (h : q < 8192) :
    ∃ t, doorbell s port q value = .next t := by
  unfold doorbell
  rw [if_neg (by omega)]
  repeat' first | exact ⟨_, rfl⟩ | split

/-- A check that a well-formed command does not fail. -/
theorem answers_if {c : Prop} [Decidable c] {f : Fault} {r : Result} (h : ¬c) (k : ∃ t, r = .next t) :
    ∃ t, (if c then .fault f else r : Result) = .next t := by
  rw [if_neg h]; exact k

theorem exec_answers (i : Instr) (s : State) (h : i.wf = true) : ∃ t, exec i s = .next t := by
  cases i
  case getInfo => rw [exec_getInfo]; exact mailbox_answers h
  case configLoad => rw [exec_configLoad]; exact mailbox_answers h
  case fwLoad => rw [exec_fwLoad]; exact mailbox_answers h
  case spdm => rw [exec_spdm]; exact mailbox_answers h
  case doeMessage => rw [exec_doeMessage]; exact ⟨_, rfl⟩
  case memGrant => rw [exec_memGrant]; exact mailbox_answers h
  case memRelease => rw [exec_memRelease]; exact mailbox_answers h
  case copyIn => rw [exec_copyIn]; exact mailbox_answers h
  case copyOut => rw [exec_copyOut]; exact mailbox_answers h
  case chainLoad => rw [exec_chainLoad]; exact mailbox_answers h
  case chainUnload => rw [exec_chainUnload]; exact mailbox_answers h
  case caddyLoad => rw [exec_caddyLoad]; exact mailbox_answers h
  case caddyLoadDone => rw [exec_caddyLoadDone]; exact ⟨_, rfl⟩
  case caddyUnload => rw [exec_caddyUnload]; exact mailbox_answers h
  case caddyQuery => rw [exec_caddyQuery]; exact mailbox_answers h
  case caddyResident => rw [exec_caddyResident]; exact ⟨_, rfl⟩
  case programLoad => rw [exec_programLoad]; exact mailbox_answers h
  case programUnload => rw [exec_programUnload]; exact mailbox_answers h
  case jobCreate => rw [exec_jobCreate]; exact mailbox_answers h
  case jobDestroy => rw [exec_jobDestroy]; exact mailbox_answers h
  case jobStatus => rw [exec_jobStatus]; exact mailbox_answers h
  case queueCreate => rw [exec_queueCreate]; exact mailbox_answers h
  case queueSet => rw [exec_queueSet]; exact mailbox_answers h
  case queueCancel => rw [exec_queueCancel]; exact mailbox_answers h
  case queueResume => rw [exec_queueResume]; exact mailbox_answers h
  case queueReset => rw [exec_queueReset]; exact mailbox_answers h
  case queueDestroy => rw [exec_queueDestroy]; exact mailbox_answers h
  case queueRehome => rw [exec_queueRehome]; exact mailbox_answers h
  case eventRingSet => rw [exec_eventRingSet]; exact mailbox_answers h
  case rebuildShare => rw [exec_rebuildShare]; exact mailbox_answers h
  case fabEnum => rw [exec_fabEnum]; (simp [Instr.wf] at h; exact mailbox_answers h.1)
  case fabStatus => rw [exec_fabStatus]; exact mailbox_answers h
  case fabForward => rw [exec_fabForward]; exact mailbox_answers h
  case fabEvents => rw [exec_fabEvents]; exact mailbox_answers h
  case fabDoorbell => rw [exec_fabDoorbell]; exact mailbox_answers h
  case fabLaunch => rw [exec_fabLaunch]; exact mailbox_answers h
  case launchDoorbellApply => rw [exec_launchDoorbellApply]; (simp [Instr.wf, queueWf] at h; unfold execLaunchDoorbellApply; repeat' first | exact ⟨_, rfl⟩ | omega | split)
  case fabLink => rw [exec_fabLink]; exact mailbox_answers h
  case fabPair => rw [exec_fabPair]; exact mailbox_answers h
  case fabSeal => rw [exec_fabSeal]; exact mailbox_answers h
  case svcStatus => rw [exec_svcStatus]; exact mailbox_answers h
  case coreRetire => rw [exec_coreRetire]; exact mailbox_answers h
  case coreTest => rw [exec_coreTest]; exact mailbox_answers h
  case coreInfo => rw [exec_coreInfo]; exact mailbox_answers h
  case dieDown => rw [exec_dieDown]; exact mailbox_answers h
  case dieUp => rw [exec_dieUp]; exact mailbox_answers h
  case hubSwap => rw [exec_hubSwap]; exact mailbox_answers h
  case hubRejoin => rw [exec_hubRejoin]; exact mailbox_answers h
  case hubRejoinDone => rw [exec_hubRejoinDone]; exact ⟨_, rfl⟩
  case firmwareActivation => rw [exec_firmwareActivation]; exact ⟨_, rfl⟩
  case bboxInfo => rw [exec_bboxInfo]; exact mailbox_answers h
  case bboxRead => rw [exec_bboxRead]; exact mailbox_answers h
  case bootImage => rw [exec_bootImage]; exact mailbox_answers h
  case attest => rw [exec_attest]; exact mailbox_answers h
  case identityGet => rw [exec_identityGet]; exact mailbox_answers h
  case protSet => rw [exec_protSet]; exact mailbox_answers h
  case regionSet => rw [exec_regionSet]; exact mailbox_answers h
  case svnCommit => rw [exec_svnCommit]; exact mailbox_answers h
  case integratorEnroll => rw [exec_integratorEnroll]; exact mailbox_answers h
  case mbxAck => rw [exec_mbxAck]; exact ⟨_, rfl⟩
  case sqTail => rw [exec_sqTail]; (simp [Instr.wf, queueWf] at h; exact doorbell_answers h)
  case cqHead => rw [exec_cqHead]; (simp [Instr.wf, queueWf] at h; exact doorbell_answers h)
  case evtHead => rw [exec_evtHead]; exact ⟨_, rfl⟩
  case pwrCap => rw [exec_pwrCap]; exact ⟨_, rfl⟩
  case farWindow => rw [exec_farWindow]; exact ⟨_, rfl⟩
  case bar2Read => rw [exec_bar2Read]; (simp [Instr.wf] at h; unfold execBar2Read; repeat' first | exact ⟨_, rfl⟩ | omega | split)
  case bar2Write => rw [exec_bar2Write]; (simp [Instr.wf] at h; unfold execBar2Write; repeat' first | exact ⟨_, rfl⟩ | omega | split)
  case gcountLowRead => rw [exec_gcountLowRead]; exact ⟨_, rfl⟩
  case gcountHighRead => rw [exec_gcountHighRead]; exact ⟨_, rfl⟩
  case registerWrite path off data =>
    rw [exec_registerWrite]
    cases path with
    | bar0 p => simp only [Instr.wf, decide_eq_true_eq] at h; exact answers_if (by omega) ⟨_, rfl⟩
    | sideband k => simp only [Instr.wf, decide_eq_true_eq] at h; exact answers_if (by omega) ⟨_, rfl⟩
  case cfgData => rw [exec_cfgData]; exact ⟨_, rfl⟩
  case cfgPtr => rw [exec_cfgPtr]; exact ⟨_, rfl⟩
  case go => rw [exec_go]; exact ⟨_, rfl⟩
  case add => rw [exec_add]; exact ⟨_, rfl⟩
  case sub => rw [exec_sub]; exact ⟨_, rfl⟩
  case neg => rw [exec_neg]; exact ⟨_, rfl⟩
  case mulPt => rw [exec_mulPt]; exact ⟨_, rfl⟩
  case mulCt => rw [exec_mulCt]; exact ⟨_, rfl⟩
  case relin => rw [exec_relin]; exact ⟨_, rfl⟩
  case rotate => rw [exec_rotate]; exact ⟨_, rfl⟩
  case conjugate => rw [exec_conjugate]; exact ⟨_, rfl⟩
  case linear => rw [exec_linear]; exact ⟨_, rfl⟩
  case rescale => rw [exec_rescale]; exact ⟨_, rfl⟩
  case levelDrop => rw [exec_levelDrop]; exact ⟨_, rfl⟩
  case nttFwd => rw [exec_nttFwd]; exact ⟨_, rfl⟩
  case nttInv => rw [exec_nttInv]; exact ⟨_, rfl⟩
  case matmul => rw [exec_matmul]; exact ⟨_, rfl⟩
  case map => rw [exec_map]; exact ⟨_, rfl⟩
  case gather => rw [exec_gather]; exact ⟨_, rfl⟩
  case scatter => rw [exec_scatter]; exact ⟨_, rfl⟩
  case scatterAdd => rw [exec_scatterAdd]; exact ⟨_, rfl⟩
  case copy => rw [exec_copy]; exact ⟨_, rfl⟩
  case remoteAdd => rw [exec_remoteAdd]; exact ⟨_, rfl⟩
  case bootstrap => rw [exec_bootstrap]; exact ⟨_, rfl⟩
  case switchOut => rw [exec_switchOut]; exact ⟨_, rfl⟩
  case lut => rw [exec_lut]; exact ⟨_, rfl⟩
  case repack => rw [exec_repack]; exact ⟨_, rfl⟩
  case exportOp => rw [exec_exportOp]; exact ⟨_, rfl⟩
  case flagSet => rw [exec_flagSet]; exact ⟨_, rfl⟩
  case flagWait => rw [exec_flagWait]; exact ⟨_, rfl⟩
  case nop => rw [exec_nop]; exact ⟨_, rfl⟩
  case boundaryCommand => rw [exec_boundaryCommand]; exact ⟨_, rfl⟩
  case taskPlace => rw [exec_taskPlace]; (simp [Instr.wf, coreWf] at h; exact answers_if (by simp [numCores]; omega) ⟨_, rfl⟩)
  case claim => rw [exec_claim]; (simp [Instr.wf, coreWf] at h; exact answers_if (by simp [numCores]; omega) ⟨_, rfl⟩)
  case taskComplete => rw [exec_taskComplete]; (simp [Instr.wf, coreWf] at h; exact answers_if (by simp [numCores]; omega) ⟨_, rfl⟩)
  case passNotice => rw [exec_passNotice]; (simp [Instr.wf, coreWf] at h; exact answers_if (by simp [numCores]; omega) ⟨_, rfl⟩)
  case nttFwdInstruction => rw [exec_nttFwdInstruction]; (simp [Instr.wf, coreWf] at h; exact answers_if (by simp [numCores]; omega) ⟨_, rfl⟩)
  case nttInvInstruction => rw [exec_nttInvInstruction]; (simp [Instr.wf, coreWf] at h; exact answers_if (by simp [numCores]; omega) ⟨_, rfl⟩)
  case mxaMatmul => rw [exec_mxaMatmul]; (simp [Instr.wf, coreWf] at h; exact answers_if (by simp [numCores]; omega) ⟨_, rfl⟩)
  case inner => rw [exec_inner]; (simp [Instr.wf, coreWf] at h; exact answers_if (by simp [numCores]; omega) ⟨_, rfl⟩)
  case bconvFast => rw [exec_bconvFast]; (simp [Instr.wf, coreWf] at h; exact answers_if (by simp [numCores]; omega) ⟨_, rfl⟩)
  case bconvExact => rw [exec_bconvExact]; (simp [Instr.wf, coreWf] at h; exact answers_if (by simp [numCores]; omega) ⟨_, rfl⟩)
  case vxeChain => rw [exec_vxeChain]; (simp [Instr.wf, coreWf] at h; exact answers_if (by simp [numCores]; omega) ⟨_, rfl⟩)
  case dma => rw [exec_dma]; (simp [Instr.wf, coreWf] at h; exact answers_if (by simp [numCores]; omega) ⟨_, rfl⟩)
  case dmaTransferStart => rw [exec_dmaTransferStart]; (simp [Instr.wf, coreWf] at h; exact answers_if (by simp [numCores]; omega) ⟨_, rfl⟩)
  case fold => rw [exec_fold]; (simp [Instr.wf, coreWf] at h; exact answers_if (by simp [numCores]; omega) ⟨_, rfl⟩)
  case foldApply => rw [exec_foldApply]; (simp [Instr.wf, coreWf] at h; exact answers_if (by simp [numCores]; omega) ⟨_, rfl⟩)
  case signal => rw [exec_signal]; (simp [Instr.wf, coreWf] at h; exact answers_if (by simp [numCores]; omega) ⟨_, rfl⟩)
  case wait => rw [exec_wait]; (simp [Instr.wf, coreWf] at h; exact answers_if (by simp [numCores]; omega) ⟨_, rfl⟩)
  case fenceSlot => rw [exec_fenceSlot]; (simp [Instr.wf, coreWf] at h; exact answers_if (by simp [numCores]; omega) ⟨_, rfl⟩)
  case fenceKey => rw [exec_fenceKey]; (simp [Instr.wf, coreWf] at h; exact answers_if (by simp [numCores]; omega) ⟨_, rfl⟩)
  case scalarInstruction => rw [exec_scalarInstruction]; (simp [Instr.wf, coreWf] at h; exact answers_if (by simp [numCores]; omega) ⟨_, rfl⟩)
  case instructionComplete => rw [exec_instructionComplete]; (simp [Instr.wf, coreWf] at h; exact answers_if (by simp [numCores]; omega) (by split <;> exact ⟨_, rfl⟩))
  case eventTimeout => rw [exec_eventTimeout]; (simp [Instr.wf, coreWf] at h; exact answers_if (by simp [numCores]; omega) ⟨_, rfl⟩)
  case accumulatorCommit => rw [exec_accumulatorCommit]; exact ⟨_, rfl⟩
  case commandComplete => rw [exec_commandComplete]; exact ⟨_, rfl⟩
  case completionRecordPost => rw [exec_completionRecordPost]; exact ⟨_, rfl⟩
  case commandAbort => rw [exec_commandAbort]; exact ⟨_, rfl⟩
  case pieceSend => rw [exec_pieceSend]; exact ⟨_, rfl⟩
  case pieceArrive => rw [exec_pieceArrive]; exact ⟨_, rfl⟩
  case pieceReady => rw [exec_pieceReady]; exact ⟨_, rfl⟩
  case fadd64 => rw [exec_fadd64]; (simp [Instr.wf, farWordWf] at h; exact answers_if (by simp [isFarWord, farBytes]; omega) ⟨_, rfl⟩)
  case set64 => rw [exec_set64]; (simp [Instr.wf, farWordWf] at h; exact answers_if (by simp [isFarWord, farBytes]; omega) ⟨_, rfl⟩)
  case watch64 => rw [exec_watch64]; (simp [Instr.wf, farWordWf] at h; exact answers_if (by simp [isFarWord, farBytes]; omega) ⟨_, rfl⟩)
  case unwatch => rw [exec_unwatch]; exact ⟨_, rfl⟩
  case watchAnswer => rw [exec_watchAnswer]; exact ⟨_, rfl⟩
  case watchPoll => rw [exec_watchPoll]; exact ⟨_, rfl⟩
  case flagWaitTimeout => rw [exec_flagWaitTimeout]; exact ⟨_, rfl⟩
  case farBlockRead => rw [exec_farBlockRead]; (simp [Instr.wf, farBlockWf] at h; exact answers_if (by simp [farBlocks, farBytes, blockBytes]; omega) ⟨_, rfl⟩)
  case farBlockWrite => rw [exec_farBlockWrite]; (simp [Instr.wf, farBlockWf] at h; exact answers_if (by rw [show farBlocks = 150994944 from rfl, show blockBytes = 4096 from rfl]; simp; omega) ⟨_, rfl⟩)
  case parityDelta => rw [exec_parityDelta]; exact ⟨_, rfl⟩
  case scrub => rw [exec_scrub]; (simp [Instr.wf, scrubBlockWf] at h; exact answers_if (by rw [show scrubBlocks = 243269632 from rfl]; simp; omega) ⟨_, rfl⟩)
  case accumulatePacket => rw [exec_accumulatePacket]; exact ⟨_, rfl⟩
  case mergeHdr => rw [exec_mergeHdr]; exact ⟨_, rfl⟩
  case accumulateAnswer => rw [exec_accumulateAnswer]; exact ⟨_, rfl⟩
  case packetResendTimeout => rw [exec_packetResendTimeout]; exact ⟨_, rfl⟩
  case beatError => rw [exec_beatError]; (simp [Instr.wf] at h; exact answers_if (by simp [pathWf, BeatPath.wf] at *; exact h) ⟨_, rfl⟩)
  case laneFault => rw [exec_laneFault]; (simp [Instr.wf, physWf] at h; exact answers_if (by omega) ⟨_, rfl⟩)
  case coreFault => rw [exec_coreFault]; (simp [Instr.wf, physWf] at h; exact answers_if (by omega) ⟨_, rfl⟩)
  case coreFenceDone => rw [exec_coreFenceDone]; (simp [Instr.wf, physWf] at h; exact answers_if (by omega) ⟨_, rfl⟩)
  case coreSelfTestStart => rw [exec_coreSelfTestStart]; exact ⟨_, rfl⟩
  case coreSelfTestDone => rw [exec_coreSelfTestDone]; exact ⟨_, rfl⟩
  case dieCtrlRestart => rw [exec_dieCtrlRestart]; exact ⟨_, rfl⟩
  case dieLost => rw [exec_dieLost]; exact ⟨_, rfl⟩
  case islandLost => rw [exec_islandLost]; exact ⟨_, rfl⟩
  case farStackLost => rw [exec_farStackLost]; exact ⟨_, rfl⟩
  case rebuildRowMove => rw [exec_rebuildRowMove]; exact ⟨_, rfl⟩
  case nearStackLost => rw [exec_nearStackLost]; exact ⟨_, rfl⟩
  case nearReplacementDone => rw [exec_nearReplacementDone]; exact ⟨_, rfl⟩
  case selfRefreshEntry => rw [exec_selfRefreshEntry]; (simp [Instr.wf] at h; exact answers_if (by simp; omega) ⟨_, rfl⟩)
  case hubFault => rw [exec_hubFault]; exact ⟨_, rfl⟩
  case heartbeatTimeout => rw [exec_heartbeatTimeout]; exact ⟨_, rfl⟩
  case sliceAbandon => rw [exec_sliceAbandon]; exact ⟨_, rfl⟩
  case recordFault => rw [exec_recordFault]; exact ⟨_, rfl⟩
  case recordRecovered => rw [exec_recordRecovered]; exact ⟨_, rfl⟩
  case pmbAlert => rw [exec_pmbAlert]; exact ⟨_, rfl⟩
  case portDown => rw [exec_portDown]; exact ⟨_, rfl⟩
  case portUp => rw [exec_portUp]; exact ⟨_, rfl⟩
  case perst => rw [exec_perst]; exact ⟨_, rfl⟩
  case flitReceive => rw [exec_flitReceive]; exact ⟨_, rfl⟩
  case linkLaneFail => rw [exec_linkLaneFail]; (simp [Instr.wf] at h; exact answers_if (by simp; omega) ⟨_, rfl⟩)
  case laneRetrainDone => rw [exec_laneRetrainDone]; exact ⟨_, rfl⟩
  case gcountSync => rw [exec_gcountSync]; exact ⟨_, rfl⟩
  case workerLossTimeout => rw [exec_workerLossTimeout]; exact ⟨_, rfl⟩
  case workerRefusal => rw [exec_workerRefusal]; exact ⟨_, rfl⟩
  case comparisonRecord => rw [exec_comparisonRecord]; exact ⟨_, rfl⟩
  case peerLinkTimeout => rw [exec_peerLinkTimeout]; exact ⟨_, rfl⟩
  case porAssert => rw [exec_porAssert]; exact ⟨_, rfl⟩
  case porRelease => rw [exec_porRelease]; exact ⟨_, rfl⟩
  case railSettle => rw [exec_railSettle]; exact ⟨_, rfl⟩
  case hrst => rw [exec_hrst]; exact ⟨_, rfl⟩
  case pwrfail => rw [exec_pwrfail]; exact ⟨_, rfl⟩
  case leadAbsentTimeout => rw [exec_leadAbsentTimeout]; exact ⟨_, rfl⟩
  case imageOffer => rw [exec_imageOffer]; exact ⟨_, rfl⟩
  case imageVerified => rw [exec_imageVerified]; exact ⟨_, rfl⟩
  case hubJoin => rw [exec_hubJoin]; exact ⟨_, rfl⟩
  case joinTimeout => rw [exec_joinTimeout]; exact ⟨_, rfl⟩
  case computePowerUpStep => rw [exec_computePowerUpStep]; exact ⟨_, rfl⟩
  case sensorSample => rw [exec_sensorSample]; (simp [Instr.wf] at h; exact answers_if (by simp; omega) ⟨_, rfl⟩)
  case thermalStep => rw [exec_thermalStep]; exact ⟨_, rfl⟩
  case powerStep => rw [exec_powerStep]; exact ⟨_, rfl⟩
  case sleepTimeout => rw [exec_sleepTimeout]; (simp [Instr.wf, physWf] at h; exact answers_if (by omega) ⟨_, rfl⟩)
  case pllLock => rw [exec_pllLock]; (simp [Instr.wf, physWf] at h; exact answers_if (by omega) ⟨_, rfl⟩)
  case runEntry => rw [exec_runEntry]; exact ⟨_, rfl⟩
  case runExit => rw [exec_runExit]; exact ⟨_, rfl⟩
  case networkClockGate => rw [exec_networkClockGate]; exact ⟨_, rfl⟩
  case interruptingSliceStart => rw [exec_interruptingSliceStart]; exact ⟨_, rfl⟩
  case worgonPortTrained => rw [exec_worgonPortTrained]; exact ⟨_, rfl⟩
  case debugPortHalt => rw [exec_debugPortHalt]; exact ⟨_, rfl⟩

end Sys2Proof.Machine
end

