-- ==== Sys2Proof/Laws/Memory.lean ====
section
/-! SUPPORT. The sparse memory: every operation keeps the canonical form, a read after a write gives what was written,
every other byte reads as before. -/

namespace Sys2Proof.Machine

open Sys2Proof

/-! The canonical form. -/

theorem Memory.wf_iff (m : Memory) : m.wf = true ↔ m.Pairwise (fun x y => x.1 < y.1) ∧ ∀ c ∈ m, c.2 ≠ 0 := by
  simp [Memory.wf]

@[simp] theorem Memory.wf_nil : Memory.wf [] = true := rfl

/-- Dropping cells keeps the form. -/
theorem Memory.wf_filter {m : Memory} (f : Host.Cell → Bool) (h : m.wf = true) : Memory.wf (m.filter f) = true := by
  rw [Memory.wf_iff] at *
  exact ⟨h.1.filter f, fun c hc => h.2 c (List.mem_filter.mp hc).1⟩

theorem memCells_bounds (bs : List Byte) : ∀ (a : Nat), ∀ c ∈ memCells a bs, a ≤ c.1 ∧ c.1 < a + bs.length := by
  induction bs with
  | nil => intro a c hc; simp [memCells] at hc
  | cons b r ih =>
    intro a c hc
    simp only [memCells] at hc
    split at hc
    · have := ih (a + 1) c hc
      simp only [List.length_cons]
      omega
    · rcases List.mem_cons.mp hc with rfl | hc
      · simp
      · have := ih (a + 1) c hc
        simp only [List.length_cons]
        omega

theorem memCells_wf (bs : List Byte) : ∀ a, Memory.wf (memCells a bs) = true := by
  induction bs with
  | nil => intro a; rfl
  | cons b r ih =>
    intro a
    simp only [memCells]
    split
    · exact ih (a + 1)
    · rename_i hb
      have := ih (a + 1)
      rw [Memory.wf_iff] at *
      refine ⟨List.pairwise_cons.mpr ⟨fun c hc => ?_, this.1⟩, fun c hc => ?_⟩
      · have := memCells_bounds r (a + 1) c hc
        simp only
        omega
      · rcases List.mem_cons.mp hc with rfl | hc
        · exact hb
        · exact this.2 c hc

/-- Replacing a range of bytes keeps the form. -/
theorem memWriteN_wf {m : Memory} (a : Nat) (bs : List Byte) (h : m.wf = true) : Memory.wf (memWriteN m a bs) = true := by
  have hc := memCells_wf bs a
  rw [Memory.wf_iff] at *
  refine ⟨?_, ?_⟩
  · simp only [memWriteN]
    rw [List.pairwise_append, List.pairwise_append]
    refine ⟨⟨h.1.filter _, hc.1, ?_⟩, h.1.filter _, ?_⟩
    · intro x hx y hy
      have := memCells_bounds bs a y hy
      simp only [List.mem_filter, decide_eq_true_eq] at hx
      omega
    · intro x hx y hy
      simp only [List.mem_filter, decide_eq_true_eq] at hy
      rcases List.mem_append.mp hx with hx | hx
      · simp only [List.mem_filter, decide_eq_true_eq] at hx
        omega
      · have := memCells_bounds bs a x hx
        omega
  · intro c hmem
    simp only [memWriteN, List.mem_append, List.mem_filter] at hmem
    rcases hmem with (⟨hm, -⟩ | hm) | ⟨hm, -⟩
    · exact h.2 c hm
    · exact hc.2 c hm
    · exact h.2 c hm

theorem memWrite_wf {m : Memory} (a : Nat) (b : Byte) (h : m.wf = true) : Memory.wf (memWrite m a b) = true :=
  memWriteN_wf a [b] h

theorem memZero_wf {m : Memory} (lo hi : Nat) (h : m.wf = true) : Memory.wf (memZero m lo hi) = true :=
  Memory.wf_filter _ h

theorem memRange_wf {m : Memory} (lo hi : Nat) (h : m.wf = true) : Memory.wf (memRange m lo hi) = true :=
  Memory.wf_filter _ h

/-! Reads. -/

theorem memRead_filter (m : Memory) (f : Nat → Bool) (x : Nat) :
    memRead (m.filter (fun c => f c.1)) x = if f x then memRead m x else 0 := by
  induction m with
  | nil => simp [memRead]
  | cons c r ih =>
    obtain ⟨k, v⟩ := c
    by_cases hk : f k = true
    · simp only [List.filter, hk, memRead, ih]
      split
      · subst_vars; simp [hk]
      · rfl
    · simp only [List.filter, hk, memRead, ih]
      split
      · rename_i hx
        split
        · subst_vars; exact absurd hx hk
        · rfl
      · rfl

theorem memRead_cells (bs : List Byte) : ∀ (a x : Nat),
    memRead (memCells a bs) x = if a ≤ x then bs.getD (x - a) 0 else 0 := by
  induction bs with
  | nil => intro a x; simp [memCells, memRead]
  | cons b r ih =>
    intro a x
    simp only [memCells]
    by_cases hax : a = x
    · subst hax
      split
      · rename_i hb
        rw [ih, if_neg (by omega), if_pos (Nat.le_refl a), Nat.sub_self, hb]
        rfl
      · simp [memRead]
    · have hlt : ¬ a ≤ x ∨ a + 1 ≤ x := by omega
      have hget : a + 1 ≤ x → (b :: r).getD (x - a) 0 = r.getD (x - (a + 1)) 0 := by
        intro h
        have : x - a = (x - (a + 1)) + 1 := by omega
        rw [this, List.getD_cons_succ]
      split
      · rw [ih]
        rcases hlt with h | h
        · rw [if_neg (by omega), if_neg h]
        · rw [if_pos h, if_pos (by omega), hget h]
      · simp only [memRead, if_neg hax]
        rw [ih]
        rcases hlt with h | h
        · rw [if_neg (by omega), if_neg h]
        · rw [if_pos h, if_pos (by omega), hget h]

theorem memRead_append (m n : Memory) (x : Nat) (hm : ∀ d ∈ m, d.1 ≠ x) : memRead (m ++ n) x = memRead n x := by
  induction m with
  | nil => rfl
  | cons c r ih =>
    obtain ⟨k, v⟩ := c
    have hk : k ≠ x := hm (k, v) (List.mem_cons_self ..)
    simp only [List.cons_append, memRead, if_neg hk]
    exact ih (fun d hd => hm d (List.mem_cons_of_mem _ hd))

theorem memRead_append_left (m n : Memory) (x : Nat) (hn : ∀ d ∈ n, d.1 ≠ x) : memRead (m ++ n) x = memRead m x := by
  induction m with
  | nil =>
    simp only [List.nil_append, memRead]
    induction n with
    | nil => rfl
    | cons c r ih =>
      obtain ⟨k, v⟩ := c
      have hk : k ≠ x := hn (k, v) (List.mem_cons_self ..)
      simp only [memRead, if_neg hk]
      exact ih (fun d hd => hn d (List.mem_cons_of_mem _ hd))
  | cons c r ih =>
    obtain ⟨k, v⟩ := c
    simp only [List.cons_append, memRead, ih]

/-- A byte after a write: the byte written inside the range, the byte as before outside it. -/
theorem memRead_memWriteN (m : Memory) (a : Nat) (bs : List Byte) (x : Nat) :
    memRead (memWriteN m a bs) x = if a ≤ x ∧ x < a + bs.length then bs.getD (x - a) 0 else memRead m x := by
  simp only [memWriteN]
  have hlow : ∀ d ∈ m.filter (fun c => decide (c.1 < a)), d.1 < a := by
    intro d hd; simpa using (List.mem_filter.mp hd).2
  have hhigh : ∀ d ∈ m.filter (fun c => decide (a + bs.length ≤ c.1)), a + bs.length ≤ d.1 := by
    intro d hd; simpa using (List.mem_filter.mp hd).2
  have hmid := memCells_bounds bs a
  by_cases h1 : x < a
  · rw [memRead_append_left, memRead_append_left, memRead_filter m (fun k => decide (k < a)), if_pos (by simpa using h1),
      if_neg (by omega)]
    · intro d hd; have := hmid d hd; omega
    · intro d hd; have := hhigh d hd; omega
  · by_cases h2 : x < a + bs.length
    · rw [memRead_append_left, memRead_append _ _ _ (fun d hd => by have := hlow d hd; omega), memRead_cells]
      · rw [if_pos (by omega), if_pos (by omega)]
      · intro d hd; have := hhigh d hd; omega
    · rw [List.append_assoc, memRead_append _ _ _ (fun d hd => by have := hlow d hd; omega),
        memRead_append _ _ _ (fun d hd => by have := hmid d hd; omega),
        memRead_filter m (fun k => decide (a + bs.length ≤ k)), if_pos (by simp; omega), if_neg (by omega)]

theorem memRead_memRange (m : Memory) (lo hi x : Nat) :
    memRead (memRange m lo hi) x = if lo ≤ x ∧ x < hi then memRead m x else 0 := by
  rw [memRange, memRead_filter m (fun k => decide (lo ≤ k) && decide (k < hi))]
  simp

theorem memRead_memZero (m : Memory) (lo hi x : Nat) :
    memRead (memZero m lo hi) x = if lo ≤ x ∧ x < hi then 0 else memRead m x := by
  rw [memZero, memRead_filter m (fun k => decide (k < lo) || decide (hi ≤ k))]
  by_cases h : lo ≤ x ∧ x < hi
  · rw [if_pos h, if_neg]; simp; omega
  · rw [if_neg h, if_pos]; simp; omega

@[simp] theorem memReadN_length (m : Memory) (a n : Nat) : (memReadN m a n).length = n := by simp [memReadN]

/-- n bytes are n reads of one byte. -/
theorem memReadN_eq (m : Memory) (a n : Nat) : memReadN m a n = (List.range n).map (fun i => memRead m (a + i)) := by
  simp only [memReadN]
  apply List.map_congr_left
  intro i hi
  rw [memRead_memRange, if_pos]
  have := List.mem_range.mp hi
  omega

/-- The bytes written are read back. -/
theorem memReadN_memWriteN (m : Memory) (a : Nat) (bs : List Byte) : memReadN (memWriteN m a bs) a bs.length = bs := by
  rw [memReadN_eq]
  apply List.ext_getElem
  · simp
  · intro i h1 h2
    simp only [List.getElem_map, List.getElem_range]
    rw [memRead_memWriteN, if_pos (by omega)]
    simp [List.getD_eq_getElem?_getD, h2]

/-- A range that a write does not meet reads as before. -/
theorem memReadN_memWriteN_off (m : Memory) (a b n : Nat) (bs : List Byte) (h : b + n ≤ a ∨ a + bs.length ≤ b) :
    memReadN (memWriteN m a bs) b n = memReadN m b n := by
  rw [memReadN_eq, memReadN_eq]
  apply List.map_congr_left
  intro i hi
  have := List.mem_range.mp hi
  rw [memRead_memWriteN, if_neg (by omega)]

end Sys2Proof.Machine
end

