-- ==== Sys2Proof/Laws/Far.lean ====
section
/-! SUPPORT. What a write of part of one block does to the far tier: the block's bytes and tag, and nothing of any other
block. -/

namespace Sys2Proof.Machine

open Sys2Proof

@[simp] theorem leBytes_length (n v : Nat) : (leBytes n v).length = n := by
  induction n generalizing v with
  | zero => rfl
  | succ n ih => simp [leBytes, ih]

theorem leNat_leBytes (n v : Nat) : leNat (leBytes n v) = v % 256 ^ n := by
  induction n generalizing v with
  | zero => simp [leBytes, leNat, Nat.mod_one]
  | succ n ih =>
    simp only [leBytes, leNat, ih, BitVec.toNat_ofNat]
    show v % 256 + 256 * (v / 256 % 256 ^ n) = _
    rw [Nat.pow_succ, Nat.mul_comm (256 ^ n) 256, Nat.mod_mul]

theorem splice_length {p n : List Byte} {o len : Nat} (h : p.length = len) (ho : o + n.length ≤ len) :
    (splice p o n).length = len := by
  simp [splice, padTo, zeros, h]
  omega

/-- The bytes put in are read back at their offset. -/
theorem splice_read {p n : List Byte} {o : Nat} (h : o ≤ p.length) : ((splice p o n).drop o).take n.length = n := by
  have hl : (padTo o p).length = o := by simp [padTo, zeros, Nat.min_eq_left h]; omega
  rw [splice, List.append_assoc, List.drop_append_of_le_length (by omega), List.drop_of_length_le (by omega)]
  simp

@[simp] theorem stored_length (f : FarTier) (b : Nat) : (f.stored b).length = 4096 := by simp [FarTier.stored, blockBytes]

/-- A range inside one block is one piece. -/
theorem piecesOf_one {a : Nat} {bs : List Byte} (h0 : bs ≠ []) (h : a % 4096 + bs.length ≤ 4096) :
    piecesOf a bs = [(a / 4096, a % 4096, bs)] := by
  have e : bs.isEmpty = false := by cases bs <;> simp_all
  have hd : bs.drop (4096 - a % 4096) = [] := List.drop_of_length_le (by omega)
  have ht : bs.take (4096 - a % 4096) = bs := List.take_of_length_le (by omega)
  simp only [piecesOf, blockPieces, e, Bool.false_eq_true, if_false, blockBytes, hd, ht]
  cases bs.length / 4096 <;> simp only [blockPieces, List.isEmpty_nil, if_true]

/-- What is left of a state whose stacks were woken: all but their controllers and the network clocks of their dies. -/
structure Woken (s t : State) : Prop where
  same : ∃ ct ds, t = { s with far := { s.far with ctrls := ct }, dies := ds }
  die : ∀ d, { t.die d with netGated := (s.die d).netGated, netIdleSince := (s.die d).netIdleSince } = s.die d

theorem Woken.refl (s : State) : Woken s s := ⟨⟨s.far.ctrls, s.dies, rfl⟩, fun _ => rfl⟩

theorem Woken.trans {s t u : State} (h : Woken s t) (k : Woken t u) : Woken s u := by
  obtain ⟨⟨c1, d1, e1⟩, h1⟩ := h
  obtain ⟨⟨c2, d2, e2⟩, h2⟩ := k
  refine ⟨⟨c2, d2, by rw [e2, e1]⟩, fun d => ?_⟩
  rw [← h1 d, ← h2 d]

theorem touchStack_woken (s : State) (k : Nat) : Woken s (touchStack s k) := by
  simp only [touchStack]
  split
  · refine ⟨⟨_, _, rfl⟩, fun d => ?_⟩
    simp only [dieTraffic, State.updDie_die, State.updStack, State.updFar_die]
    split <;> simp_all
  · exact ⟨⟨_, s.dies, rfl⟩, fun d => rfl⟩

/-- Waking stacks changes their controllers and the network clocks of their dies. -/
theorem touchBlocks_woken (s : State) (w : Bool) (bs : List Nat) : Woken s (touchBlocks s w bs) := by
  have all : ∀ (l : List Nat) (s : State), Woken s (l.foldl touchStack s) := by
    intro l
    induction l with
    | nil => exact Woken.refl
    | cons k l ih => intro s; exact (touchStack_woken s k).trans (ih _)
  exact all _ s

theorem touchBlocks_eq (s : State) (w : Bool) (bs : List Nat) :
    ∃ ct ds, touchBlocks s w bs = { s with far := { s.far with ctrls := ct }, dies := ds } := (touchBlocks_woken s w bs).same

theorem touchFar_woken (s : State) (a : Nat) : Woken s (touchFar s a) := touchBlocks_woken ..

theorem touchRead_woken (s : State) (a n : Nat) : Woken s (touchRead s a n) := touchBlocks_woken ..

theorem touchPiece_woken (s : State) (p : PieceId) : Woken s (touchPiece s p) := by
  simp only [touchPiece]
  split
  · exact Woken.refl s
  · split
    · exact touchStack_woken ..
    · exact touchBlocks_woken ..
    · exact Woken.refl s

theorem deviceWrite_one (s : State) {a : Nat} {bs : List Byte} (h0 : bs ≠ []) (h : a % 4096 + bs.length ≤ 4096) :
    deviceWrite s a bs = deviceWriteBlock (touchBlocks s true (blocksOf a bs.length)) (a / 4096) (a % 4096) bs := by
  simp [deviceWrite, piecesOf_one h0 h]

/-- What the tier holds once a block is written: its bytes, its tag, and nothing of another block. -/
structure BlockWritten (f g : FarTier) (b : Nat) (data : List Byte) (tag : BlockTag) : Prop where
  stored : g.stored b = data
  tag : g.tag b = tag
  others : ∀ c, c ≠ b → g.stored c = f.stored c ∧ g.tag c = f.tag c
  groups : g.g0 = f.g0 ∧ g.g1 = f.g1
  rest : g.owners = f.owners ∧ g.windows = f.windows ∧ g.ctrls = f.ctrls ∧ g.prior = f.prior ∧ g.delivered = f.delivered

theorem stored_retest (f : FarTier) (lo hi b : Nat) : (retest f lo hi).stored b = f.stored b := rfl
theorem tag_retest (f : FarTier) (lo hi b : Nat) : (retest f lo hi).tag b = f.tag b := rfl
theorem stored_setTag (f : FarTier) (b c : Nat) (t : BlockTag) : (f.setTag b t).stored c = f.stored c := rfl
theorem tag_setTag (f : FarTier) (b c : Nat) (t : BlockTag) : (f.setTag b t).tag c = if b = c then t else f.tag c := by
  simp [FarTier.tag, FarTier.setTag, tabGet_tabPut]
theorem stored_addParity (f : FarTier) (a c : Nat) (d : List Byte) : (f.addParity a d).stored c = f.stored c := rfl
theorem tag_addParity (f : FarTier) (a c : Nat) (d : List Byte) : (f.addParity a d).tag c = f.tag c := rfl

/-- Block b of a memory with block a written. -/
theorem stored_write (f : FarTier) (a b : Nat) {data : List Byte} (h : data.length = 4096) :
    ({ f with mem := memWriteN f.mem (a * blockBytes) data } : FarTier).stored b = if a = b then data else f.stored b := by
  simp only [FarTier.stored, blockBytes]
  split
  · rename_i e
    subst e
    rw [← h, memReadN_memWriteN]
  · rename_i e
    exact memReadN_memWriteN_off _ _ _ _ _ (by omega)

/-- A block on a stack in service, put in place. -/
theorem putBlock_written {s : State} {b : Nat} {data : List Byte} {tag : BlockTag} (h : data.length = 4096)
    (hl : (s.far.group (b % 2)).onLost (b / 2) = false) :
    ∃ f, putBlock s b data tag = { s with far := f } ∧ BlockWritten s.far f b data tag := by
  have hb : s.far.bytes b = some (s.far.stored b) := by simp [FarTier.bytes, hl]
  have hw : ∀ (f : FarTier) (x : Bool) (a : Nat) (d : List Byte), f.mem = memWriteN s.far.mem (b * blockBytes) data →
      f.tags = s.far.tags → f.g0 = s.far.g0 ∧ f.g1 = s.far.g1 →
      (f.owners = s.far.owners ∧ f.windows = s.far.windows ∧ f.ctrls = s.far.ctrls ∧ f.prior = s.far.prior ∧ f.delivered = s.far.delivered) →
      BlockWritten s.far (retest (f.setTag b tag) (b * blockBytes) (b * blockBytes + blockBytes)) b data tag := by
    intro f x a d hm ht hg hr
    have hs : ∀ c, f.stored c = if b = c then data else s.far.stored c := by
      intro c
      have e : f.stored c = ({ s.far with mem := memWriteN s.far.mem (b * blockBytes) data } : FarTier).stored c := by
        simp [FarTier.stored, hm]
      rw [e, stored_write _ _ _ h]
    have htag : ∀ c, f.tag c = s.far.tag c := by intro c; simp [FarTier.tag, ht]
    refine ⟨?_, ?_, ?_, hg, hr⟩
    · rw [stored_retest, stored_setTag, hs, if_pos rfl]
    · rw [tag_retest, tag_setTag, if_pos rfl]
    · intro c hc
      rw [stored_retest, stored_setTag, hs, if_neg (Ne.symm hc), tag_retest, tag_setTag, if_neg (Ne.symm hc), htag]
      exact ⟨rfl, rfl⟩
  simp only [putBlock, hb, hl, Bool.false_eq_true, if_false]
  cases (s.far.group (b % 2)).parityKept (b / 2) with
  | true =>
    refine ⟨_, rfl, ?_⟩
    exact hw _ true 0 [] rfl rfl ⟨rfl, rfl⟩ ⟨rfl, rfl, rfl, rfl, rfl⟩
  | false =>
    refine ⟨_, rfl, ?_⟩
    exact hw _ true 0 [] rfl rfl ⟨rfl, rfl⟩ ⟨rfl, rfl, rfl, rfl, rfl⟩

theorem mergeBase_length {f : FarTier} {b : Nat} (hl : (f.group (b % 2)).onLost (b / 2) = false) :
    (mergeBase f b).length = 4096 := by
  simp only [mergeBase, FarTier.bytes, hl, Bool.not_false, if_true, Option.getD_some]
  split
  · exact List.length_replicate
  · simp

/-- A device write of part of a block on a stack in service. -/
theorem deviceWriteBlock_written {s : State} {b o : Nat} {bs : List Byte} (h : o + bs.length ≤ 4096)
    (hl : (s.far.group (b % 2)).onLost (b / 2) = false) :
    ∃ f, deviceWriteBlock s b o bs = { s with far := f } ∧ BlockWritten s.far f b (splice (mergeBase s.far b) o bs)
      { st := .checked, check := crc32c (splice (mergeBase s.far b) o bs) } := by
  have hlen := splice_length (mergeBase_length hl) h
  have ht : (splice (mergeBase s.far b) o bs).take blockBytes = splice (mergeBase s.far b) o bs :=
    List.take_of_length_le (by rw [hlen]; exact Nat.le_refl _)
  simp only [deviceWriteBlock, ht]
  exact putBlock_written hlen hl

/-- A word of a block once written: the bytes put in. -/
theorem farWord_written {f g : FarTier} {a : Nat} {v : W64} {t : BlockTag} (ha : a % 8 = 0)
    (hl : (f.group (a / 4096 % 2)).onLost (a / 4096 / 2) = false) (ht : t.st ≠ .never)
    (h : BlockWritten f g (a / 4096) (splice (mergeBase f (a / 4096)) (a % 4096) (leBytes 8 v.toNat)) t) : farWord g a = v := by
  have hg : (g.group (a / 4096 % 2)).onLost (a / 4096 / 2) = false := by
    simpa [FarTier.group, h.groups] using hl
  have hm : mergeBase g (a / 4096) = splice (mergeBase f (a / 4096)) (a % 4096) (leBytes 8 v.toNat) := by
    simp only [mergeBase, FarTier.bytes, hg, h.tag, ht, if_false, Bool.not_false, if_true, Option.getD_some, h.stored]
  have hr := splice_read (n := leBytes 8 v.toNat) (p := mergeBase f (a / 4096)) (o := a % 4096)
    (by rw [mergeBase_length hl]; omega)
  rw [leBytes_length] at hr
  simp only [farWord, blockBytes, hm, leAt, hr, leNat_leBytes]
  apply BitVec.eq_of_toNat_eq
  have := v.isLt
  simp only [BitVec.toNat_ofNat]
  omega

/-- Commands left undefined by an unordered access: only the queues change. -/
theorem raceWhere_same (s : State) (p : Cmd → Bool) : raceWhere s p = { s with tab := (raceWhere s p).tab } := rfl

/-- With no command that the condition names, nothing changes. -/
theorem raceWhere_none {s : State} {p : Cmd → Bool} (h : s.tab.queues.any (fun q => q.cmds.any p) = false) :
    (raceWhere s p).tab = s.tab := by
  have hq : ∀ q ∈ s.tab.queues, ({ q with cmds := updWhere p (fun c => { c with raced := true }) q.cmds } : Queue) = q := by
    intro q hm
    have hc := List.any_eq_false.mp h q hm
    have : updWhere p (fun c => { c with raced := true }) q.cmds = q.cmds := by
      rw [updWhere, List.map_congr_left (g := id), List.map_id]
      intro c hcm
      simp [List.any_eq_false.mp (by simpa using hc) c hcm]
    rw [this]
  simp only [raceWhere, State.updTab_tab]
  rw [List.map_congr_left hq, List.map_id']

theorem raceReads_same (s : State) (p : Port) (base length : Nat) :
    raceReads s p base length = { s with tab := (raceReads s p base length).tab } := by
  have h : ∀ (l : List (Nat × Nat × List Byte)) (t : State), (∃ x, t = { s with tab := x }) →
      ∃ x, l.foldl (fun t q => if bar2Reaches s p (q.1 * blockBytes) then raceRead t (q.1 * blockBytes + q.2.1, q.2.2.length) else t) t
        = { s with tab := x } := by
    intro l
    induction l with
    | nil => exact fun t h => h
    | cons a l ih =>
      rintro t ⟨x, rfl⟩
      refine ih _ ?_
      dsimp only
      split
      · exact ⟨_, rfl⟩
      · exact ⟨_, rfl⟩
  obtain ⟨x, hx⟩ := h (piecesOf base (zeros length)) s ⟨_, rfl⟩
  rw [raceReads, hx]

/-- A read while no running command writes leaves the queues as they are. -/
theorem raceReads_none {s : State} {p : Port} {base length : Nat}
    (h : s.tab.queues.all (fun q => q.cmds.all (fun c => c.phase != .running || c.writes.isEmpty)) = true) :
    (raceReads s p base length).tab = s.tab := by
  have one : ∀ (t : State) (w : Nat × Nat), t.tab = s.tab → (raceRead t w).tab = s.tab := by
    intro t w ht
    refine (raceWhere_none ?_).trans ht
    rw [ht, List.any_eq_false]
    intro q hq
    rw [Bool.not_eq_true, List.any_eq_false]
    intro c hc
    have := List.all_eq_true.mp (List.all_eq_true.mp h q hq) c hc
    rcases Bool.or_eq_true _ _ |>.mp this with h1 | h1
    · simp_all
    · simp_all
  have all : ∀ (l : List (Nat × Nat × List Byte)) (t : State), t.tab = s.tab →
      (l.foldl (fun t q => if bar2Reaches s p (q.1 * blockBytes) then raceRead t (q.1 * blockBytes + q.2.1, q.2.2.length) else t) t).tab
        = s.tab := by
    intro l
    induction l with
    | nil => exact fun t h => h
    | cons a l ih =>
      intro t ht
      refine ih _ ?_
      dsimp only
      split
      · exact one _ _ ht
      · exact ht
  exact all _ s rfl

end Sys2Proof.Machine
end

