-- ==== Sys2Proof/Laws/Keeps.lean ====
section
/-! SUPPORT. What no operation changes: the waiting queue; and what every operation keeps: the canonical form of each sparse
memory. The relation `Keeps`, and one lemma per shared operation in the form that a chain of operations needs: it may be put
at the end of a chain that keeps them. -/

namespace Sys2Proof.Machine

set_option linter.all false

open Sys2Proof

/-- The two memories of the far tier are canonical. -/
def FarTier.ok (f : FarTier) : Prop := f.mem.wf = true ∧ f.parity.wf = true

/-- The two memories of a port are canonical. -/
def PortState.ok (p : PortState) : Prop := p.hostMem.wf = true ∧ p.reqPages.wf = true

/-- The scratchpad of a core is canonical. -/
def CoreCtx.ok (c : CoreCtx) : Prop := c.scratch.wf = true

/-- Every scratchpad is canonical. -/
def coresOk (l : Tab CoreCtx) : Prop := ∀ c ∈ l, c.2.ok

/-- From s to t the waiting queue stays as it is, and memories stay canonical where they are. -/
def Keeps (s t : State) : Prop :=
  t.pending = s.pending ∧ (s.far.ok → t.far.ok) ∧ (s.pa.ok → t.pa.ok) ∧ (s.pb.ok → t.pb.ok) ∧ (coresOk s.cores → coresOk t.cores)

/-- The outcome of a command keeps them, where it answers a next state. -/
structure KeepsR (s : State) (r : Result) : Prop where
  out : ∀ t, r = .next t → Keeps s t

/-- A reply keeps them. -/
inductive KeepsReply (s : State) : Reply → Prop where
  | done {t : State} {a b : Nat} {c : List Byte} : Keeps s t → KeepsReply s (.done t a b c)
  | stay {t : State} : Keeps s t → KeepsReply s (.stay t)

structure KeepsO (s : State) (o : Option State) : Prop where
  out : ∀ t, o = some t → Keeps s t

theorem Keeps.refl (s : State) : Keeps s s := ⟨rfl, id, id, id, id⟩

theorem Keeps.trans {s t u : State} (h : Keeps s t) (k : Keeps t u) : Keeps s u :=
  ⟨k.1.trans h.1, k.2.1 ∘ h.2.1, k.2.2.1 ∘ h.2.2.1, k.2.2.2.1 ∘ h.2.2.2.1, k.2.2.2.2 ∘ h.2.2.2.2⟩

theorem KeepsR.next {s t : State} (h : Keeps s t) : KeepsR s (.next t) := ⟨fun _ e => by cases e; exact h⟩
theorem KeepsR.fault {s : State} {f : Fault} : KeepsR s (.fault f) := ⟨fun _ e => by cases e⟩
theorem KeepsO.some {s t : State} (h : Keeps s t) : KeepsO s (.some t) := ⟨fun _ e => by cases e; exact h⟩
theorem KeepsO.none {s : State} : KeepsO s .none := ⟨fun _ e => by cases e⟩

/-- A state got out of an Option, of a pair, of an outcome. -/
theorem Keeps.ofO {s t : State} {o : Option State} (e : o = some t) (h : KeepsO s o) : Keeps s t := h.out t e
theorem Keeps.ofSnd {α : Type} {s t : State} {a : α} {p : α × State} (e : p = (a, t)) (h : Keeps s p.2) : Keeps s t := by
  cases e; exact h
theorem Keeps.ofFst {α : Type} {s t : State} {a : α} {p : State × α} (e : p = (t, a)) (h : Keeps s p.1) : Keeps s t := by
  cases e; exact h
theorem Keeps.ofNext {s t : State} {r : Result} (e : r = .next t) (h : KeepsR s r) : Keeps s t := h.out t e

/-! A choice. -/

theorem Keeps.ite {c : Prop} [Decidable c] {s a b : State} (h : Keeps s a) (k : Keeps s b) : Keeps s (if c then a else b) := by
  split <;> assumption
theorem KeepsR.ite {c : Prop} [Decidable c] {s : State} {a b : Result} (h : KeepsR s a) (k : KeepsR s b) :
    KeepsR s (if c then a else b) := by
  split <;> assumption
theorem KeepsReply.ite {c : Prop} [Decidable c] {s : State} {a b : Reply} (h : KeepsReply s a) (k : KeepsReply s b) :
    KeepsReply s (if c then a else b) := by
  split <;> assumption
theorem KeepsO.ite {c : Prop} [Decidable c] {s : State} {a b : Option State} (h : KeepsO s a) (k : KeepsO s b) :
    KeepsO s (if c then a else b) := by
  split <;> assumption
theorem PortState.ite_ok {c : Prop} [Decidable c] {a b : PortState} (h : a.ok) (k : b.ok) : (if c then a else b).ok := by
  split <;> assumption
theorem FarTier.ite_ok {c : Prop} [Decidable c] {a b : FarTier} (h : a.ok) (k : b.ok) : (if c then a else b).ok := by
  split <;> assumption
theorem CoreCtx.ite_ok {c : Prop} [Decidable c] {a b : CoreCtx} (h : a.ok) (k : b.ok) : (if c then a else b).ok := by
  split <;> assumption

theorem Keeps.getD {s t : State} {o : Option State} (h : KeepsO s o) (k : Keeps s t) : Keeps s (o.getD t) := by
  cases o with
  | none => exact k
  | some u => exact h.out u rfl
theorem Keeps.ofDone {s t : State} {r : Reply} {a b c} (e : r = .done t a b c) (h : KeepsReply s r) : Keeps s t := by cases e; cases h; assumption
theorem Keeps.ofStay {s t : State} {r : Reply} (e : r = .stay t) (h : KeepsReply s r) : Keeps s t := by cases e; cases h; assumption

/-- A record update: the fields that hold memory, where they stand. -/
theorem Keeps.mk' {s s' : State} {a b c d far pa pb e g h i cores k l m n} (w : Keeps s s')
    (k1 : s'.far.ok → far.ok) (k2 : s'.pa.ok → pa.ok) (k3 : s'.pb.ok → pb.ok) (k4 : coresOk s'.cores → coresOk cores) :
    Keeps s ⟨s'.pending, a, b, c, d, pa, pb, far, e, g, h, i, cores, k, l, m, n⟩ :=
  ⟨w.1, k1 ∘ w.2.1, k2 ∘ w.2.2.1, k3 ∘ w.2.2.2.1, k4 ∘ w.2.2.2.2⟩

theorem memoriesWf_iff (s : State) : memoriesWf s = true ↔ s.far.ok ∧ s.pa.ok ∧ s.pb.ok ∧ coresOk s.cores := by
  simp [memoriesWf, FarTier.ok, PortState.ok, coresOk, CoreCtx.ok, List.all_eq_true, and_assoc, and_left_comm]

theorem Keeps.memories {s t : State} (h : Keeps s t) (w : memoriesWf s = true) : memoriesWf t = true := by
  rw [memoriesWf_iff] at w ⊢
  exact ⟨h.2.1 w.1, h.2.2.1 w.2.1, h.2.2.2.1 w.2.2.1, h.2.2.2.2 w.2.2.2⟩

/-! Updates that write no memory. -/

theorem PortState.ok_same {p q : PortState} (h : p.ok) (e : q.hostMem = p.hostMem) (e' : q.reqPages = p.reqPages) : q.ok :=
  ⟨e ▸ h.1, e' ▸ h.2⟩
theorem FarTier.ok_same {p q : FarTier} (h : p.ok) (e : q.mem = p.mem) (e' : q.parity = p.parity) : q.ok := ⟨e ▸ h.1, e' ▸ h.2⟩
theorem CoreCtx.ok_same {p q : CoreCtx} (h : p.ok) (e : q.scratch = p.scratch) : q.ok := by unfold CoreCtx.ok; rw [e]; exact h

theorem FarTier.ok_filter {p q : FarTier} {f : Host.Cell → Bool} (h : p.ok) (e : q.mem = p.mem.filter f)
    (e' : q.parity = p.parity) : q.ok := ⟨e ▸ Memory.wf_filter f h.1, e' ▸ h.2⟩
theorem FarTier.ok_filter_parity {p q : FarTier} {f : Host.Cell → Bool} (h : p.ok) (e : q.parity = p.parity.filter f)
    (e' : q.mem = p.mem) : q.ok := ⟨e' ▸ h.1, e ▸ Memory.wf_filter f h.2⟩

/-! Updates that write memory. -/

theorem PortState.ok_host {p q : PortState} {a : Nat} {bs : List Byte} (h : p.ok) (e : q.hostMem = memWriteN p.hostMem a bs)
    (e' : q.reqPages = p.reqPages) : q.ok := ⟨e ▸ memWriteN_wf a bs h.1, e' ▸ h.2⟩
theorem PortState.ok_pages {p q : PortState} {a : Nat} {bs : List Byte} (h : p.ok) (e : q.reqPages = memWriteN p.reqPages a bs)
    (e' : q.hostMem = p.hostMem) : q.ok := ⟨e' ▸ h.1, e ▸ memWriteN_wf a bs h.2⟩
theorem FarTier.ok_mem {p q : FarTier} {a : Nat} {bs : List Byte} (h : p.ok) (e : q.mem = memWriteN p.mem a bs)
    (e' : q.parity = p.parity) : q.ok := ⟨e ▸ memWriteN_wf a bs h.1, e' ▸ h.2⟩
theorem FarTier.ok_parity {p q : FarTier} {a : Nat} {bs : List Byte} (h : p.ok) (e : q.parity = memWriteN p.parity a bs)
    (e' : q.mem = p.mem) : q.ok := ⟨e' ▸ h.1, e ▸ memWriteN_wf a bs h.2⟩
theorem CoreCtx.ok_scratch {p q : CoreCtx} {a : Nat} {bs : List Byte} (h : p.ok) (e : q.scratch = memWriteN p.scratch a bs) :
    q.ok := by unfold CoreCtx.ok; rw [e]; exact memWriteN_wf a bs h

/-! Lists of cores. -/

theorem coresOk_tabSet {l : Tab CoreCtx} (k : Nat) {v : CoreCtx} (h : coresOk l) (hv : v.ok) : coresOk (tabSet l k v) := by
  induction l with
  | nil => intro c hc; simp only [tabSet, List.mem_singleton] at hc; subst hc; exact hv
  | cons x r ih =>
    have hr : coresOk r := fun c hc => h c (List.mem_cons_of_mem _ hc)
    have hx := h x List.mem_cons_self
    intro c hc
    obtain ⟨a, w⟩ := x
    simp only [tabSet] at hc
    split at hc
    · rcases List.mem_cons.1 hc with rfl | hc
      · exact hv
      · exact h c hc
    · split at hc
      · rcases List.mem_cons.1 hc with rfl | hc
        · exact hv
        · exact hr c hc
      · rcases List.mem_cons.1 hc with rfl | hc
        · exact hx
        · exact ih hr c hc

theorem coresOk_tabPut {l : Tab CoreCtx} (k : Nat) {v : CoreCtx} (h : coresOk l) (hv : v.ok) :
    coresOk (tabPut {} l k v) := by
  unfold tabPut
  split
  · exact fun c hc => h c (List.mem_filter.1 hc).1
  · exact coresOk_tabSet k h hv

theorem CoreCtx.ok_default : CoreCtx.ok {} := rfl
theorem PortState.ok_default : PortState.ok {} := ⟨rfl, rfl⟩
theorem FarTier.ok_default : FarTier.ok {} := ⟨rfl, rfl⟩

theorem coresOk_get {l : Tab CoreCtx} (k : Nat) (h : coresOk l) : (tabGet ({} : CoreCtx) l k).ok := by
  induction l with
  | nil => rfl
  | cons x r ih =>
    obtain ⟨a, w⟩ := x
    by_cases e : a = k
    · simpa [tabGet, tabGet?, e] using h (a, w) List.mem_cons_self
    · simpa [tabGet, tabGet?, e] using ih (fun c hc => h c (List.mem_cons_of_mem _ hc))

theorem coresOk_map {l : Tab CoreCtx} {f : Nat × CoreCtx → Nat × CoreCtx} (h : coresOk l) (k : ∀ c, c.2.ok → (f c).2.ok) :
    coresOk (l.map f) := by
  intro c hc
  obtain ⟨x, hx, rfl⟩ := List.mem_map.1 hc
  exact k x (h x hx)

theorem coresOk_filter {l : Tab CoreCtx} {f} (h : coresOk l) : coresOk (l.filter f) :=
  fun c hc => h c (List.mem_filter.1 hc).1

/-! Parts of the state. -/

theorem State.updDev_keeps {s0 s : State} {f} (h : Keeps s0 s) : Keeps s0 (s.updDev f) := h
theorem State.updTab_keeps {s0 s : State} {f} (h : Keeps s0 s) : Keeps s0 (s.updTab f) := h
theorem State.updRecord_keeps {s0 s : State} {f} (h : Keeps s0 s) : Keeps s0 (s.updRecord f) := h
theorem State.updFab_keeps {s0 s : State} {f} (h : Keeps s0 s) : Keeps s0 (s.updFab f) := h
theorem State.updPwr_keeps {s0 s : State} {f} (h : Keeps s0 s) : Keeps s0 (s.updPwr f) := h
theorem State.updNear_keeps {s0 s : State} {f} (h : Keeps s0 s) : Keeps s0 (s.updNear f) := h
theorem State.updKey_keeps {s0 s : State} {f} (h : Keeps s0 s) : Keeps s0 (s.updKey f) := h
theorem State.updDie_keeps {s0 s : State} {d f} (h : Keeps s0 s) : Keeps s0 (s.updDie d f) := h
theorem State.updPhys_keeps {s0 s : State} {d f} (h : Keeps s0 s) : Keeps s0 (s.updPhys d f) := h
theorem State.setHub_keeps {s0 s : State} {d v} (h : Keeps s0 s) : Keeps s0 (s.setHub d v) := by cases d <;> exact h
theorem State.updHub_keeps {s0 s : State} {d f} (h : Keeps s0 s) : Keeps s0 (s.updHub d f) := State.setHub_keeps h

theorem State.updFar_keeps {s0 s : State} {f : FarTier → FarTier} (h : Keeps s0 s) (k : s.far.ok → (f s.far).ok) :
    Keeps s0 (s.updFar f) :=
  ⟨h.1, k ∘ h.2.1, h.2.2⟩

theorem State.setPort_keeps {s0 s : State} {p} {v : PortState} (h : Keeps s0 s) (k : (s.port p).ok → v.ok) :
    Keeps s0 (s.setPort p v) := by
  cases p
  · exact ⟨h.1, h.2.1, k ∘ h.2.2.1, h.2.2.2⟩
  · exact ⟨h.1, h.2.1, h.2.2.1, k ∘ h.2.2.2.1, h.2.2.2.2⟩

theorem State.updPort_keeps {s0 s : State} {p} {f : PortState → PortState} (h : Keeps s0 s)
    (k : (s.port p).ok → (f (s.port p)).ok) : Keeps s0 (s.updPort p f) := State.setPort_keeps h k

theorem State.updCore_keeps {s0 s : State} {c} {f : CoreCtx → CoreCtx} (h : Keeps s0 s)
    (k : (s.core c).ok → (f (s.core c)).ok) : Keeps s0 (s.updCore c f) :=
  ⟨h.1, h.2.1, h.2.2.1, h.2.2.2.1, fun w => coresOk_tabPut c (h.2.2.2.2 w) (k (coresOk_get c (h.2.2.2.2 w)))⟩

theorem Keeps.foldl {α : Type} {s : State} {f : State → α → State} {l : List α} {s' : State} (h : Keeps s s')
    (k : ∀ u x, Keeps s u → Keeps s (f u x)) : Keeps s (l.foldl f s') := by
  induction l generalizing s' with
  | nil => exact h
  | cons x r ih => exact ih (k _ _ h)

theorem FarTier.foldl_ok {α : Type} {f : FarTier → α → FarTier} {l : List α} {s : FarTier} (h : s.ok)
    (k : ∀ u x, u.ok → (f u x).ok) : (l.foldl f s).ok := by
  induction l generalizing s with
  | nil => exact h
  | cons x r ih => exact ih (k _ _ h)

theorem CoreCtx.foldl_ok {α : Type} {f : CoreCtx → α → CoreCtx} {l : List α} {s : CoreCtx} (h : s.ok)
    (k : ∀ u x, u.ok → (f u x).ok) : (l.foldl f s).ok := by
  induction l generalizing s with
  | nil => exact h
  | cons x r ih => exact ih (k _ _ h)

theorem Keeps.foldlSnd {α β : Type} {s : State} {f : β × State → α → β × State} {l : List α} {p : β × State} (h : Keeps s p.2)
    (k : ∀ u x, Keeps s u.2 → Keeps s (f u x).2) : Keeps s (l.foldl f p).2 := by
  induction l generalizing p with
  | nil => exact h
  | cons x r ih => exact ih (k _ _ h)

theorem Keeps.foldlFst {α β : Type} {s : State} {f : State × β → α → State × β} {l : List α} {p : State × β} (h : Keeps s p.1)
    (k : ∀ u x, Keeps s u.1 → Keeps s (f u x).1) : Keeps s (l.foldl f p).1 := by
  induction l generalizing p with
  | nil => exact h
  | cons x r ih => exact ih (k _ _ h)

/-! Machine/Ops. -/

theorem slewTick_keeps {s0 s : State} (hs : Keeps s0 s) :
    Keeps s0 (slewTick s) := by
  unfold slewTick
  repeat' first | assumption | refine fun _ => ?_ | apply Keeps.ite | split

theorem gcountTick_keeps {s0 s : State} (hs : Keeps s0 s) :
    Keeps s0 (gcountTick s) := by
  unfold gcountTick
  repeat' first | with_reducible assumption | with_reducible refine fun _ => ?_ | with_reducible apply slewTick_keeps | with_reducible apply Keeps.ite | ((first | lift_lets | skip); intro x; first | (have hx : Keeps s0 x := by (simp only [x]; repeat' first | with_reducible assumption | with_reducible refine fun _ => ?_ | with_reducible apply slewTick_keeps | with_reducible apply Keeps.ite | (with_reducible apply PortState.ok_same; assumption; rfl; rfl) | (with_reducible apply FarTier.ok_same; assumption; rfl; rfl) | (with_reducible apply CoreCtx.ok_same; assumption; rfl) | split | with_reducible refine Keeps.mk' ?_ ?_ ?_ ?_ ?_)); clear_value x | skip) | (with_reducible apply PortState.ok_same; assumption; rfl; rfl) | (with_reducible apply FarTier.ok_same; assumption; rfl; rfl) | (with_reducible apply CoreCtx.ok_same; assumption; rfl) | split | with_reducible refine Keeps.mk' ?_ ?_ ?_ ?_ ?_

theorem hostWrite_keeps {s0 s : State} {p : Port} {addr : Nat} {bs : List Byte} (hs : Keeps s0 s) :
    Keeps s0 (hostWrite s p addr bs) := by
  unfold hostWrite
  repeat' first | with_reducible assumption | with_reducible refine fun _ => ?_ | with_reducible apply State.updPort_keeps | (with_reducible apply PortState.ok_host; assumption; rfl; rfl) | ((first | lift_lets | skip); intro x; first | (have hx : Keeps s0 x := by (simp only [x]; repeat' first | with_reducible assumption | with_reducible refine fun _ => ?_ | with_reducible apply State.updPort_keeps | (with_reducible apply PortState.ok_host; assumption; rfl; rfl) | (with_reducible apply PortState.ok_same; assumption; rfl; rfl) | (with_reducible apply FarTier.ok_same; assumption; rfl; rfl) | (with_reducible apply CoreCtx.ok_same; assumption; rfl) | split | with_reducible refine Keeps.mk' ?_ ?_ ?_ ?_ ?_)); clear_value x | skip) | (with_reducible apply PortState.ok_same; assumption; rfl; rfl) | (with_reducible apply FarTier.ok_same; assumption; rfl; rfl) | (with_reducible apply CoreCtx.ok_same; assumption; rfl) | split | with_reducible refine Keeps.mk' ?_ ?_ ?_ ?_ ?_

theorem PortState.signal_keeps {ps : PortState} {v : Nat} (hps : PortState.ok ps) :
    PortState.ok (PortState.signal ps v) := by
  unfold PortState.signal
  with_reducible repeat' first | assumption | refine fun _ => ?_ | apply PortState.ite_ok | (apply PortState.ok_same; assumption; rfl; rfl)

theorem PortState.release_keeps {ps : PortState} {v : Nat} (hps : PortState.ok ps) :
    PortState.ok (PortState.release ps v) := by
  unfold PortState.release
  with_reducible repeat' first | assumption | refine fun _ => ?_ | apply PortState.ite_ok | (apply PortState.ok_same; assumption; rfl; rfl)

theorem PortState.writeEvent_keeps {ps : PortState} {e : HeldEv} (hps : PortState.ok ps) :
    PortState.ok (PortState.writeEvent ps e) := by
  unfold PortState.writeEvent
  repeat' first | with_reducible assumption | with_reducible refine fun _ => ?_ | with_reducible apply PortState.signal_keeps | with_reducible apply PortState.ite_ok | (with_reducible apply PortState.ok_host; assumption; rfl; rfl) | ((first | lift_lets | skip); intro x; first | (have hx : PortState.ok x := by (simp only [x]; repeat' first | with_reducible assumption | with_reducible refine fun _ => ?_ | with_reducible apply PortState.signal_keeps | with_reducible apply PortState.ite_ok | (with_reducible apply PortState.ok_host; assumption; rfl; rfl) | (with_reducible apply PortState.ok_same; assumption; rfl; rfl) | (with_reducible apply FarTier.ok_same; assumption; rfl; rfl) | (with_reducible apply CoreCtx.ok_same; assumption; rfl) | split | with_reducible refine Keeps.mk' ?_ ?_ ?_ ?_ ?_)); clear_value x | skip) | (with_reducible apply PortState.ok_same; assumption; rfl; rfl) | (with_reducible apply FarTier.ok_same; assumption; rfl; rfl) | (with_reducible apply CoreCtx.ok_same; assumption; rfl) | split | with_reducible refine Keeps.mk' ?_ ?_ ?_ ?_ ?_

theorem PortState.takeSeq_keeps {ps : PortState} (hps : PortState.ok ps) :
    PortState.ok (PortState.takeSeq ps) := by
  unfold PortState.takeSeq
  with_reducible repeat' first | assumption | refine fun _ => ?_ | (apply PortState.ok_same; assumption; rfl; rfl)

theorem PortState.discard_keeps {ps : PortState} (hps : PortState.ok ps) :
    PortState.ok (PortState.discard ps) := by
  unfold PortState.discard
  with_reducible repeat' first | assumption | refine fun _ => ?_ | (apply PortState.ok_same; assumption; rfl; rfl)

theorem PortState.post_keeps {ps : PortState} {ev : Ev} {gc : W64} (hps : PortState.ok ps) :
    PortState.ok (PortState.post ps ev gc) := by
  unfold PortState.post
  with_reducible repeat' first | assumption | refine fun _ => ?_ | apply PortState.takeSeq_keeps | apply PortState.writeEvent_keeps | apply PortState.discard_keeps | apply PortState.ite_ok | (apply PortState.ok_same; assumption; rfl; rfl)

theorem PortState.drain_keeps {l : List HeldEv} : ∀ {ps : PortState}, ps.ok → (PortState.drain l ps).ok := by
  induction l with
  | nil => exact fun h => h
  | cons e r ih =>
    intro ps h
    unfold PortState.drain
    split
    · exact ih (PortState.writeEvent_keeps h)
    · exact h

theorem PortState.flush_keeps {ps : PortState} {gc : W64} (hs : ps.ok) : (ps.flush gc).ok := by
  unfold PortState.flush
  have hd := PortState.drain_keeps (l := ps.held) hs
  lift_lets
  intro d
  split
  · exact PortState.post_keeps hd
  · exact hd

theorem postTo_keeps {s0 s : State} {p : Port} {ev : Ev} (hs : Keeps s0 s) :
    Keeps s0 (postTo s p ev) := by
  unfold postTo
  with_reducible repeat' first | assumption | refine fun _ => ?_ | apply State.updPort_keeps | apply PortState.post_keeps | apply Keeps.ite

theorem postBoth_keeps {s0 s : State} {ev : Ev} (hs : Keeps s0 s) :
    Keeps s0 (postBoth s ev) := by
  unfold postBoth
  with_reducible repeat' first | assumption | refine fun _ => ?_ | apply postTo_keeps | apply Keeps.ite

theorem PortState.giveUp_keeps {ps : PortState} {n : Nat} {gc : W64} (hps : PortState.ok ps) :
    PortState.ok (PortState.giveUp ps n gc) := by
  unfold PortState.giveUp
  with_reducible repeat' first | assumption | refine fun _ => ?_ | apply PortState.post_keeps | apply PortState.ite_ok | (apply PortState.ok_same; assumption; rfl; rfl)

theorem flushPort_keeps {s0 s : State} {p : Port} (hs : Keeps s0 s) :
    Keeps s0 (flushPort s p) := by
  unfold flushPort
  with_reducible repeat' first | assumption | refine fun _ => ?_ | apply State.updPort_keeps | apply PortState.flush_keeps

theorem setErr_keeps {s0 s : State} {cls : Nat} (hs : Keeps s0 s) :
    Keeps s0 (setErr s cls) := by
  unfold setErr
  repeat' first | assumption | refine fun _ => ?_ | split

theorem countCorrStack_keeps {s0 s : State} {n : Nat} (hs : Keeps s0 s) :
    Keeps s0 (countCorrStack s n) := by
  unfold countCorrStack
  repeat' first | assumption | refine fun _ => ?_ | apply State.updDev_keeps | split

theorem countResent_keeps {s0 s : State} {n : Nat} (hs : Keeps s0 s) :
    Keeps s0 (countResent s n) := by
  unfold countResent
  with_reducible repeat' first | assumption | refine fun _ => ?_ | apply State.updDev_keeps

theorem append_keeps {s0 s : State} {kind : Nat} {body : List Byte} (hs : Keeps s0 s) :
    Keeps s0 (append s kind body) := by
  unfold append
  with_reducible repeat' first | assumption | refine fun _ => ?_ | apply State.updRecord_keeps | apply Keeps.ite

theorem noteFault_keeps {s0 s : State} {cls : Nat} {unit : Nat} {job : optParam Nat 65535} {arg : optParam Nat 0} (hs : Keeps s0 s) :
    Keeps s0 (noteFault s cls unit job arg) := by
  unfold noteFault
  with_reducible repeat' first | assumption | refine fun _ => ?_ | apply append_keeps | apply setErr_keeps

theorem noteRepair_keeps {s0 s : State} {action : Nat} {unit : Nat} {status : Nat} (hs : Keeps s0 s) :
    Keeps s0 (noteRepair s action unit status) := by
  unfold noteRepair
  with_reducible repeat' first | assumption | refine fun _ => ?_ | apply append_keeps

theorem updLife_keeps {s0 s : State} {f : Lifetime → Lifetime} (hs : Keeps s0 s) :
    Keeps s0 (updLife s f) := by
  unfold updLife
  with_reducible repeat' first | assumption | refine fun _ => ?_ | apply State.updRecord_keeps

theorem refreshState_keeps {s0 s : State} (hs : Keeps s0 s) :
    Keeps s0 (refreshState s) := by
  unfold refreshState
  with_reducible repeat' first | assumption | refine fun _ => ?_ | apply postBoth_keeps | apply State.updDev_keeps | apply Keeps.ite

theorem noteExhausted_keeps {s0 s : State} {d : Nat} (hs : Keeps s0 s) :
    Keeps s0 (noteExhausted s d) := by
  unfold noteExhausted
  with_reducible repeat' first | assumption | refine fun _ => ?_ | apply postBoth_keeps | apply Keeps.ite

theorem updJob_keeps {s0 s : State} {id : Nat} {f : Job → Job} (hs : Keeps s0 s) :
    Keeps s0 (updJob s id f) := by
  unfold updJob
  with_reducible repeat' first | assumption | refine fun _ => ?_ | apply State.updTab_keeps

theorem updQueue_keeps {s0 s : State} {n : Nat} {f : Queue → Queue} (hs : Keeps s0 s) :
    Keeps s0 (updQueue s n f) := by
  unfold updQueue
  with_reducible repeat' first | assumption | refine fun _ => ?_ | apply State.updTab_keeps

theorem countCause_keeps {s0 s : State} {job : Nat} {cause : Nat} (hs : Keeps s0 s) :
    Keeps s0 (countCause s job cause) := by
  unfold countCause
  with_reducible repeat' first | assumption | refine fun _ => ?_ | apply updJob_keeps | apply Keeps.ite

theorem takeFree_keeps {s0 s : State} (hs : Keeps s0 s) :
    Keeps s0 (takeFree s).2 := by
  unfold takeFree
  repeat' first | assumption | refine fun _ => ?_ | split

/-! Machine/Links. -/

theorem State.updWorgon_keeps {s0 s : State} {k : Nat} {f : Worgon → Worgon} (hs : Keeps s0 s) :
    Keeps s0 (State.updWorgon s k f) := by
  unfold State.updWorgon
  with_reducible repeat' first | assumption | refine fun _ => ?_ | apply State.updFab_keeps

theorem transmit_keeps {s0 s : State} {k : Nat} {cls : Nat} {bytes : List Byte} (hs : Keeps s0 s) :
    Keeps s0 (transmit s k cls bytes) := by
  unfold transmit
  with_reducible repeat' first | assumption | refine fun _ => ?_ | apply State.updWorgon_keeps

theorem sendTo_keeps {s0 s : State} {dev : Nat} {cls : Nat} {bytes : List Byte} (hs : Keeps s0 s) :
    Keeps s0 (sendTo s dev cls bytes) := by
  unfold sendTo
  with_reducible repeat' first | assumption | refine fun _ => ?_ | apply transmit_keeps | split

theorem shiftLink_keeps {s0 s : State} {k : Nat} {j : Nat} (hs : Keeps s0 s) :
    Keeps s0 (shiftLink s k j) := by
  unfold shiftLink
  with_reducible repeat' first | assumption | refine fun _ => ?_ | apply State.updWorgon_keeps | apply noteRepair_keeps | apply countResent_keeps

theorem moveLink_keeps {s0 s : State} {k : Nat} (hs : Keeps s0 s) :
    Keeps s0 (moveLink s k) := by
  unfold moveLink
  with_reducible repeat' first | assumption | refine fun _ => ?_ | apply shiftLink_keeps | apply State.updFab_keeps | apply Keeps.ite | split

theorem losePort_keeps {s0 s : State} {k : Nat} (hs : Keeps s0 s) :
    Keeps s0 (losePort s k) := by
  unfold losePort
  with_reducible repeat' first | assumption | refine fun _ => ?_ | apply moveLink_keeps | apply noteFault_keeps | apply State.updWorgon_keeps

theorem loseWorgonLane_keeps {s0 s : State} {k : Nat} {l : Nat} (hs : Keeps s0 s) :
    Keeps s0 (loseWorgonLane s k l) := by
  unfold loseWorgonLane
  with_reducible repeat' first | assumption | refine fun _ => ?_ | apply noteFault_keeps | apply noteRepair_keeps | apply updLife_keeps | apply State.updWorgon_keeps | apply losePort_keeps | apply Keeps.ite

theorem execLinkLaneFail_keeps {s0 : State} {k : Fin 12} {lane : Nat} {s : State} (hs : Keeps s0 s) :
    KeepsR s0 (execLinkLaneFail k lane s) := by
  unfold execLinkLaneFail
  with_reducible repeat' first | assumption | refine fun _ => ?_ | apply loseWorgonLane_keeps | apply State.updWorgon_keeps | apply KeepsR.ite | apply Keeps.ite | apply KeepsR.next | exact KeepsR.fault

theorem execLaneRetrainDone_keeps {s0 : State} {k : Fin 12} {pass : Bool} {s : State} (hs : Keeps s0 s) :
    KeepsR s0 (execLaneRetrainDone k pass s) := by
  unfold execLaneRetrainDone
  with_reducible repeat' first | assumption | refine fun _ => ?_ | apply State.updWorgon_keeps | apply KeepsR.ite | apply Keeps.ite | apply KeepsR.next | exact KeepsR.fault | split

theorem askImage_keeps {s0 s : State} {k : Nat} (hs : Keeps s0 s) :
    Keeps s0 (askImage s k) := by
  unfold askImage
  with_reducible repeat' first | assumption | refine fun _ => ?_ | apply transmit_keeps | apply Keeps.ite

theorem execWorgonPortTrained_keeps {s0 : State} {k : Fin 12} {s : State} (hs : Keeps s0 s) :
    KeepsR s0 (execWorgonPortTrained k s) := by
  unfold execWorgonPortTrained
  with_reducible repeat' first | assumption | refine fun _ => ?_ | apply State.updWorgon_keeps | apply askImage_keeps | apply State.updFab_keeps | apply moveLink_keeps | apply KeepsR.ite | apply Keeps.ite | apply KeepsR.next | exact KeepsR.fault | split

theorem dropFlit_keeps {s0 s : State} {k : Nat} (hs : Keeps s0 s) :
    Keeps s0 (dropFlit s k) := by
  unfold dropFlit
  with_reducible repeat' first | assumption | refine fun _ => ?_ | apply State.updWorgon_keeps | apply setErr_keeps | apply Keeps.ite

/-! Machine/Far. -/

theorem FarTier.setGroup_keeps {f : FarTier} {g : Nat} {v : FarGroup} (hf : FarTier.ok f) :
    FarTier.ok (FarTier.setGroup f g v) := by
  unfold FarTier.setGroup
  with_reducible repeat' first | assumption | refine fun _ => ?_ | apply FarTier.ite_ok | (apply FarTier.ok_same; assumption; rfl; rfl)

theorem FarTier.setTag_keeps {f : FarTier} {b : Nat} {t : BlockTag} (hf : FarTier.ok f) :
    FarTier.ok (FarTier.setTag f b t) := by
  unfold FarTier.setTag
  with_reducible repeat' first | assumption | refine fun _ => ?_ | (apply FarTier.ok_same; assumption; rfl; rfl)

theorem FarTier.addParity_keeps {f : FarTier} {addr : Nat} {delta : List Byte} (hf : FarTier.ok f) :
    FarTier.ok (FarTier.addParity f addr delta) := by
  unfold FarTier.addParity
  repeat' first | with_reducible assumption | with_reducible refine fun _ => ?_ | with_reducible apply FarTier.ite_ok | (with_reducible apply FarTier.ok_parity; assumption; rfl; rfl) | ((first | lift_lets | skip); intro x; first | (have hx : FarTier.ok x := by (simp only [x]; repeat' first | with_reducible assumption | with_reducible refine fun _ => ?_ | with_reducible apply FarTier.ite_ok | (with_reducible apply FarTier.ok_parity; assumption; rfl; rfl) | (with_reducible apply PortState.ok_same; assumption; rfl; rfl) | (with_reducible apply FarTier.ok_same; assumption; rfl; rfl) | (with_reducible apply CoreCtx.ok_same; assumption; rfl) | split | with_reducible refine Keeps.mk' ?_ ?_ ?_ ?_ ?_)); clear_value x | skip) | (with_reducible apply PortState.ok_same; assumption; rfl; rfl) | (with_reducible apply FarTier.ok_same; assumption; rfl; rfl) | (with_reducible apply CoreCtx.ok_same; assumption; rfl) | split | with_reducible refine Keeps.mk' ?_ ?_ ?_ ?_ ?_

theorem FarTier.settled_keeps {f : FarTier} (hf : FarTier.ok f) :
    FarTier.ok (FarTier.settled f) := by
  unfold FarTier.settled
  with_reducible repeat' first | assumption | refine fun _ => ?_ | apply FarTier.addParity_keeps | apply FarTier.foldl_ok | apply Keeps.foldl | apply CoreCtx.foldl_ok | (apply FarTier.ok_same; assumption; rfl; rfl)

theorem postLoss_keeps {s0 s : State} {job : Nat} {addr : Nat} (hs : Keeps s0 s) :
    Keeps s0 (postLoss s job addr) := by
  unfold postLoss
  with_reducible repeat' first | assumption | refine fun _ => ?_ | apply State.updDev_keeps | apply updJob_keeps | apply updLife_keeps | apply append_keeps | apply setErr_keeps | apply postBoth_keeps

theorem loseBlock_keeps {s0 s : State} {b : Nat} (hs : Keeps s0 s) :
    Keeps s0 (loseBlock s b) := by
  unfold loseBlock
  with_reducible repeat' first | assumption | refine fun _ => ?_ | apply State.updFar_keeps | apply FarTier.setTag_keeps | apply postLoss_keeps | ((first | lift_lets | skip); intro x; first | (have hx : Keeps s0 x := by (simp only [x]; repeat' first | assumption | refine fun _ => ?_ | apply State.updFar_keeps | apply FarTier.setTag_keeps | apply postLoss_keeps | split)); clear_value x | skip) | split

theorem retest_keeps {f : FarTier} {lo : Nat} {hi : Nat} (hf : FarTier.ok f) :
    FarTier.ok (retest f lo hi) := by
  unfold retest
  with_reducible repeat' first | assumption | refine fun _ => ?_ | apply FarTier.ite_ok | (apply FarTier.ok_same; assumption; rfl; rfl)

theorem putBlock_keeps {s0 s : State} {b : Nat} {data : List Byte} {tag : BlockTag} (hs : Keeps s0 s) :
    Keeps s0 (putBlock s b data tag) := by
  unfold putBlock
  repeat' first | with_reducible assumption | with_reducible refine fun _ => ?_ | with_reducible apply loseBlock_keeps | with_reducible apply State.updFar_keeps | with_reducible apply FarTier.addParity_keeps | with_reducible apply retest_keeps | with_reducible apply FarTier.setTag_keeps | with_reducible apply Keeps.ite | (with_reducible apply FarTier.ok_mem; assumption; rfl; rfl) | ((first | lift_lets | skip); intro x; first | (have hx : Keeps s0 x := by (simp only [x]; repeat' first | with_reducible assumption | with_reducible refine fun _ => ?_ | with_reducible apply loseBlock_keeps | with_reducible apply State.updFar_keeps | with_reducible apply FarTier.addParity_keeps | with_reducible apply retest_keeps | with_reducible apply FarTier.setTag_keeps | with_reducible apply Keeps.ite | (with_reducible apply FarTier.ok_mem; assumption; rfl; rfl) | (with_reducible apply PortState.ok_same; assumption; rfl; rfl) | (with_reducible apply FarTier.ok_same; assumption; rfl; rfl) | (with_reducible apply CoreCtx.ok_same; assumption; rfl) | split | with_reducible refine Keeps.mk' ?_ ?_ ?_ ?_ ?_)); clear_value x | (have hx : FarTier.ok x := by (simp only [x]; repeat' first | with_reducible assumption | with_reducible refine fun _ => ?_ | with_reducible apply loseBlock_keeps | with_reducible apply State.updFar_keeps | with_reducible apply FarTier.addParity_keeps | with_reducible apply retest_keeps | with_reducible apply FarTier.setTag_keeps | with_reducible apply Keeps.ite | (with_reducible apply FarTier.ok_mem; assumption; rfl; rfl) | (with_reducible apply PortState.ok_same; assumption; rfl; rfl) | (with_reducible apply FarTier.ok_same; assumption; rfl; rfl) | (with_reducible apply CoreCtx.ok_same; assumption; rfl) | split | with_reducible refine Keeps.mk' ?_ ?_ ?_ ?_ ?_)); clear_value x | skip) | (with_reducible apply PortState.ok_same; assumption; rfl; rfl) | (with_reducible apply FarTier.ok_same; assumption; rfl; rfl) | (with_reducible apply CoreCtx.ok_same; assumption; rfl) | split | with_reducible refine Keeps.mk' ?_ ?_ ?_ ?_ ?_

theorem deviceWriteBlock_keeps {s0 s : State} {b : Nat} {off : Nat} {bs : List Byte} (hs : Keeps s0 s) :
    Keeps s0 (deviceWriteBlock s b off bs) := by
  unfold deviceWriteBlock
  with_reducible repeat' first | assumption | refine fun _ => ?_ | apply putBlock_keeps

theorem State.updStack_keeps {s0 s : State} {k : Nat} {f : StackState → StackState} (hs : Keeps s0 s) :
    Keeps s0 (State.updStack s k f) := by
  unfold State.updStack
  with_reducible repeat' first | assumption | refine fun _ => ?_ | apply State.updFar_keeps | (apply FarTier.ok_same; assumption; rfl; rfl)

theorem dieTraffic_keeps {s0 s : State} {d : Nat} (hs : Keeps s0 s) :
    Keeps s0 (dieTraffic s d) := by
  unfold dieTraffic
  with_reducible repeat' first | assumption | refine fun _ => ?_ | apply State.updDie_keeps

theorem touchStack_keeps {s0 s : State} {k : Nat} (hs : Keeps s0 s) :
    Keeps s0 (touchStack s k) := by
  unfold touchStack
  with_reducible repeat' first | assumption | refine fun _ => ?_ | apply State.updStack_keeps | apply dieTraffic_keeps | apply Keeps.ite

theorem touchBlocks_keeps {s0 s : State} {write : Bool} {bs : List Nat} (hs : Keeps s0 s) :
    Keeps s0 (touchBlocks s write bs) := by
  unfold touchBlocks
  with_reducible repeat' first | assumption | refine fun _ => ?_ | apply touchStack_keeps | apply Keeps.foldl | apply FarTier.foldl_ok | apply CoreCtx.foldl_ok

theorem touchRead_keeps {s0 s : State} {addr : Nat} {len : Nat} (hs : Keeps s0 s) :
    Keeps s0 (touchRead s addr len) := by
  unfold touchRead
  with_reducible repeat' first | assumption | refine fun _ => ?_ | apply touchBlocks_keeps

theorem touchFar_keeps {s0 s : State} {addr : Nat} (hs : Keeps s0 s) :
    Keeps s0 (touchFar s addr) := by
  unfold touchFar
  with_reducible repeat' first | assumption | refine fun _ => ?_ | apply touchBlocks_keeps

theorem raceWith_keeps {s0 s : State} {w : Nat × Nat × Nat} (hs : Keeps s0 s) :
    Keeps s0 (raceWith s w) := by
  unfold raceWith
  with_reducible repeat' first | assumption | refine fun _ => ?_ | apply State.updTab_keeps | apply Keeps.ite

theorem raceWhere_keeps {s0 s : State} {p : Cmd → Bool} (hs : Keeps s0 s) : Keeps s0 (raceWhere s p) := by
  unfold raceWhere
  exact State.updTab_keeps hs

theorem raceRead_keeps {s0 s : State} {w : Nat × Nat} (hs : Keeps s0 s) : Keeps s0 (raceRead s w) := raceWhere_keeps hs

theorem raceWord_keeps {s0 s : State} {a : Nat} {adds : Bool} (hs : Keeps s0 s) : Keeps s0 (raceWord s a adds) := raceWhere_keeps hs

theorem hostWriteBlock_keeps {s0 s : State} {b : Nat} {off : Nat} {bs : List Byte} (hs : Keeps s0 s) :
    Keeps s0 (hostWriteBlock s b off bs) := by
  unfold hostWriteBlock
  with_reducible repeat' first | assumption | refine fun _ => ?_ | apply putBlock_keeps | apply raceWith_keeps

theorem deviceWrite_keeps {s0 s : State} {addr : Nat} {bs : List Byte} (hs : Keeps s0 s) :
    Keeps s0 (deviceWrite s addr bs) := by
  unfold deviceWrite
  with_reducible repeat' first | assumption | refine fun _ => ?_ | apply deviceWriteBlock_keeps | apply touchBlocks_keeps | apply Keeps.foldl | apply FarTier.foldl_ok | apply CoreCtx.foldl_ok

theorem farHostWrite_keeps {s0 s : State} {addr : Nat} {bs : List Byte} (hs : Keeps s0 s) :
    Keeps s0 (farHostWrite s addr bs) := by
  unfold farHostWrite
  with_reducible repeat' first | assumption | refine fun _ => ?_ | apply hostWriteBlock_keeps | apply touchBlocks_keeps | apply Keeps.foldl | apply FarTier.foldl_ok | apply CoreCtx.foldl_ok

theorem restoreBlock_keeps {s0 s : State} {b : Nat} {data : List Byte} (hs : Keeps s0 s) :
    Keeps s0 (restoreBlock s b data) := by
  unfold restoreBlock
  with_reducible repeat' first | assumption | refine fun _ => ?_ | apply putBlock_keeps

theorem repairFar_keeps {s0 s : State} {b : Nat} (hs : Keeps s0 s) :
    Keeps s0 (repairFar s b) := by
  unfold repairFar
  with_reducible repeat' first | assumption | refine fun _ => ?_ | apply noteFault_keeps | apply restoreBlock_keeps | apply loseBlock_keeps | apply Keeps.ite | ((first | lift_lets | skip); intro x; first | (have hx : Keeps s0 x := by (simp only [x]; repeat' first | assumption | refine fun _ => ?_ | apply noteFault_keeps | apply restoreBlock_keeps | apply loseBlock_keeps | apply Keeps.ite | split)); clear_value x | skip) | split

theorem clearTags_keeps {f : FarTier} {ext : Nat} (hf : FarTier.ok f) :
    FarTier.ok (clearTags f ext) := by
  unfold clearTags
  with_reducible repeat' first | assumption | refine fun _ => ?_ | (apply FarTier.ok_same; assumption; rfl; rfl)

/-! Machine/Scratch. -/

theorem Memory.foldlWrite_wf {α : Type} {f : α → Nat} {g : α → List Byte} (l : List α) : ∀ {m : Memory}, m.wf = true →
    Memory.wf (l.foldl (fun m r => memWriteN m (f r) (g r)) m) = true := by
  induction l with
  | nil => exact fun h => h
  | cons x r ih => exact fun h => ih (memWriteN_wf _ _ h)

theorem CoreCtx.store_keeps {c : CoreCtx} {runs : List (Nat × List Byte)} (hc : c.ok) : (c.store runs).ok := by
  unfold CoreCtx.store
  refine CoreCtx.foldl_ok ?_ (fun u x hu => ?_)
  · exact Memory.foldlWrite_wf _ hc
  · refine CoreCtx.ite_ok ?_ ?_
    · exact CoreCtx.ok_same hu rfl
    · exact CoreCtx.ok_same hu rfl

theorem State.storeScratch_keeps {s0 s : State} {core : Nat} {runs : List (Nat × List Byte)} (hs : Keeps s0 s) :
    Keeps s0 (State.storeScratch s core runs) := by
  unfold State.storeScratch
  with_reducible repeat' first | assumption | refine fun _ => ?_ | apply State.updCore_keeps | apply CoreCtx.store_keeps | apply Keeps.foldl | apply FarTier.foldl_ok | apply CoreCtx.foldl_ok

theorem writeAnywhere_keeps {s0 s : State} {a : Nat} {bs : List Byte} (hs : Keeps s0 s) :
    Keeps s0 (writeAnywhere s a bs) := by
  unfold writeAnywhere
  with_reducible repeat' first | assumption | refine fun _ => ?_ | apply State.storeScratch_keeps | apply deviceWrite_keeps | apply Keeps.ite

/-! Machine/Mailbox. -/

theorem setMailbox_keeps {s0 s : State} {p : Port} {box : Nat} {m : Mailbox} (hs : Keeps s0 s) :
    Keeps s0 (setMailbox s p box m) := by
  unfold setMailbox
  with_reducible repeat' first | assumption | refine fun _ => ?_ | apply State.updPort_keeps | (apply PortState.ok_same; assumption; rfl; rfl)

theorem sendBack_keeps {s0 s : State} {cls : Nat} {bytes : List Byte} (hs : Keeps s0 s) :
    Keeps s0 (sendBack s cls bytes) := by
  unfold sendBack
  with_reducible repeat' first | assumption | refine fun _ => ?_ | apply sendTo_keeps | apply Keeps.ite

theorem respondAs_keeps {s0 s : State} {code : Nat} {rq : MbxReq} {status : Nat} {detail : Nat} {body : List Byte} (hs : Keeps s0 s) :
    Keeps s0 (respondAs s code rq status detail body) := by
  unfold respondAs
  with_reducible repeat' first | assumption | refine fun _ => ?_ | apply setMailbox_keeps | apply sendBack_keeps | apply postTo_keeps | apply Keeps.ite

theorem respondTo_keeps {s0 s : State} {p : Port} {box : Nat} {status : Nat} {detail : Nat} {body : List Byte} (hs : Keeps s0 s) :
    Keeps s0 (respondTo s p box status detail body) := by
  unfold respondTo
  with_reducible repeat' first | assumption | refine fun _ => ?_ | apply respondAs_keeps | apply Keeps.ite | split

theorem Reply.ok_keeps {s0 s : State} (hs : Keeps s0 s) :
    KeepsReply s0 (Reply.ok s) := by
  unfold Reply.ok
  with_reducible repeat' first | assumption | refine fun _ => ?_ | apply KeepsReply.done | apply KeepsReply.stay

theorem Reply.okWith_keeps {s0 s : State} {body : List Byte} (hs : Keeps s0 s) :
    KeepsReply s0 (Reply.okWith s body) := by
  unfold Reply.okWith
  with_reducible repeat' first | assumption | refine fun _ => ?_ | apply KeepsReply.done | apply KeepsReply.stay

theorem ring_keeps {s0 s : State} {code : Nat} {rq : MbxReq} (hs : Keeps s0 s) :
    KeepsO s0 (ring s code rq) := by
  unfold ring
  with_reducible repeat' first | assumption | refine fun _ => ?_ | apply State.updDev_keeps | apply setMailbox_keeps | apply KeepsO.ite | apply Keeps.ite | apply KeepsO.some | exact KeepsO.none | ((first | lift_lets | skip); intro x; first | (have hx : Keeps s0 x := by (simp only [x]; repeat' first | assumption | refine fun _ => ?_ | apply State.updDev_keeps | apply setMailbox_keeps | apply KeepsO.ite | apply Keeps.ite | apply KeepsO.some | exact KeepsO.none | split)); clear_value x | skip) | split

theorem take_keeps {s0 s : State} {code : Nat} {rq : MbxReq} (hs : Keeps s0 s) :
    KeepsO s0 (take s code rq) := by
  unfold take
  with_reducible repeat' first | assumption | refine fun _ => ?_ | apply setMailbox_keeps | apply State.updDev_keeps | apply KeepsO.ite | apply Keeps.ite | apply KeepsO.some | exact KeepsO.none | split

theorem mailbox_keeps {s0 s : State} {spec : CmdSpec} {rq : MbxReq} {handler : State → List Byte → Reply} (hs : Keeps s0 s)
    (hh : ∀ u b, Keeps s0 u → KeepsReply s0 (handler u b)) : KeepsR s0 (mailbox s spec rq handler) := by
  unfold mailbox
  split
  · exact KeepsR.fault
  split
  · exact KeepsR.next hs
  split
  · exact KeepsR.next hs
  · have hr := Keeps.ofO (by assumption) (ring_keeps hs)
    split
    · exact KeepsR.next hr
    split
    · exact KeepsR.next hr
    · have ht := Keeps.ofO (by assumption) (take_keeps hr)
      split
      · exact KeepsR.next (respondAs_keeps ht)
      · have hk := hh _ (bodyOf rq) ht
        split
        · exact KeepsR.next (respondAs_keeps (Keeps.ofDone (by assumption) hk))
        · exact KeepsR.next (Keeps.ofStay (by assumption) hk)

theorem Reply.fail_keeps {s0 s : State} {status : Nat} {detail : optParam Nat 0} (hs : Keeps s0 s) :
    KeepsReply s0 (Reply.fail s status detail) := by
  unfold Reply.fail
  with_reducible repeat' first | assumption | refine fun _ => ?_ | apply KeepsReply.done | apply KeepsReply.stay

/-! Machine/QueueOps. -/

theorem freeBytes_keeps {s0 s : State} {n : Nat} (hs : Keeps s0 s) :
    Keeps s0 (freeBytes s n).2 := by
  unfold freeBytes
  repeat' first | assumption | refine fun _ => ?_ | split

theorem readEntry_keeps {s0 s : State} {q : Queue} {pos : Nat} (hs : Keeps s0 s) :
    Keeps s0 (readEntry s q pos).2 := by
  unfold readEntry
  with_reducible repeat' first | assumption | refine fun _ => ?_ | apply touchRead_keeps | apply freeBytes_keeps | apply Keeps.ite | refine Keeps.ofSnd (by assumption) ?_ | split

theorem fetchN_keeps {s0 : State} {a0 : Nat} {a1 : State} {a2 : Nat} (ha1 : Keeps s0 a1) :
    Keeps s0 (fetchN a0 a1 a2) := by
  induction a0 generalizing a1 with
  | zero => unfold fetchN; exact ha1
  | succ n ih =>
    unfold fetchN
    repeat' first | with_reducible apply ih | with_reducible assumption | with_reducible refine fun _ => ?_ | with_reducible apply readEntry_keeps | with_reducible apply updQueue_keeps | with_reducible refine Keeps.ofSnd (by assumption) ?_ | ((first | lift_lets | skip); intro x; first | (have hx : Keeps s0 x := by (simp only [x]; repeat' first | with_reducible assumption | with_reducible refine fun _ => ?_ | with_reducible apply readEntry_keeps | with_reducible apply updQueue_keeps | with_reducible refine Keeps.ofSnd (by assumption) ?_ | (with_reducible apply PortState.ok_same; assumption; rfl; rfl) | (with_reducible apply FarTier.ok_same; assumption; rfl; rfl) | (with_reducible apply CoreCtx.ok_same; assumption; rfl) | split | with_reducible refine Keeps.mk' ?_ ?_ ?_ ?_ ?_)); clear_value x | skip) | (with_reducible apply PortState.ok_same; assumption; rfl; rfl) | (with_reducible apply FarTier.ok_same; assumption; rfl; rfl) | (with_reducible apply CoreCtx.ok_same; assumption; rfl) | split | with_reducible refine Keeps.mk' ?_ ?_ ?_ ?_ ?_

theorem fetchAll_keeps {s0 s : State} {num : Nat} (hs : Keeps s0 s) :
    Keeps s0 (fetchAll s num) := by
  unfold fetchAll
  with_reducible repeat' first | assumption | refine fun _ => ?_ | apply fetchN_keeps | apply Keeps.ite | split

theorem doorbellRefused_keeps {s0 s : State} {p : Port} {num : Nat} {value : W64} (hs : Keeps s0 s) :
    Keeps s0 (doorbellRefused s p num value) := by
  unfold doorbellRefused
  with_reducible repeat' first | assumption | refine fun _ => ?_ | apply postTo_keeps

theorem ringQueue_keeps {s0 s : State} {home : Home} {port : Port} {num : Nat} {value : W64} (hs : Keeps s0 s) :
    Keeps s0 (ringQueue s home port num value) := by
  unfold ringQueue
  with_reducible repeat' first | assumption | refine fun _ => ?_ | apply doorbellRefused_keeps | apply fetchAll_keeps | apply updQueue_keeps | apply Keeps.ite | split

theorem doorbell_keeps {s0 s : State} {p : Port} {num : Nat} {value : W64} (hs : Keeps s0 s) :
    KeepsR s0 (doorbell s p num value) := by
  unfold doorbell
  with_reducible repeat' first | assumption | refine fun _ => ?_ | apply State.updDev_keeps | apply ringQueue_keeps | apply KeepsR.ite | apply Keeps.ite | apply KeepsR.next | exact KeepsR.fault

theorem putRecord_keeps {s0 s : State} {q : Queue} {pos : Nat} {bytes : List Byte} (hs : Keeps s0 s) :
    Keeps s0 (putRecord s q pos bytes) := by
  unfold putRecord
  with_reducible repeat' first | assumption | refine fun _ => ?_ | apply deviceWrite_keeps | apply hostWrite_keeps | apply Keeps.ite | split

theorem writeRecord_keeps {s0 s : State} {q : Queue} {c : Cmd} (hs : Keeps s0 s) :
    Keeps s0 (writeRecord s q c) := by
  unfold writeRecord
  with_reducible repeat' first | assumption | refine fun _ => ?_ | apply putRecord_keeps | apply updQueue_keeps | apply State.updPort_keeps | apply PortState.signal_keeps | apply Keeps.ite | split

theorem rewriteRecords_keeps {s0 s : State} {q : Queue} (hs : Keeps s0 s) :
    Keeps s0 (rewriteRecords s q) := by
  unfold rewriteRecords
  with_reducible repeat' first | assumption | refine fun _ => ?_ | apply putRecord_keeps | apply Keeps.foldl | apply FarTier.foldl_ok | apply CoreCtx.foldl_ok | apply Keeps.ite

theorem updCmd_keeps {s0 s : State} {num : Nat} {p : Cmd → Bool} {f : Cmd → Cmd} (hs : Keeps s0 s) :
    Keeps s0 (updCmd s num p f) := by
  unfold updCmd
  with_reducible repeat' first | assumption | refine fun _ => ?_ | apply updQueue_keeps

theorem finish_keeps {s0 s : State} {num : Nat} {serial : Nat} {status : Nat} {detail : Nat} (hs : Keeps s0 s) :
    Keeps s0 (finish s num serial status detail) := by
  unfold finish
  with_reducible repeat' first | assumption | refine fun _ => ?_ | apply updQueue_keeps | apply updCmd_keeps

/-! Machine/Pairs. -/

theorem diverge_keeps {s0 s : State} {job : Nat} {arg1 : Nat} (hs : Keeps s0 s) :
    Keeps s0 (diverge s job arg1) := by
  unfold diverge
  with_reducible repeat' first | assumption | refine fun _ => ?_ | apply postBoth_keeps | apply updJob_keeps

theorem releaseCompared_keeps {s0 s : State} {job : Nat} {own : List CmpRec} (hs : Keeps s0 s) :
    Keeps s0 (releaseCompared s job own) := by
  unfold releaseCompared
  with_reducible repeat' first | assumption | refine fun _ => ?_ | apply State.updTab_keeps

theorem settlePair_keeps {s0 s : State} {job : Nat} (hs : Keeps s0 s) :
    Keeps s0 (settlePair s job) := by
  unfold settlePair
  with_reducible repeat' first | assumption | refine fun _ => ?_ | apply updJob_keeps | apply diverge_keeps | apply releaseCompared_keeps | apply Keeps.ite | split

theorem beginPairing_keeps {s0 s : State} {job : Nat} (hs : Keeps s0 s) :
    Keeps s0 (beginPairing s job) := by
  unfold beginPairing
  with_reducible repeat' first | assumption | refine fun _ => ?_ | apply updJob_keeps

theorem dropPairing_keeps {s0 s : State} {job : Nat} (hs : Keeps s0 s) :
    Keeps s0 (dropPairing s job) := by
  unfold dropPairing
  with_reducible repeat' first | assumption | refine fun _ => ?_ | apply releaseCompared_keeps | apply updJob_keeps

theorem sendRecords_keeps {s0 s : State} {num : Nat} {j : Job} {c : Cmd} (hs : Keeps s0 s) :
    Keeps s0 (sendRecords s num j c) := by
  unfold sendRecords
  with_reducible repeat' first | assumption | refine fun _ => ?_ | apply updJob_keeps | apply updCmd_keeps | apply settlePair_keeps | apply transmit_keeps | apply Keeps.foldl | apply FarTier.foldl_ok | apply CoreCtx.foldl_ok | apply Keeps.ite | split

theorem endCmd_keeps {s0 s : State} {num : Nat} {serial : Nat} {status : Nat} {detail : Nat} (hs : Keeps s0 s) :
    Keeps s0 (endCmd s num serial status detail) := by
  unfold endCmd
  with_reducible repeat' first | assumption | refine fun _ => ?_ | apply finish_keeps | apply sendRecords_keeps | ((first | lift_lets | skip); intro x; first | (have hx : Keeps s0 x := by (simp only [x]; repeat' first | assumption | refine fun _ => ?_ | apply finish_keeps | apply sendRecords_keeps | split)); clear_value x | skip) | split

/-! Machine/Cores. -/

theorem retirePhys_keeps {s0 s : State} {p : Nat} (hs : Keeps s0 s) :
    Keeps s0 (retirePhys s p) := by
  unfold retirePhys
  with_reducible repeat' first | assumption | refine fun _ => ?_ | apply State.updPhys_keeps | apply State.updTab_keeps | apply updLife_keeps | apply noteRepair_keeps | apply Keeps.ite

theorem seatSpare_keeps {s0 s : State} {p : Nat} {c : Nat} (hs : Keeps s0 s) :
    Keeps s0 (seatSpare s p c) := by
  unfold seatSpare
  with_reducible repeat' first | assumption | refine fun _ => ?_ | apply State.updPhys_keeps

theorem heldStep_keeps {s0 s : State} (hs : Keeps s0 s) :
    Keeps s0 (heldStep s).2 := by
  unfold heldStep
  with_reducible repeat' first | assumption | refine fun _ => ?_ | apply State.updDev_keeps | apply Keeps.ite

theorem endRetire_keeps {s0 s : State} {p : Nat} (hs : Keeps s0 s) :
    Keeps s0 (endRetire s p) := by
  unfold endRetire
  with_reducible repeat' first | assumption | refine fun _ => ?_ | apply State.updDev_keeps

theorem moveCore_keeps {s0 s : State} {p : Nat} {c : Nat} {port : Port} {box : Nat} (hs : Keeps s0 s) :
    Keeps s0 (moveCore s p c port box) := by
  unfold moveCore
  with_reducible repeat' first | assumption | refine fun _ => ?_ | apply endRetire_keeps | apply respondTo_keeps | apply heldStep_keeps | apply State.updPhys_keeps | apply seatSpare_keeps | apply retirePhys_keeps | apply noteExhausted_keeps | apply refreshState_keeps | apply Keeps.ite | refine Keeps.ofSnd (by assumption) ?_ | ((first | lift_lets | skip); intro x; first | (have hx : Keeps s0 x := by (simp only [x]; repeat' first | assumption | refine fun _ => ?_ | apply endRetire_keeps | apply respondTo_keeps | apply heldStep_keeps | apply State.updPhys_keeps | apply seatSpare_keeps | apply retirePhys_keeps | apply noteExhausted_keeps | apply refreshState_keeps | apply Keeps.ite | refine Keeps.ofSnd (by assumption) ?_ | split)); clear_value x | skip) | split

theorem settleRetire_keeps {s0 s : State} {c : Nat} (hs : Keeps s0 s) :
    Keeps s0 (settleRetire s c) := by
  unfold settleRetire
  with_reducible repeat' first | assumption | refine fun _ => ?_ | apply moveCore_keeps | apply Keeps.ite | split

theorem settleRetires_keeps {s0 s : State} (hs : Keeps s0 s) :
    Keeps s0 (settleRetires s) := by
  unfold settleRetires
  with_reducible repeat' first | assumption | refine fun _ => ?_ | apply settleRetire_keeps | apply Keeps.foldl | apply FarTier.foldl_ok | apply CoreCtx.foldl_ok

theorem dropRetire_keeps {s0 s : State} {p : Nat} {cls : Nat} (hs : Keeps s0 s) :
    Keeps s0 (dropRetire s p cls) := by
  unfold dropRetire
  with_reducible repeat' first | assumption | refine fun _ => ?_ | apply respondTo_keeps | apply endRetire_keeps | split

/-! Machine/Registers. -/

theorem ackBoxes_keeps {s0 s : State} {p : Port} {bits : Nat} (hs : Keeps s0 s) :
    Keeps s0 (ackBoxes s p bits) := by
  unfold ackBoxes
  with_reducible repeat' first | assumption | refine fun _ => ?_ | apply setMailbox_keeps | apply Keeps.foldl | apply FarTier.foldl_ok | apply CoreCtx.foldl_ok | apply Keeps.ite

theorem execMbxAck_keeps {s0 : State} {p : Port} {value : W64} {s : State} (hs : Keeps s0 s) :
    KeepsR s0 (execMbxAck p value s) := by
  unfold execMbxAck
  with_reducible repeat' first | assumption | refine fun _ => ?_ | apply ackBoxes_keeps | apply KeepsR.ite | apply Keeps.ite | apply KeepsR.next | exact KeepsR.fault

theorem execSqTail_keeps {s0 : State} {p : Port} {queue : Nat} {value : W64} {s : State} (hs : Keeps s0 s) :
    KeepsR s0 (execSqTail p queue value s) := by
  unfold execSqTail
  with_reducible repeat' first | assumption | refine fun _ => ?_ | apply doorbell_keeps | apply KeepsR.next | exact KeepsR.fault | refine Keeps.ofNext (by assumption) ?_

theorem execCqHead_keeps {s0 : State} {p : Port} {queue : Nat} {value : W64} {s : State} (hs : Keeps s0 s) :
    KeepsR s0 (execCqHead p queue value s) := by
  unfold execCqHead
  with_reducible repeat' first | assumption | refine fun _ => ?_ | apply doorbell_keeps | apply KeepsR.next | exact KeepsR.fault | refine Keeps.ofNext (by assumption) ?_

theorem evtHeadWrite_keeps {s0 s : State} {p : Port} {value : Nat} (hs : Keeps s0 s) :
    Keeps s0 (evtHeadWrite s p value) := by
  unfold evtHeadWrite
  with_reducible repeat' first | assumption | refine fun _ => ?_ | apply flushPort_keeps | apply State.updPort_keeps | apply Keeps.ite | (apply PortState.ok_same; assumption; rfl; rfl)

theorem execEvtHead_keeps {s0 : State} {p : Port} {value : W64} {s : State} (hs : Keeps s0 s) :
    KeepsR s0 (execEvtHead p value s) := by
  unfold execEvtHead
  with_reducible repeat' first | assumption | refine fun _ => ?_ | apply evtHeadWrite_keeps | apply KeepsR.ite | apply Keeps.ite | apply KeepsR.next | exact KeepsR.fault

theorem capWrite_keeps {s0 s : State} {value : Nat} (hs : Keeps s0 s) :
    Keeps s0 (capWrite s value) := by
  unfold capWrite
  with_reducible repeat' first | assumption | refine fun _ => ?_ | apply State.updPwr_keeps

theorem execPwrCap_keeps {s0 : State} {p : Port} {value : W32} {s : State} (hs : Keeps s0 s) :
    KeepsR s0 (execPwrCap p value s) := by
  unfold execPwrCap
  with_reducible repeat' first | assumption | refine fun _ => ?_ | apply capWrite_keeps | apply KeepsR.ite | apply Keeps.ite | apply KeepsR.next | exact KeepsR.fault

theorem execFarWindow_keeps {s0 : State} {p : Port} {value : W64} {s : State} (hs : Keeps s0 s) :
    KeepsR s0 (execFarWindow p value s) := by
  unfold execFarWindow
  with_reducible repeat' first | assumption | refine fun _ => ?_ | apply State.updPort_keeps | apply KeepsR.ite | apply Keeps.ite | apply KeepsR.next | exact KeepsR.fault | (apply PortState.ok_same; assumption; rfl; rfl)

theorem countMiss_keeps {s0 s : State} {p : Port} (hs : Keeps s0 s) :
    Keeps s0 (countMiss s p) := by
  unfold countMiss
  with_reducible repeat' first | assumption | refine fun _ => ?_ | apply State.updPort_keeps | (apply PortState.ok_same; assumption; rfl; rfl)

theorem raceReads_keeps {s0 s : State} {p : Port} {base length : Nat} (hs : Keeps s0 s) :
    Keeps s0 (raceReads s p base length) := by
  unfold raceReads
  refine Keeps.foldl hs fun u q hu => ?_
  split
  · exact raceRead_keeps hu
  · exact hu

theorem execBar2Read_keeps {s0 : State} {p : Port} {offset : Nat} {length : Nat} {s : State} (hs : Keeps s0 s) :
    KeepsR s0 (execBar2Read p offset length s) := by
  unfold execBar2Read
  with_reducible repeat' first | assumption | refine fun _ => ?_ | apply State.updPort_keeps | apply touchBlocks_keeps | apply raceReads_keeps | apply countMiss_keeps | apply KeepsR.ite | apply Keeps.ite | apply KeepsR.next | exact KeepsR.fault | (apply PortState.ok_same; assumption; rfl; rfl)

theorem execBar2Write_keeps {s0 : State} {p : Port} {offset : Nat} {data : List Byte} {s : State} (hs : Keeps s0 s) :
    KeepsR s0 (execBar2Write p offset data s) := by
  unfold execBar2Write
  with_reducible repeat' first | assumption | refine fun _ => ?_ | apply hostWriteBlock_keeps | apply touchBlocks_keeps | apply countMiss_keeps | apply Keeps.foldl | apply FarTier.foldl_ok | apply CoreCtx.foldl_ok | apply KeepsR.ite | apply Keeps.ite | apply KeepsR.next | exact KeepsR.fault

theorem execGcountLowRead_keeps {s0 : State} {p : Port} {s : State} (hs : Keeps s0 s) :
    KeepsR s0 (execGcountLowRead p s) := by
  unfold execGcountLowRead
  with_reducible repeat' first | assumption | refine fun _ => ?_ | apply State.updPort_keeps | apply KeepsR.ite | apply Keeps.ite | apply KeepsR.next | exact KeepsR.fault | (apply PortState.ok_same; assumption; rfl; rfl)

theorem execGcountHighRead_keeps {s0 : State} {p : Port} {s : State} (hs : Keeps s0 s) :
    KeepsR s0 (execGcountHighRead p s) := by
  unfold execGcountHighRead
  with_reducible repeat' first | assumption | refine fun _ => ?_ | apply State.updPort_keeps | apply KeepsR.ite | apply Keeps.ite | apply KeepsR.next | exact KeepsR.fault | (apply PortState.ok_same; assumption; rfl; rfl)

theorem ringBoxes_keeps {s0 s : State} {p : Port} {bits : Nat} (hs : Keeps s0 s) :
    Keeps s0 (ringBoxes s p bits) := by
  unfold ringBoxes
  with_reducible repeat' first | assumption | refine fun _ => ?_ | apply ring_keeps | apply respondAs_keeps | apply Keeps.foldl | apply FarTier.foldl_ok | apply CoreCtx.foldl_ok | apply Keeps.ite | apply Keeps.getD | refine Keeps.ofO (by assumption) ?_

theorem msixWrite_keeps {ps : PortState} {off : Nat} {data : List Byte} (hps : PortState.ok ps) :
    PortState.ok (msixWrite ps off data) := by
  unfold msixWrite
  with_reducible repeat' first | assumption | refine fun _ => ?_ | apply PortState.release_keeps | apply PortState.ite_ok | (apply PortState.ok_same; assumption; rfl; rfl)

theorem evtCtrlWrite_keeps {s0 s : State} {p : Port} {value : Nat} (hs : Keeps s0 s) :
    Keeps s0 (evtCtrlWrite s p value) := by
  unfold evtCtrlWrite
  with_reducible repeat' first | assumption | refine fun _ => ?_ | apply State.updPort_keeps | (apply PortState.ok_same; assumption; rfl; rfl)

theorem bar0Write_keeps {s0 s : State} {p : Port} {offset : Nat} {data : List Byte} (hs : Keeps s0 s) :
    Keeps s0 (bar0Write s p offset data) := by
  unfold bar0Write
  with_reducible repeat' first | assumption | refine fun _ => ?_ | apply State.updHub_keeps | apply ringBoxes_keeps | apply ackBoxes_keeps | apply capWrite_keeps | apply State.updPort_keeps | apply doorbell_keeps | apply doorbellRefused_keeps | apply evtHeadWrite_keeps | apply evtCtrlWrite_keeps | apply msixWrite_keeps | apply Keeps.ite | refine Keeps.ofNext (by assumption) ?_ | split | (apply PortState.ok_same; assumption; rfl; rfl)

theorem bar0Access_keeps {s0 s : State} {p : Port} {offset : Nat} {data : List Byte} (hs : Keeps s0 s) :
    Keeps s0 (bar0Access s p offset data) := by
  unfold bar0Access
  repeat' first | with_reducible assumption | with_reducible refine fun _ => ?_ | with_reducible apply State.updPort_keeps | with_reducible apply bar0Write_keeps | with_reducible apply Keeps.ite | (with_reducible apply PortState.ok_pages; assumption; rfl; rfl) | ((first | lift_lets | skip); intro x; first | (have hx : Keeps s0 x := by (simp only [x]; repeat' first | with_reducible assumption | with_reducible refine fun _ => ?_ | with_reducible apply State.updPort_keeps | with_reducible apply bar0Write_keeps | with_reducible apply Keeps.ite | (with_reducible apply PortState.ok_pages; assumption; rfl; rfl) | (with_reducible apply PortState.ok_same; assumption; rfl; rfl) | (with_reducible apply FarTier.ok_same; assumption; rfl; rfl) | (with_reducible apply CoreCtx.ok_same; assumption; rfl) | split | with_reducible refine Keeps.mk' ?_ ?_ ?_ ?_ ?_)); clear_value x | skip) | (with_reducible apply PortState.ok_same; assumption; rfl; rfl) | (with_reducible apply FarTier.ok_same; assumption; rfl; rfl) | (with_reducible apply CoreCtx.ok_same; assumption; rfl) | split | with_reducible refine Keeps.mk' ?_ ?_ ?_ ?_ ?_

/-! Machine/Power. -/

theorem logPower_keeps {s0 s : State} {rail : Nat} {reading : W32} (hs : Keeps s0 s) :
    Keeps s0 (logPower s rail reading) := by
  unfold logPower
  with_reducible repeat' first | assumption | refine fun _ => ?_ | apply append_keeps | apply State.updRecord_keeps | apply Keeps.ite

theorem countThrottle_keeps {s0 s : State} (hs : Keeps s0 s) :
    Keeps s0 (countThrottle s) := by
  unfold countThrottle
  with_reducible repeat' first | assumption | refine fun _ => ?_ | apply State.updPwr_keeps | apply updLife_keeps | apply Keeps.ite | split

theorem execPowerStep_keeps {s0 : State} {watts : Nat} {amps : Nat} {s : State} (hs : Keeps s0 s) :
    KeepsR s0 (execPowerStep watts amps s) := by
  unfold execPowerStep
  with_reducible repeat' first | assumption | refine fun _ => ?_ | apply countThrottle_keeps | apply State.updPwr_keeps | apply KeepsR.ite | apply Keeps.ite | apply KeepsR.next | exact KeepsR.fault

theorem execPmbAlert_keeps {s0 : State} {phases : Nat} {reading : W32} {s : State} (hs : Keeps s0 s) :
    KeepsR s0 (execPmbAlert phases reading s) := by
  unfold execPmbAlert
  with_reducible repeat' first | assumption | refine fun _ => ?_ | apply noteFault_keeps | apply logPower_keeps | apply State.updPwr_keeps | apply KeepsR.ite | apply Keeps.ite | apply KeepsR.next | exact KeepsR.fault

theorem postThermal_keeps {s0 s : State} {sensor : Nat} {level : Nat} {reading : W16} (hs : Keeps s0 s) :
    Keeps s0 (postThermal s sensor level reading) := by
  unfold postThermal
  with_reducible repeat' first | assumption | refine fun _ => ?_ | apply setErr_keeps | apply append_keeps | apply State.updRecord_keeps | apply postBoth_keeps | apply Keeps.ite

theorem applyLevel_keeps {s0 s : State} {sensor : Nat} {level : Nat} {t : Int} (hs : Keeps s0 s) :
    Keeps s0 (applyLevel s sensor level t) := by
  unfold applyLevel
  with_reducible repeat' first | assumption | refine fun _ => ?_ | apply State.updDev_keeps | apply State.updStack_keeps | apply State.updDie_keeps | apply Keeps.ite | split

theorem execSensorSample_keeps {s0 : State} {sensor : Nat} {reading : W16} {s : State} (hs : Keeps s0 s) :
    KeepsR s0 (execSensorSample sensor reading s) := by
  unfold execSensorSample
  with_reducible repeat' first | assumption | refine fun _ => ?_ | apply State.updPwr_keeps | apply applyLevel_keeps | apply State.updHub_keeps | apply postThermal_keeps | apply KeepsR.ite | apply Keeps.ite | apply KeepsR.next | exact KeepsR.fault

theorem execThermalStep_keeps {s0 : State} {die : Fin 8} {s : State} (hs : Keeps s0 s) :
    KeepsR s0 (execThermalStep die s) := by
  unfold execThermalStep
  with_reducible repeat' first | assumption | refine fun _ => ?_ | apply countThrottle_keeps | apply State.updDie_keeps | apply KeepsR.ite | apply Keeps.ite | apply KeepsR.next | exact KeepsR.fault

theorem wakePhys_keeps {s0 s : State} {p : Nat} (hs : Keeps s0 s) :
    Keeps s0 (wakePhys s p) := by
  unfold wakePhys
  with_reducible repeat' first | assumption | refine fun _ => ?_ | apply State.updPhys_keeps | apply Keeps.ite

theorem wakeCore_keeps {s0 s : State} {c : Nat} (hs : Keeps s0 s) :
    Keeps s0 (wakeCore s c) := by
  unfold wakeCore
  with_reducible repeat' first | assumption | refine fun _ => ?_ | apply State.updDie_keeps | apply wakePhys_keeps | split

theorem idleCore_keeps {s0 s : State} {c : Nat} (hs : Keeps s0 s) :
    Keeps s0 (idleCore s c) := by
  unfold idleCore
  with_reducible repeat' first | assumption | refine fun _ => ?_ | apply State.updPhys_keeps | apply Keeps.ite | split

theorem idleAll_keeps {s0 s : State} {cores : List Nat} (hs : Keeps s0 s) :
    Keeps s0 (idleAll s cores) := by
  unfold idleAll
  with_reducible repeat' first | assumption | refine fun _ => ?_ | apply idleCore_keeps | apply Keeps.foldl | apply FarTier.foldl_ok | apply CoreCtx.foldl_ok

theorem parkFreed_keeps {s0 s : State} {cores : List Nat} (hs : Keeps s0 s) :
    Keeps s0 (parkFreed s cores) := by
  unfold parkFreed
  with_reducible repeat' first | assumption | refine fun _ => ?_ | apply State.updPhys_keeps | apply Keeps.foldl | apply FarTier.foldl_ok | apply CoreCtx.foldl_ok | apply Keeps.ite | split

theorem execSleepTimeout_keeps {s0 : State} {physical : Nat} {s : State} (hs : Keeps s0 s) :
    KeepsR s0 (execSleepTimeout physical s) := by
  unfold execSleepTimeout
  with_reducible repeat' first | assumption | refine fun _ => ?_ | apply State.updPhys_keeps | apply KeepsR.ite | apply Keeps.ite | apply KeepsR.next | exact KeepsR.fault

theorem execPllLock_keeps {s0 : State} {physical : Nat} {s : State} (hs : Keeps s0 s) :
    KeepsR s0 (execPllLock physical s) := by
  unfold execPllLock
  with_reducible repeat' first | assumption | refine fun _ => ?_ | apply State.updPhys_keeps | apply KeepsR.ite | apply Keeps.ite | apply KeepsR.next | exact KeepsR.fault

theorem execRunEntry_keeps {s0 : State} {die : Fin 8} {s : State} (hs : Keeps s0 s) :
    KeepsR s0 (execRunEntry die s) := by
  unfold execRunEntry
  with_reducible repeat' first | assumption | refine fun _ => ?_ | apply State.updDie_keeps | apply State.updPhys_keeps | apply KeepsR.ite | apply Keeps.ite | apply KeepsR.next | exact KeepsR.fault | split

theorem execRunExit_keeps {s0 : State} {die : Fin 8} {s : State} (hs : Keeps s0 s) :
    KeepsR s0 (execRunExit die s) := by
  unfold execRunExit
  with_reducible repeat' first | assumption | refine fun _ => ?_ | apply State.updDie_keeps | apply State.updPhys_keeps | apply KeepsR.ite | apply Keeps.ite | apply KeepsR.next | exact KeepsR.fault | split

theorem execNetworkClockGate_keeps {s0 : State} {die : Fin 8} {s : State} (hs : Keeps s0 s) :
    KeepsR s0 (execNetworkClockGate die s) := by
  unfold execNetworkClockGate
  with_reducible repeat' first | assumption | refine fun _ => ?_ | apply State.updDie_keeps | apply KeepsR.ite | apply Keeps.ite | apply KeepsR.next | exact KeepsR.fault

/-! Machine/HostCommands. -/

theorem execGetInfo_keeps {s0 : State} {rq : MbxReq} {s : State} (hs : Keeps s0 s) :
    KeepsR s0 (execGetInfo rq s) := by
  unfold execGetInfo
  with_reducible repeat' first | assumption | refine fun _ => ?_ | apply mailbox_keeps | apply Reply.okWith_keeps | apply KeepsR.next | exact KeepsR.fault | apply KeepsReply.ite | apply KeepsReply.done | apply KeepsReply.stay | refine Keeps.ofNext (by assumption) ?_

theorem spdmAnswer_keeps {s0 s : State} {p : Port} {msg : List Byte} (hs : Keeps s0 s) :
    Keeps s0 (spdmAnswer s p msg).2 := by
  unfold spdmAnswer
  with_reducible repeat' first | assumption | refine fun _ => ?_ | apply State.updHub_keeps | apply State.updDev_keeps | apply State.updPort_keeps | apply Keeps.ite | split | (apply PortState.ok_same; assumption; rfl; rfl)

theorem execSpdm_keeps {s0 : State} {rq : MbxReq} {s : State} (hs : Keeps s0 s) :
    KeepsR s0 (execSpdm rq s) := by
  unfold execSpdm
  with_reducible repeat' first | assumption | refine fun _ => ?_ | apply mailbox_keeps | apply spdmAnswer_keeps | apply Reply.okWith_keeps | apply KeepsR.next | exact KeepsR.fault | apply KeepsReply.ite | apply KeepsReply.done | apply KeepsReply.stay | refine Keeps.ofNext (by assumption) ?_ | refine Keeps.ofSnd (by assumption) ?_

theorem execDoeMessage_keeps {s0 : State} {port : Port} {msg : List Byte} {s : State} (hs : Keeps s0 s) :
    KeepsR s0 (execDoeMessage port msg s) := by
  unfold execDoeMessage
  with_reducible repeat' first | assumption | refine fun _ => ?_ | apply spdmAnswer_keeps | apply State.updPort_keeps | apply KeepsR.ite | apply Keeps.ite | apply KeepsR.next | exact KeepsR.fault | refine Keeps.ofSnd (by assumption) ?_ | (apply PortState.ok_same; assumption; rfl; rfl)

theorem grantExtent_keeps {s0 s : State} {owner : Nat} {e : Nat} (hs : Keeps s0 s) :
    Keeps s0 (grantExtent s owner e) := by
  unfold grantExtent
  repeat' first | assumption | refine fun _ => ?_ | apply State.updFar_keeps | apply clearTags_keeps | split

theorem freeExtent_keeps {s0 s : State} {e : Nat} (hs : Keeps s0 s) :
    Keeps s0 (freeExtent s e) := by
  unfold freeExtent
  repeat' first | assumption | refine fun _ => ?_ | apply State.updFar_keeps | apply clearTags_keeps | split

theorem execMemGrant_keeps {s0 : State} {rq : MbxReq} {s : State} (hs : Keeps s0 s) :
    KeepsR s0 (execMemGrant rq s) := by
  unfold execMemGrant
  with_reducible repeat' first | assumption | refine fun _ => ?_ | apply mailbox_keeps | apply Reply.fail_keeps | apply Reply.ok_keeps | apply grantExtent_keeps | apply Keeps.foldl | apply FarTier.foldl_ok | apply CoreCtx.foldl_ok | apply KeepsR.ite | apply Keeps.ite | apply KeepsR.next | exact KeepsR.fault | apply KeepsReply.ite | apply KeepsReply.done | apply KeepsReply.stay | refine Keeps.ofNext (by assumption) ?_

theorem execMemRelease_keeps {s0 : State} {rq : MbxReq} {s : State} (hs : Keeps s0 s) :
    KeepsR s0 (execMemRelease rq s) := by
  unfold execMemRelease
  with_reducible repeat' first | assumption | refine fun _ => ?_ | apply mailbox_keeps | apply Reply.fail_keeps | apply Reply.ok_keeps | apply freeExtent_keeps | apply Keeps.foldl | apply FarTier.foldl_ok | apply CoreCtx.foldl_ok | apply KeepsR.ite | apply Keeps.ite | apply KeepsR.next | exact KeepsR.fault | apply KeepsReply.ite | apply KeepsReply.done | apply KeepsReply.stay | refine Keeps.ofNext (by assumption) ?_

theorem execCopyIn_keeps {s0 : State} {rq : MbxReq} {s : State} (hs : Keeps s0 s) :
    KeepsR s0 (execCopyIn rq s) := by
  unfold execCopyIn
  with_reducible repeat' first | assumption | refine fun _ => ?_ | apply mailbox_keeps | apply Reply.fail_keeps | apply Reply.ok_keeps | apply farHostWrite_keeps | apply KeepsR.ite | apply Keeps.ite | apply KeepsR.next | exact KeepsR.fault | apply KeepsReply.ite | apply KeepsReply.done | apply KeepsReply.stay | refine Keeps.ofNext (by assumption) ?_ | split

theorem execCopyOut_keeps {s0 : State} {rq : MbxReq} {s : State} (hs : Keeps s0 s) :
    KeepsR s0 (execCopyOut rq s) := by
  unfold execCopyOut
  with_reducible repeat' first | assumption | refine fun _ => ?_ | apply mailbox_keeps | apply Reply.fail_keeps | apply Reply.ok_keeps | apply sendBack_keeps | apply hostWrite_keeps | apply touchRead_keeps | apply raceRead_keeps | apply KeepsR.ite | apply Keeps.ite | apply KeepsR.next | exact KeepsR.fault | apply KeepsReply.ite | apply KeepsReply.done | apply KeepsReply.stay | refine Keeps.ofNext (by assumption) ?_

theorem setRing_keeps {s0 s : State} {p : Port} {base : Nat} {log2 : Nat} (hs : Keeps s0 s) :
    Keeps s0 (setRing s p base log2) := by
  unfold setRing
  with_reducible repeat' first | assumption | refine fun _ => ?_ | apply flushPort_keeps | apply State.updPort_keeps | (apply PortState.ok_same; assumption; rfl; rfl)

theorem execEventRingSet_keeps {s0 : State} {rq : MbxReq} {s : State} (hs : Keeps s0 s) :
    KeepsR s0 (execEventRingSet rq s) := by
  unfold execEventRingSet
  with_reducible repeat' first | assumption | refine fun _ => ?_ | apply mailbox_keeps | apply Reply.ok_keeps | apply setRing_keeps | apply KeepsR.next | exact KeepsR.fault | apply KeepsReply.ite | apply KeepsReply.done | apply KeepsReply.stay | refine Keeps.ofNext (by assumption) ?_

theorem execRebuildShare_keeps {s0 : State} {rq : MbxReq} {s : State} (hs : Keeps s0 s) :
    KeepsR s0 (execRebuildShare rq s) := by
  unfold execRebuildShare
  with_reducible repeat' first | assumption | refine fun _ => ?_ | apply mailbox_keeps | apply Reply.ok_keeps | apply State.updDev_keeps | apply KeepsR.next | exact KeepsR.fault | apply KeepsReply.ite | apply KeepsReply.done | apply KeepsReply.stay | refine Keeps.ofNext (by assumption) ?_

/-! Machine/Chains. -/

theorem execChainLoad_keeps {s0 : State} {rq : MbxReq} {s : State} (hs : Keeps s0 s) :
    KeepsR s0 (execChainLoad rq s) := by
  unfold execChainLoad
  with_reducible repeat' first | assumption | refine fun _ => ?_ | apply mailbox_keeps | apply Reply.fail_keeps | apply State.updTab_keeps | apply Reply.okWith_keeps | apply State.updDev_keeps | apply KeepsR.next | exact KeepsR.fault | apply KeepsReply.ite | apply KeepsReply.done | apply KeepsReply.stay | refine Keeps.ofNext (by assumption) ?_ | split

theorem unloadChain_keeps {s0 s : State} {c : Chain} (hs : Keeps s0 s) :
    Keeps s0 (unloadChain s c) := by
  unfold unloadChain
  with_reducible repeat' first | assumption | refine fun _ => ?_ | apply State.updTab_keeps

theorem execChainUnload_keeps {s0 : State} {rq : MbxReq} {s : State} (hs : Keeps s0 s) :
    KeepsR s0 (execChainUnload rq s) := by
  unfold execChainUnload
  with_reducible repeat' first | assumption | refine fun _ => ?_ | apply mailbox_keeps | apply Reply.fail_keeps | apply Reply.ok_keeps | apply unloadChain_keeps | apply KeepsR.ite | apply Keeps.ite | apply KeepsR.next | exact KeepsR.fault | apply KeepsReply.ite | apply KeepsReply.done | apply KeepsReply.stay | refine Keeps.ofNext (by assumption) ?_ | split

/-! Machine/Flags. -/

theorem countOriginated_keeps {s0 s : State} {job : Nat} {cause : Nat} (hs : Keeps s0 s) :
    Keeps s0 (countOriginated s job cause) := by
  unfold countOriginated
  with_reducible repeat' first | assumption | refine fun _ => ?_ | apply countCause_keeps | split

/-! Machine/Caddies. -/

theorem updCaddy_keeps {s0 s : State} {i : Nat} {f : Caddy → Caddy} (hs : Keeps s0 s) :
    Keeps s0 (updCaddy s i f) := by
  unfold updCaddy
  with_reducible repeat' first | assumption | refine fun _ => ?_ | apply State.updTab_keeps

theorem storeImage_keeps {s0 s : State} {extents : List Nat} {b : List Byte} (hs : Keeps s0 s) :
    Keeps s0 (storeImage s extents b) := by
  unfold storeImage
  with_reducible repeat' first | assumption | refine fun _ => ?_ | apply deviceWrite_keeps | apply Keeps.foldl | apply FarTier.foldl_ok | apply CoreCtx.foldl_ok

theorem execCaddyLoad_keeps {s0 : State} {rq : MbxReq} {s : State} (hs : Keeps s0 s) :
    KeepsR s0 (execCaddyLoad rq s) := by
  unfold execCaddyLoad
  with_reducible repeat' first | assumption | refine fun _ => ?_ | apply mailbox_keeps | apply Reply.fail_keeps | apply State.updTab_keeps | apply storeImage_keeps | apply KeepsR.ite | apply Keeps.ite | apply KeepsR.next | exact KeepsR.fault | apply KeepsReply.ite | apply KeepsReply.done | apply KeepsReply.stay | refine Keeps.ofNext (by assumption) ?_ | split

theorem execCaddyLoadDone_keeps {s0 : State} {caddy : Nat} {s : State} (hs : Keeps s0 s) :
    KeepsR s0 (execCaddyLoadDone caddy s) := by
  unfold execCaddyLoadDone
  with_reducible repeat' first | assumption | refine fun _ => ?_ | apply respondTo_keeps | apply updCaddy_keeps | apply KeepsR.ite | apply Keeps.ite | apply KeepsR.next | exact KeepsR.fault | split

theorem dropNear_keeps {s0 s : State} {i : Nat} (hs : Keeps s0 s) :
    Keeps s0 (dropNear s i) := by
  unfold dropNear
  with_reducible repeat' first | assumption | refine fun _ => ?_ | apply State.updNear_keeps

theorem dropCached_keeps {s0 s : State} {i : Nat} (hs : Keeps s0 s) :
    Keeps s0 (dropCached s i) := by
  unfold dropCached
  repeat' first | assumption | refine fun _ => ?_ | split

theorem execCaddyUnload_keeps {s0 : State} {rq : MbxReq} {s : State} (hs : Keeps s0 s) :
    KeepsR s0 (execCaddyUnload rq s) := by
  unfold execCaddyUnload
  with_reducible repeat' first | assumption | refine fun _ => ?_ | apply mailbox_keeps | apply Reply.fail_keeps | apply Reply.ok_keeps | apply State.updTab_keeps | apply dropNear_keeps | apply dropCached_keeps | apply KeepsR.ite | apply Keeps.ite | apply KeepsR.next | exact KeepsR.fault | apply KeepsReply.ite | apply KeepsReply.done | apply KeepsReply.stay | refine Keeps.ofNext (by assumption) ?_ | split

theorem execCaddyQuery_keeps {s0 : State} {rq : MbxReq} {s : State} (hs : Keeps s0 s) :
    KeepsR s0 (execCaddyQuery rq s) := by
  unfold execCaddyQuery
  with_reducible repeat' first | assumption | refine fun _ => ?_ | apply mailbox_keeps | apply Reply.okWith_keeps | apply Reply.fail_keeps | apply KeepsR.ite | apply Keeps.ite | apply KeepsR.next | exact KeepsR.fault | apply KeepsReply.ite | apply KeepsReply.done | apply KeepsReply.stay | refine Keeps.ofNext (by assumption) ?_ | split

theorem evictCaddy_keeps {s0 s : State} {i : Nat} (hs : Keeps s0 s) :
    Keeps s0 (evictCaddy s i) := by
  unfold evictCaddy
  with_reducible repeat' first | assumption | refine fun _ => ?_ | apply updCaddy_keeps | apply dropNear_keeps

theorem startCopy_keeps {s0 s : State} {i : Nat} (hs : Keeps s0 s) :
    Keeps s0 (startCopy s i) := by
  unfold startCopy
  with_reducible repeat' first | assumption | refine fun _ => ?_ | apply updCaddy_keeps | apply Keeps.ite

theorem placePieces_keeps {s0 s : State} {c : Caddy} (hs : Keeps s0 s) :
    Keeps s0 (placePieces s c) := by
  unfold placePieces
  with_reducible repeat' first | assumption | refine fun _ => ?_ | apply State.updNear_keeps | apply Keeps.ite

theorem execCaddyResident_keeps {s0 : State} {caddy : Nat} {s : State} (hs : Keeps s0 s) :
    KeepsR s0 (execCaddyResident caddy s) := by
  unfold execCaddyResident
  with_reducible repeat' first | assumption | refine fun _ => ?_ | apply updCaddy_keeps | apply placePieces_keeps | apply KeepsR.ite | apply Keeps.ite | apply KeepsR.next | exact KeepsR.fault | split

/-! Machine/Commands. -/

theorem mapCores_keeps {s0 s : State} {f : CoreCtx → CoreCtx} (hs : Keeps s0 s) (hf : ∀ c, c.ok → (f c).ok) :
    Keeps s0 (mapCores s f) :=
  ⟨hs.1, hs.2.1, hs.2.2.1, hs.2.2.2.1, fun w => coresOk_filter (coresOk_map (hs.2.2.2.2 w) (fun c h => hf c.2 h))⟩

theorem mapDies_keeps {s0 s : State} {f : DieState → DieState} (hs : Keeps s0 s) :
    Keeps s0 (mapDies s f) := by
  unfold mapDies
  repeat' first | assumption | refine fun _ => ?_ | split

theorem releaseKeys_keeps {s0 s : State} {num : Nat} {serial : Nat} {pieces : List PieceId} (hs : Keeps s0 s) :
    Keeps s0 (releaseKeys s num serial pieces) := by
  unfold releaseKeys
  with_reducible repeat' first | assumption | refine fun _ => ?_ | apply mapDies_keeps | apply State.updKey_keeps

theorem fenceTasks_keeps {job : Nat} {num : Nat} {serial : Nat} {c : CoreCtx} (hc : CoreCtx.ok c) :
    CoreCtx.ok (fenceTasks job num serial c) := by
  unfold fenceTasks
  with_reducible repeat' first | assumption | refine fun _ => ?_ | (apply CoreCtx.ok_same; assumption; rfl)

theorem zeroAccums_keeps {s0 s : State} {num : Nat} {serial : Nat} (hs : Keeps s0 s) :
    Keeps s0 (zeroAccums s num serial) := by
  unfold zeroAccums
  with_reducible repeat' first | assumption | refine fun _ => ?_ | apply State.storeScratch_keeps | apply Keeps.foldl | apply FarTier.foldl_ok | apply CoreCtx.foldl_ok

theorem staleDests_keeps {s0 s : State} {job : Nat} {dests : List (Nat × List Byte)} (hs : Keeps s0 s) :
    Keeps s0 (staleDests s job dests) := by
  unfold staleDests
  with_reducible repeat' first | assumption | refine fun _ => ?_ | apply countOriginated_keeps | apply writeAnywhere_keeps | apply Keeps.foldl | apply FarTier.foldl_ok | apply CoreCtx.foldl_ok

theorem stalePartial_keeps {s0 s : State} {c : Cmd} (hs : Keeps s0 s) :
    Keeps s0 (stalePartial s c) := by
  unfold stalePartial
  with_reducible repeat' first | assumption | refine fun _ => ?_ | apply State.updFar_keeps | apply FarTier.setTag_keeps | apply Keeps.foldl | apply FarTier.foldl_ok | apply CoreCtx.foldl_ok

theorem scrambleRange_keeps {s0 s : State} {r : Nat × Nat} (hs : Keeps s0 s) :
    Keeps s0 (scrambleRange s r) := by
  unfold scrambleRange
  with_reducible repeat' first | assumption | refine fun _ => ?_ | apply freeBytes_keeps | apply deviceWrite_keeps | refine Keeps.ofSnd (by assumption) ?_

theorem scrambleBuffer_keeps {s0 s : State} {b : Option Nat × Nat × Nat} (hs : Keeps s0 s) :
    Keeps s0 (scrambleBuffer s b) := by
  unfold scrambleBuffer
  with_reducible repeat' first | assumption | refine fun _ => ?_ | apply scrambleRange_keeps | apply freeBytes_keeps | apply State.storeScratch_keeps | refine Keeps.ofSnd (by assumption) ?_ | split

theorem scrambleInFlight_keeps {s0 s : State} {job : Nat} {serial : Nat} (hs : Keeps s0 s) :
    Keeps s0 (scrambleInFlight s job serial) := by
  unfold scrambleInFlight
  with_reducible repeat' first | assumption | refine fun _ => ?_ | apply scrambleBuffer_keeps | apply Keeps.foldl | apply FarTier.foldl_ok | apply CoreCtx.foldl_ok

theorem scrambleInPlace_keeps {s0 s : State} {c : Cmd} (hs : Keeps s0 s) :
    Keeps s0 (scrambleInPlace s c) := by
  unfold scrambleInPlace
  with_reducible repeat' first | assumption | refine fun _ => ?_ | apply scrambleRange_keeps | apply Keeps.foldl | apply FarTier.foldl_ok | apply CoreCtx.foldl_ok | apply Keeps.ite

theorem abortCmd_keeps {s0 s : State} {num : Nat} {serial : Nat} {status : Nat} {detail : Nat} (hs : Keeps s0 s) :
    Keeps s0 (abortCmd s num serial status detail) := by
  unfold abortCmd
  repeat' first | with_reducible assumption | with_reducible refine fun _ => ?_ | with_reducible apply staleDests_keeps | with_reducible apply stalePartial_keeps | with_reducible apply scrambleInPlace_keeps | with_reducible apply scrambleInFlight_keeps | with_reducible apply idleAll_keeps | with_reducible apply mapCores_keeps | with_reducible apply zeroAccums_keeps | with_reducible apply fenceTasks_keeps | with_reducible apply releaseKeys_keeps | with_reducible apply mapDies_keeps | with_reducible apply State.updFar_keeps | with_reducible apply settleRetires_keeps | with_reducible apply endCmd_keeps | with_reducible apply updCmd_keeps | with_reducible apply Keeps.ite | ((first | lift_lets | skip); intro x; first | (have hx : Keeps s0 x := by (simp only [x]; repeat' first | with_reducible assumption | with_reducible refine fun _ => ?_ | with_reducible apply staleDests_keeps | with_reducible apply stalePartial_keeps | with_reducible apply scrambleInPlace_keeps | with_reducible apply scrambleInFlight_keeps | with_reducible apply idleAll_keeps | with_reducible apply mapCores_keeps | with_reducible apply zeroAccums_keeps | with_reducible apply fenceTasks_keeps | with_reducible apply releaseKeys_keeps | with_reducible apply mapDies_keeps | with_reducible apply State.updFar_keeps | with_reducible apply settleRetires_keeps | with_reducible apply endCmd_keeps | with_reducible apply updCmd_keeps | with_reducible apply Keeps.ite | (with_reducible apply PortState.ok_same; assumption; rfl; rfl) | (with_reducible apply FarTier.ok_same; assumption; rfl; rfl) | (with_reducible apply CoreCtx.ok_same; assumption; rfl) | split | with_reducible refine Keeps.mk' ?_ ?_ ?_ ?_ ?_)); clear_value x | skip) | (with_reducible apply PortState.ok_same; assumption; rfl; rfl) | (with_reducible apply FarTier.ok_same; assumption; rfl; rfl) | (with_reducible apply CoreCtx.ok_same; assumption; rfl) | split | with_reducible refine Keeps.mk' ?_ ?_ ?_ ?_ ?_

theorem cancelFetched_keeps {s0 s : State} {num : Nat} (hs : Keeps s0 s) :
    Keeps s0 (cancelFetched s num) := by
  unfold cancelFetched
  repeat' first | assumption | refine fun _ => ?_ | apply updCmd_keeps | split

theorem releaseBoundary_keeps {s0 s : State} {num : Nat} (hs : Keeps s0 s) :
    Keeps s0 (releaseBoundary s num) := by
  unfold releaseBoundary
  with_reducible repeat' first | assumption | refine fun _ => ?_ | apply releaseKeys_keeps | apply mapCores_keeps | apply updCmd_keeps | split | (apply CoreCtx.ok_same; assumption; rfl)

theorem cancelQueue_keeps {s0 s : State} {num : Nat} (hs : Keeps s0 s) :
    Keeps s0 (cancelQueue s num) := by
  unfold cancelQueue
  with_reducible repeat' first | assumption | refine fun _ => ?_ | apply releaseBoundary_keeps | apply fetchN_keeps | apply cancelFetched_keeps | apply abortCmd_keeps | apply updQueue_keeps | apply Keeps.foldl | apply FarTier.foldl_ok | apply CoreCtx.foldl_ok | apply Keeps.ite | split

theorem loseBuddy_keeps {s0 s : State} {core : Nat} (hs : Keeps s0 s) :
    Keeps s0 (loseBuddy s core) := by
  unfold loseBuddy
  with_reducible repeat' first | assumption | refine fun _ => ?_ | apply postBoth_keeps | apply State.updCore_keeps | apply Keeps.foldl | apply FarTier.foldl_ok | apply CoreCtx.foldl_ok | (apply CoreCtx.ok_same; assumption; rfl)

/-! Machine/Jobs. -/

theorem zeroCores_keeps {s0 s : State} {cores : List Nat} (hs : Keeps s0 s) : Keeps s0 (zeroCores s cores) :=
  ⟨hs.1, hs.2.1, hs.2.2.1, hs.2.2.2.1, fun w => coresOk_filter (hs.2.2.2.2 w)⟩

theorem createJob_keeps {s0 s : State} {b : List Byte} (hs : Keeps s0 s) :
    Keeps s0 (createJob s b) := by
  unfold createJob
  with_reducible repeat' first | assumption | refine fun _ => ?_ | apply evictCaddy_keeps | apply startCopy_keeps | apply zeroCores_keeps | apply State.updTab_keeps | apply Keeps.foldl | apply FarTier.foldl_ok | apply CoreCtx.foldl_ok | apply Keeps.ite

theorem execJobCreate_keeps {s0 : State} {rq : MbxReq} {s : State} (hs : Keeps s0 s) :
    KeepsR s0 (execJobCreate rq s) := by
  unfold execJobCreate
  with_reducible repeat' first | assumption | refine fun _ => ?_ | apply mailbox_keeps | apply Reply.fail_keeps | apply createJob_keeps | apply Reply.okWith_keeps | apply KeepsR.next | exact KeepsR.fault | apply KeepsReply.ite | apply KeepsReply.done | apply KeepsReply.stay | refine Keeps.ofNext (by assumption) ?_ | split

theorem drainRecords_keeps {s0 : State} {a0 : Nat} {a1 : State} {a2 : Nat} (ha1 : Keeps s0 a1) :
    Keeps s0 (drainRecords a0 a1 a2) := by
  induction a0 generalizing a1 with
  | zero => unfold drainRecords; exact ha1
  | succ n ih =>
    unfold drainRecords
    repeat' first | with_reducible apply ih | with_reducible assumption | with_reducible refine fun _ => ?_ | with_reducible apply writeRecord_keeps | with_reducible apply updQueue_keeps | with_reducible apply Keeps.ite | ((first | lift_lets | skip); intro x; first | (have hx : Keeps s0 x := by (simp only [x]; repeat' first | with_reducible assumption | with_reducible refine fun _ => ?_ | with_reducible apply writeRecord_keeps | with_reducible apply updQueue_keeps | with_reducible apply Keeps.ite | (with_reducible apply PortState.ok_same; assumption; rfl; rfl) | (with_reducible apply FarTier.ok_same; assumption; rfl; rfl) | (with_reducible apply CoreCtx.ok_same; assumption; rfl) | split | with_reducible refine Keeps.mk' ?_ ?_ ?_ ?_ ?_)); clear_value x | skip) | (with_reducible apply PortState.ok_same; assumption; rfl; rfl) | (with_reducible apply FarTier.ok_same; assumption; rfl; rfl) | (with_reducible apply CoreCtx.ok_same; assumption; rfl) | split | with_reducible refine Keeps.mk' ?_ ?_ ?_ ?_ ?_

theorem drainQueue_keeps {s0 s : State} {num : Nat} (hs : Keeps s0 s) :
    Keeps s0 (drainQueue s num) := by
  unfold drainQueue
  repeat' first | with_reducible assumption | with_reducible refine fun _ => ?_ | with_reducible apply drainRecords_keeps | ((first | lift_lets | skip); intro x; first | (have hx : Keeps s0 x := by (simp only [x]; repeat' first | with_reducible assumption | with_reducible refine fun _ => ?_ | with_reducible apply drainRecords_keeps | (with_reducible apply PortState.ok_same; assumption; rfl; rfl) | (with_reducible apply FarTier.ok_same; assumption; rfl; rfl) | (with_reducible apply CoreCtx.ok_same; assumption; rfl) | split | with_reducible refine Keeps.mk' ?_ ?_ ?_ ?_ ?_)); clear_value x | skip) | (with_reducible apply PortState.ok_same; assumption; rfl; rfl) | (with_reducible apply FarTier.ok_same; assumption; rfl; rfl) | (with_reducible apply CoreCtx.ok_same; assumption; rfl) | split | with_reducible refine Keeps.mk' ?_ ?_ ?_ ?_ ?_

theorem takeSpares_keeps {s0 s : State} (hs : Keeps s0 s) :
    Keeps s0 (takeSpares s) := by
  unfold takeSpares
  with_reducible repeat' first | assumption | refine fun _ => ?_ | apply noteExhausted_keeps | apply State.updPhys_keeps | apply Keeps.foldl | apply FarTier.foldl_ok | apply CoreCtx.foldl_ok | apply Keeps.ite | split

theorem endPairing_keeps {s0 s : State} {j : Job} (hs : Keeps s0 s) :
    Keeps s0 (endPairing s j) := by
  unfold endPairing
  with_reducible repeat' first | assumption | refine fun _ => ?_ | apply transmit_keeps | split

theorem removeJob_keeps {s0 s : State} {j : Job} (hs : Keeps s0 s) :
    Keeps s0 (removeJob s j) := by
  unfold removeJob
  with_reducible repeat' first | assumption | refine fun _ => ?_ | apply State.updTab_keeps | apply freeExtent_keeps | apply State.updFar_keeps | apply mapDies_keeps | apply endPairing_keeps | apply refreshState_keeps | apply takeSpares_keeps | apply settleRetires_keeps | apply parkFreed_keeps | apply zeroCores_keeps | apply Keeps.foldl | apply FarTier.foldl_ok | apply CoreCtx.foldl_ok | (apply FarTier.ok_same; assumption; rfl; rfl)

theorem destroyJob_keeps {s0 s : State} {j : Job} (hs : Keeps s0 s) :
    Keeps s0 (destroyJob s j) := by
  unfold destroyJob
  with_reducible repeat' first | assumption | refine fun _ => ?_ | apply removeJob_keeps | apply drainQueue_keeps | apply cancelQueue_keeps | apply Keeps.foldl | apply FarTier.foldl_ok | apply CoreCtx.foldl_ok | (apply FarTier.ok_same; assumption; rfl; rfl)

theorem settleDestroy_keeps {s0 s : State} {j : Job} (hs : Keeps s0 s) :
    Keeps s0 (settleDestroy s j) := by
  unfold settleDestroy
  with_reducible repeat' first | assumption | refine fun _ => ?_ | apply drainQueue_keeps | apply respondTo_keeps | apply removeJob_keeps | apply Keeps.foldl | apply FarTier.foldl_ok | apply CoreCtx.foldl_ok | apply Keeps.ite | split

theorem settleDestroys_keeps {s0 s : State} (hs : Keeps s0 s) :
    Keeps s0 (settleDestroys s) := by
  unfold settleDestroys
  with_reducible repeat' first | assumption | refine fun _ => ?_ | apply settleDestroy_keeps | apply Keeps.foldl | apply FarTier.foldl_ok | apply CoreCtx.foldl_ok

theorem execJobDestroy_keeps {s0 : State} {rq : MbxReq} {s : State} (hs : Keeps s0 s) :
    KeepsR s0 (execJobDestroy rq s) := by
  unfold execJobDestroy
  with_reducible repeat' first | assumption | refine fun _ => ?_ | apply mailbox_keeps | apply Reply.fail_keeps | apply drainQueue_keeps | apply cancelQueue_keeps | apply Reply.ok_keeps | apply removeJob_keeps | apply updJob_keeps | apply Keeps.foldl | apply FarTier.foldl_ok | apply CoreCtx.foldl_ok | apply KeepsR.ite | apply Keeps.ite | apply KeepsR.next | exact KeepsR.fault | apply KeepsReply.ite | apply KeepsReply.done | apply KeepsReply.stay | refine Keeps.ofNext (by assumption) ?_ | split

theorem execJobStatus_keeps {s0 : State} {rq : MbxReq} {s : State} (hs : Keeps s0 s) :
    KeepsR s0 (execJobStatus rq s) := by
  unfold execJobStatus
  with_reducible repeat' first | assumption | refine fun _ => ?_ | apply mailbox_keeps | apply Reply.fail_keeps | apply Reply.okWith_keeps | apply KeepsR.next | exact KeepsR.fault | apply KeepsReply.ite | apply KeepsReply.done | apply KeepsReply.stay | refine Keeps.ofNext (by assumption) ?_ | split

/-! Machine/Queues. -/

theorem execQueueCreate_keeps {s0 : State} {rq : MbxReq} {s : State} (hs : Keeps s0 s) :
    KeepsR s0 (execQueueCreate rq s) := by
  unfold execQueueCreate
  with_reducible repeat' first | assumption | refine fun _ => ?_ | apply mailbox_keeps | apply Reply.fail_keeps | apply Reply.okWith_keeps | apply State.updTab_keeps | apply KeepsR.ite | apply Keeps.ite | apply KeepsR.next | exact KeepsR.fault | apply KeepsReply.ite | apply KeepsReply.done | apply KeepsReply.stay | refine Keeps.ofNext (by assumption) ?_ | split

theorem execQueueSet_keeps {s0 : State} {rq : MbxReq} {s : State} (hs : Keeps s0 s) :
    KeepsR s0 (execQueueSet rq s) := by
  unfold execQueueSet
  with_reducible repeat' first | assumption | refine fun _ => ?_ | apply mailbox_keeps | apply Reply.fail_keeps | apply Reply.ok_keeps | apply updQueue_keeps | apply KeepsR.next | exact KeepsR.fault | apply KeepsReply.ite | apply KeepsReply.done | apply KeepsReply.stay | refine Keeps.ofNext (by assumption) ?_ | split

theorem execQueueCancel_keeps {s0 : State} {rq : MbxReq} {s : State} (hs : Keeps s0 s) :
    KeepsR s0 (execQueueCancel rq s) := by
  unfold execQueueCancel
  with_reducible repeat' first | assumption | refine fun _ => ?_ | apply mailbox_keeps | apply Reply.fail_keeps | apply Reply.ok_keeps | apply cancelQueue_keeps | apply KeepsR.next | exact KeepsR.fault | apply KeepsReply.ite | apply KeepsReply.done | apply KeepsReply.stay | refine Keeps.ofNext (by assumption) ?_ | split

theorem execQueueResume_keeps {s0 : State} {rq : MbxReq} {s : State} (hs : Keeps s0 s) :
    KeepsR s0 (execQueueResume rq s) := by
  unfold execQueueResume
  with_reducible repeat' first | assumption | refine fun _ => ?_ | apply mailbox_keeps | apply Reply.fail_keeps | apply Reply.ok_keeps | apply updQueue_keeps | apply KeepsR.ite | apply Keeps.ite | apply KeepsR.next | exact KeepsR.fault | apply KeepsReply.ite | apply KeepsReply.done | apply KeepsReply.stay | refine Keeps.ofNext (by assumption) ?_ | split

theorem execQueueReset_keeps {s0 : State} {rq : MbxReq} {s : State} (hs : Keeps s0 s) :
    KeepsR s0 (execQueueReset rq s) := by
  unfold execQueueReset
  with_reducible repeat' first | assumption | refine fun _ => ?_ | apply mailbox_keeps | apply Reply.fail_keeps | apply Reply.ok_keeps | apply updQueue_keeps | apply KeepsR.ite | apply Keeps.ite | apply KeepsR.next | exact KeepsR.fault | apply KeepsReply.ite | apply KeepsReply.done | apply KeepsReply.stay | refine Keeps.ofNext (by assumption) ?_ | split

theorem execQueueDestroy_keeps {s0 : State} {rq : MbxReq} {s : State} (hs : Keeps s0 s) :
    KeepsR s0 (execQueueDestroy rq s) := by
  unfold execQueueDestroy
  with_reducible repeat' first | assumption | refine fun _ => ?_ | apply mailbox_keeps | apply Reply.fail_keeps | apply Reply.ok_keeps | apply State.updTab_keeps | apply KeepsR.ite | apply Keeps.ite | apply KeepsR.next | exact KeepsR.fault | apply KeepsReply.ite | apply KeepsReply.done | apply KeepsReply.stay | refine Keeps.ofNext (by assumption) ?_ | split

theorem execQueueRehome_keeps {s0 : State} {rq : MbxReq} {s : State} (hs : Keeps s0 s) :
    KeepsR s0 (execQueueRehome rq s) := by
  unfold execQueueRehome
  with_reducible repeat' first | assumption | refine fun _ => ?_ | apply mailbox_keeps | apply Reply.fail_keeps | apply Reply.okWith_keeps | apply fetchAll_keeps | apply updQueue_keeps | apply KeepsR.ite | apply Keeps.ite | apply KeepsR.next | exact KeepsR.fault | apply KeepsReply.ite | apply KeepsReply.done | apply KeepsReply.stay | refine Keeps.ofNext (by assumption) ?_ | split

/-! Machine/Slices. -/

theorem portGoesDown_keeps {s0 s : State} {p : Port} (hs : Keeps s0 s) :
    Keeps s0 (portGoesDown s p) := by
  unfold portGoesDown
  with_reducible repeat' first | assumption | refine fun _ => ?_ | apply State.updPort_keeps | apply postBoth_keeps | apply noteFault_keeps | apply Keeps.ite | (apply PortState.ok_same; assumption; rfl; rfl)

theorem portComesUp_keeps {s0 s : State} {l : PortLink} (hs : Keeps s0 s) :
    Keeps s0 (portComesUp s l) := by
  unfold portComesUp
  with_reducible repeat' first | assumption | refine fun _ => ?_ | apply State.updPort_keeps | apply postBoth_keeps | apply flushPort_keeps | apply fetchAll_keeps | apply Keeps.foldl | apply FarTier.foldl_ok | apply CoreCtx.foldl_ok | apply Keeps.ite | (apply PortState.ok_same; assumption; rfl; rfl)

theorem applyLatched_keeps {s0 s : State} (hs : Keeps s0 s) :
    Keeps s0 (applyLatched s) := by
  unfold applyLatched
  with_reducible repeat' first | assumption | refine fun _ => ?_ | apply ringQueue_keeps | apply State.updDev_keeps | apply Keeps.foldl | apply FarTier.foldl_ok | apply CoreCtx.foldl_ok

theorem giveLead_keeps {s0 s : State} {h : Hub} (hs : Keeps s0 s) :
    Keeps s0 (giveLead s h) := by
  unfold giveLead
  with_reducible repeat' first | assumption | refine fun _ => ?_ | apply State.updDev_keeps | apply updLife_keeps | apply rewriteRecords_keeps | apply postBoth_keeps | apply noteRepair_keeps | apply applyLatched_keeps | apply fetchAll_keeps | apply Keeps.foldl | apply FarTier.foldl_ok | apply CoreCtx.foldl_ok

theorem rootLeaves_keeps {s0 s : State} {h : Hub} (hs : Keeps s0 s) :
    Keeps s0 (rootLeaves s h) := by
  unfold rootLeaves
  with_reducible repeat' first | assumption | refine fun _ => ?_ | apply State.updNear_keeps | apply Keeps.ite

theorem rootReturns_keeps {s0 s : State} {h : Hub} (hs : Keeps s0 s) :
    Keeps s0 (rootReturns s h) := by
  unfold rootReturns
  with_reducible repeat' first | assumption | refine fun _ => ?_ | apply State.updNear_keeps | apply Keeps.ite

theorem eraseStack_keeps {f : FarTier} {grp : Nat} {stack : Nat} (hf : FarTier.ok f) :
    FarTier.ok (eraseStack f grp stack) := by
  unfold eraseStack
  repeat' first | with_reducible assumption | with_reducible refine fun _ => ?_ | (with_reducible apply FarTier.ok_filter; assumption; rfl; rfl) | ((first | lift_lets | skip); intro x; first | (have hx : FarTier.ok x := by (simp only [x]; repeat' first | with_reducible assumption | with_reducible refine fun _ => ?_ | (with_reducible apply FarTier.ok_filter; assumption; rfl; rfl) | (with_reducible apply PortState.ok_same; assumption; rfl; rfl) | (with_reducible apply FarTier.ok_same; assumption; rfl; rfl) | (with_reducible apply CoreCtx.ok_same; assumption; rfl) | split | with_reducible refine Keeps.mk' ?_ ?_ ?_ ?_ ?_)); clear_value x | skip) | (with_reducible apply PortState.ok_same; assumption; rfl; rfl) | (with_reducible apply FarTier.ok_same; assumption; rfl; rfl) | (with_reducible apply CoreCtx.ok_same; assumption; rfl) | split | with_reducible refine Keeps.mk' ?_ ?_ ?_ ?_ ?_

theorem loseUnsupplied_keeps {s0 s : State} {grp : Nat} (hs : Keeps s0 s) :
    Keeps s0 (loseUnsupplied s grp) := by
  unfold loseUnsupplied
  with_reducible repeat' first | assumption | refine fun _ => ?_ | apply loseBlock_keeps | apply Keeps.foldl | apply FarTier.foldl_ok | apply CoreCtx.foldl_ok | apply Keeps.ite

theorem loseFarStack_keeps {s0 s : State} {stack : Nat} (hs : Keeps s0 s) :
    Keeps s0 (loseFarStack s stack) := by
  unfold loseFarStack
  with_reducible repeat' first | assumption | refine fun _ => ?_ | apply State.updFar_keeps | apply FarTier.setGroup_keeps | apply eraseStack_keeps | apply updLife_keeps | apply postBoth_keeps | apply noteFault_keeps | apply noteRepair_keeps | apply refreshState_keeps | apply loseUnsupplied_keeps | apply Keeps.ite

theorem loseNearStack_keeps {s0 s : State} {n : Nat} (hs : Keeps s0 s) :
    Keeps s0 (loseNearStack s n) := by
  unfold loseNearStack
  with_reducible repeat' first | assumption | refine fun _ => ?_ | apply State.updNear_keeps | apply updLife_keeps | apply refreshState_keeps | apply postBoth_keeps | apply noteFault_keeps | apply Keeps.ite

theorem loseIsland_keeps {s0 s : State} {d : Nat} (hs : Keeps s0 s) :
    Keeps s0 (loseIsland s d) := by
  unfold loseIsland
  with_reducible repeat' first | assumption | refine fun _ => ?_ | apply State.updDie_keeps | apply State.updFar_keeps | apply FarTier.setGroup_keeps | apply eraseStack_keeps | apply noteFault_keeps | apply postBoth_keeps | apply updLife_keeps | apply refreshState_keeps | apply loseUnsupplied_keeps | apply Keeps.foldl | apply FarTier.foldl_ok | apply CoreCtx.foldl_ok

theorem endDieWork_keeps {s0 s : State} {d : Nat} (hs : Keeps s0 s) :
    Keeps s0 (endDieWork s d) := by
  unfold endDieWork
  with_reducible repeat' first | assumption | refine fun _ => ?_ | apply State.updDie_keeps | apply respondTo_keeps | apply dropRetire_keeps | apply Keeps.foldl | apply FarTier.foldl_ok | apply CoreCtx.foldl_ok

theorem powerOffDie_keeps {s0 s : State} {d : Nat} (hs : Keeps s0 s) :
    Keeps s0 (powerOffDie s d) := by
  unfold powerOffDie
  with_reducible repeat' first | assumption | refine fun _ => ?_ | apply State.updDie_keeps | apply State.updPhys_keeps | apply zeroCores_keeps | apply Keeps.foldl | apply FarTier.foldl_ok | apply CoreCtx.foldl_ok

theorem loseDie_keeps {s0 s : State} {d : Nat} (hs : Keeps s0 s) :
    Keeps s0 (loseDie s d) := by
  unfold loseDie
  with_reducible repeat' first | assumption | refine fun _ => ?_ | apply noteFault_keeps | apply abortCmd_keeps | apply State.updDie_keeps | apply powerOffDie_keeps | apply endDieWork_keeps | apply loseBuddy_keeps | apply State.updTab_keeps | apply refreshState_keeps | apply noteRepair_keeps | apply Keeps.foldl | apply FarTier.foldl_ok | apply CoreCtx.foldl_ok

theorem applyProt_keeps {s0 s : State} {ctrl : W32} {lock : W32} {base : W64} {svn : Option Nat} (hs : Keeps s0 s) :
    Keeps s0 (applyProt s ctrl lock base svn) := by
  unfold applyProt
  with_reducible repeat' first | assumption | refine fun _ => ?_ | apply State.updRecord_keeps | apply State.updHub_keeps | apply Keeps.ite

theorem runSlice_keeps {s0 s : State} {k : Slice} (hs : Keeps s0 s) :
    Keeps s0 (runSlice s k) := by
  unfold runSlice
  with_reducible repeat' first | assumption | refine fun _ => ?_ | apply giveLead_keeps | apply applyProt_keeps | apply respondTo_keeps | apply loseFarStack_keeps | apply loseIsland_keeps | apply loseDie_keeps | apply rootLeaves_keeps | apply loseNearStack_keeps | apply rootReturns_keeps | apply State.updDev_keeps | apply Keeps.ite | split

theorem abandonSlice_keeps {s0 s : State} {k : Slice} (hs : Keeps s0 s) :
    Keeps s0 (abandonSlice s k) := by
  unfold abandonSlice
  with_reducible repeat' first | assumption | refine fun _ => ?_ | apply State.updDev_keeps | apply respondTo_keeps | apply Keeps.ite | split

theorem requestSlice_keeps {s0 s : State} {k : Slice} (hs : Keeps s0 s) :
    Keeps s0 (requestSlice s k) := by
  unfold requestSlice
  with_reducible repeat' first | assumption | refine fun _ => ?_ | apply runSlice_keeps | apply abandonSlice_keeps | apply State.updDev_keeps | apply Keeps.ite

theorem execInterruptingSliceStart_keeps {s0 s : State} (hs : Keeps s0 s) :
    KeepsR s0 (execInterruptingSliceStart s) := by
  unfold execInterruptingSliceStart
  with_reducible repeat' first | assumption | refine fun _ => ?_ | apply runSlice_keeps | apply State.updDev_keeps | apply KeepsR.ite | apply Keeps.ite | apply KeepsR.next | exact KeepsR.fault | split

theorem execSliceAbandon_keeps {s0 s : State} (hs : Keeps s0 s) :
    KeepsR s0 (execSliceAbandon s) := by
  unfold execSliceAbandon
  with_reducible repeat' first | assumption | refine fun _ => ?_ | apply State.updDev_keeps | apply abandonSlice_keeps | apply KeepsR.ite | apply Keeps.ite | apply KeepsR.next | exact KeepsR.fault | split

theorem cancelLoads_keeps {s0 s : State} {p : Port} (hs : Keeps s0 s) :
    Keeps s0 (cancelLoads s p) := by
  unfold cancelLoads
  with_reducible repeat' first | assumption | refine fun _ => ?_ | apply State.updTab_keeps

theorem loseMailboxes_keeps {s0 s : State} {p : Port} (hs : Keeps s0 s) :
    Keeps s0 (loseMailboxes s p) := by
  unfold loseMailboxes
  with_reducible repeat' first | assumption | refine fun _ => ?_ | apply State.updPort_keeps | apply State.updDev_keeps | apply cancelLoads_keeps | apply mapDies_keeps | apply Keeps.ite | (apply PortState.ok_same; assumption; rfl; rfl)

theorem keptPages_wf (fw : Option FwUpdate) (p : Port) {m : Memory} (h : m.wf = true) : (keptPages fw p m).wf = true := by
  unfold keptPages
  split
  · split
    · exact memRange_wf _ _ h
    · rfl
  · rfl

theorem resetPort_keeps {s0 s : State} {p : Port} (hs : Keeps s0 s) :
    Keeps s0 (resetPort s p) :=
  State.updPort_keeps (loseMailboxes_keeps (portGoesDown_keeps hs)) (fun h => ⟨h.1, keptPages_wf _ _ h.2⟩)

theorem endUpdate_keeps {s0 s : State} {status : Nat} {detail : Nat} (hs : Keeps s0 s) :
    Keeps s0 (endUpdate s status detail) := by
  unfold endUpdate
  with_reducible repeat' first | assumption | refine fun _ => ?_ | apply respondTo_keeps | apply refreshState_keeps | apply State.updDev_keeps | split

theorem hubLeaves_keeps {s0 s : State} {h : Hub} {fault : Bool} (hs : Keeps s0 s) :
    Keeps s0 (hubLeaves s h fault) := by
  unfold hubLeaves
  with_reducible repeat' first | assumption | refine fun _ => ?_ | apply loseMailboxes_keeps | apply State.updHub_keeps | apply endUpdate_keeps | apply noteFault_keeps | apply requestSlice_keeps | apply State.updDev_keeps | apply refreshState_keeps | apply Keeps.ite

theorem dropWorgons_keeps {s0 s : State} {h : Hub} (hs : Keeps s0 s) :
    Keeps s0 (dropWorgons s h) := by
  unfold dropWorgons
  with_reducible repeat' first | assumption | refine fun _ => ?_ | apply moveLink_keeps | apply State.updWorgon_keeps | apply Keeps.foldl | apply FarTier.foldl_ok | apply CoreCtx.foldl_ok

theorem resetHub_keeps {s0 s : State} {h : Hub} {phase : BootPhase} {fault : Bool} (hs : Keeps s0 s) :
    Keeps s0 (resetHub s h phase fault) := by
  unfold resetHub
  with_reducible repeat' first | assumption | refine fun _ => ?_ | apply hubLeaves_keeps | apply dropWorgons_keeps | apply resetPort_keeps | apply updLife_keeps | apply State.updHub_keeps | apply State.updPort_keeps | apply Keeps.ite | (apply PortState.ok_same; assumption; rfl; rfl)

end Sys2Proof.Machine
end

