-- ==== Sys2Proof/Laws/KeepsRows.lean ====
section
/-! SUPPORT. `Keeps` for the rows of the table and what they call: one lemma per operation, then every command at once. -/

namespace Sys2Proof.Machine

open Sys2Proof

/-! Machine/Boot. -/

theorem noteConfig_keeps {s0 s : State} {h : Hub} {digest : List Byte} {what : Nat} (hs : Keeps s0 s) :
    Keeps s0 (noteConfig s h digest what) := by
  unfold noteConfig
  with_reducible repeat' first | assumption | refine fun _ => ?_ | apply append_keeps

theorem noteFirmware_keeps {s0 s : State} {h : Hub} {digest : Digest} {iface : Nat} {status : Nat} (hs : Keeps s0 s) :
    Keeps s0 (noteFirmware s h digest iface status) := by
  unfold noteFirmware
  with_reducible repeat' first | assumption | refine fun _ => ?_ | apply append_keeps

theorem noteBoot_keeps {s0 s : State} {h : Hub} {cause : Nat} {status : Nat} (hs : Keeps s0 s) :
    Keeps s0 (noteBoot s h cause status) := by
  unfold noteBoot
  with_reducible repeat' first | assumption | refine fun _ => ?_ | apply append_keeps

theorem configureHub_keeps {s0 s : State} {h : Hub} (hs : Keeps s0 s) :
    Keeps s0 (configureHub s h) := by
  unfold configureHub
  with_reducible repeat' first | assumption | refine fun _ => ?_ | apply noteConfig_keeps | apply State.updHub_keeps | apply Keeps.ite | split

theorem startImage_keeps {s0 s : State} {h : Hub} {b : List Byte} (hs : Keeps s0 s) :
    Keeps s0 (startImage s h b) := by
  unfold startImage
  with_reducible repeat' first | assumption | refine fun _ => ?_ | apply noteFirmware_keeps | apply State.updHub_keeps | apply configureHub_keeps | apply State.updRecord_keeps | apply State.updDev_keeps | apply Keeps.ite

theorem execImageOffer_keeps {s0 : State} {hub : Hub} {source : OfferSource} {image : List Byte} {s : State} (hs : Keeps s0 s) :
    KeepsR s0 (execImageOffer hub source image s) := by
  unfold execImageOffer
  with_reducible repeat' first | assumption | refine fun _ => ?_ | apply State.updHub_keeps | apply KeepsR.ite | apply Keeps.ite | apply KeepsR.next | exact KeepsR.fault

theorem execBootImage_keeps {s0 : State} {rq : MbxReq} {s : State} (hs : Keeps s0 s) :
    KeepsR s0 (execBootImage rq s) := by
  unfold execBootImage
  with_reducible repeat' first | assumption | refine fun _ => ?_ | apply mailbox_keeps | apply Reply.fail_keeps | apply State.updHub_keeps | apply KeepsR.ite | apply Keeps.ite | apply KeepsR.next | exact KeepsR.fault | apply KeepsReply.ite | apply KeepsReply.done | apply KeepsReply.stay | refine Keeps.ofNext (by assumption) ?_ | split

theorem verifyRejoin_keeps {s0 s : State} {h : Hub} {r : Rejoin} {b : List Byte} (hs : Keeps s0 s) :
    Keeps s0 (verifyRejoin s h r b) := by
  unfold verifyRejoin
  with_reducible repeat' first | assumption | refine fun _ => ?_ | apply noteFirmware_keeps | apply State.updHub_keeps | apply startImage_keeps | apply noteConfig_keeps | apply Keeps.ite | split

theorem execImageVerified_keeps {s0 : State} {hub : Hub} {s : State} (hs : Keeps s0 s) :
    KeepsR s0 (execImageVerified hub s) := by
  unfold execImageVerified
  with_reducible repeat' first | assumption | refine fun _ => ?_ | apply verifyRejoin_keeps | apply respondTo_keeps | apply noteFirmware_keeps | apply State.updHub_keeps | apply startImage_keeps | apply KeepsR.ite | apply Keeps.ite | apply KeepsR.next | exact KeepsR.fault | split

theorem coresOk_nil : coresOk [] := fun _ hc => nomatch hc

theorem powerUpTables_keeps {s0 s : State} (hs : Keeps s0 s) : Keeps s0 (powerUpTables s) :=
  ⟨hs.1, fun h => FarTier.settled_keeps (hs.2.1 h), hs.2.2.1, hs.2.2.2.1, fun _ => coresOk_nil⟩

theorem loadRoles_keeps {s0 s : State} {c : List Byte} (hs : Keeps s0 s) :
    Keeps s0 (loadRoles s c) := by
  unfold loadRoles
  with_reducible repeat' first | assumption | refine fun _ => ?_ | apply State.updFab_keeps | apply Keeps.foldl | apply FarTier.foldl_ok | apply CoreCtx.foldl_ok

theorem loadBoard_keeps {s0 s : State} (hs : Keeps s0 s) :
    Keeps s0 (loadBoard s) := by
  unfold loadBoard
  with_reducible repeat' first | assumption | refine fun _ => ?_ | apply State.updPwr_keeps | apply loadRoles_keeps | split

theorem romRoles_keeps {s0 s : State} (hs : Keeps s0 s) :
    Keeps s0 (romRoles s) := by
  unfold romRoles
  with_reducible repeat' first | assumption | refine fun _ => ?_ | apply loadRoles_keeps | apply Keeps.ite | split

theorem firstLead_keeps {s0 s : State} {h : Hub} (hs : Keeps s0 s) :
    Keeps s0 (firstLead s h) := by
  unfold firstLead
  with_reducible repeat' first | assumption | refine fun _ => ?_ | apply powerUpTables_keeps | apply State.updDev_keeps | apply updLife_keeps | apply State.updHub_keeps | apply noteBoot_keeps | apply loadBoard_keeps

theorem joinOther_keeps {s0 s : State} {h : Hub} (hs : Keeps s0 s) :
    Keeps s0 (joinOther s h) := by
  unfold joinOther
  with_reducible repeat' first | assumption | refine fun _ => ?_ | apply refreshState_keeps | apply noteBoot_keeps | apply State.updHub_keeps | apply noteConfig_keeps | apply Keeps.ite

theorem execHubJoin_keeps {s0 s : State} (hs : Keeps s0 s) :
    KeepsR s0 (execHubJoin s) := by
  unfold execHubJoin
  with_reducible repeat' first | assumption | refine fun _ => ?_ | apply firstLead_keeps | apply joinOther_keeps | apply KeepsR.ite | apply Keeps.ite | apply KeepsR.next | exact KeepsR.fault | split

theorem execJoinTimeout_keeps {s0 s : State} (hs : Keeps s0 s) :
    KeepsR s0 (execJoinTimeout s) := by
  unfold execJoinTimeout
  with_reducible repeat' first | assumption | refine fun _ => ?_ | apply firstLead_keeps | apply KeepsR.ite | apply Keeps.ite | apply KeepsR.next | exact KeepsR.fault | split

theorem selfTestAll_keeps {s0 s : State} {failed : List Nat} (hs : Keeps s0 s) :
    Keeps s0 (selfTestAll s failed) := by
  unfold selfTestAll
  with_reducible repeat' first | assumption | refine fun _ => ?_ | apply State.updPhys_keeps | apply Keeps.foldl | apply FarTier.foldl_ok | apply CoreCtx.foldl_ok | apply Keeps.ite

theorem mapDie_keeps {s0 s : State} {d : Nat} (hs : Keeps s0 s) :
    Keeps s0 (mapDie s d) := by
  unfold mapDie
  with_reducible repeat' first | assumption | refine fun _ => ?_ | apply State.updPhys_keeps | apply Keeps.foldl | apply FarTier.foldl_ok | apply CoreCtx.foldl_ok

theorem mapAll_keeps {s0 s : State} (hs : Keeps s0 s) :
    Keeps s0 (mapAll s) := by
  unfold mapAll
  with_reducible repeat' first | assumption | refine fun _ => ?_ | apply mapDie_keeps | apply Keeps.foldl | apply FarTier.foldl_ok | apply CoreCtx.foldl_ok

theorem enterReady_keeps {s0 s : State} (hs : Keeps s0 s) :
    Keeps s0 (enterReady s) := by
  unfold enterReady
  with_reducible repeat' first | assumption | refine fun _ => ?_ | apply State.updHub_keeps | apply postBoth_keeps | apply State.updDev_keeps | apply Keeps.ite

theorem powerRegions_keeps {s0 s : State} (hs : Keeps s0 s) :
    Keeps s0 (powerRegions s) := by
  unfold powerRegions
  with_reducible repeat' first | assumption | refine fun _ => ?_ | apply State.updDie_keeps | apply Keeps.foldl | apply FarTier.foldl_ok | apply CoreCtx.foldl_ok

theorem noteTests_keeps {b s0 s : State} {failed : List Nat} (hs : Keeps s0 s) :
    Keeps s0 (noteTests b failed s) := by
  unfold noteTests
  refine Keeps.foldl hs fun u p hu => ?_
  split
  · exact hu
  · exact noteRepair_keeps hu
  · exact updLife_keeps (noteRepair_keeps hu)
  · exact hu

theorem execComputePowerUpStep_keeps {s0 : State} {railsOk : Bool} {failed : List Nat} {s : State} (hs : Keeps s0 s) :
    KeepsR s0 (execComputePowerUpStep railsOk failed s) := by
  unfold execComputePowerUpStep
  with_reducible repeat' first | assumption | refine fun _ => ?_ | apply State.updDev_keeps | apply freeBytes_keeps | apply postBoth_keeps | apply append_keeps | apply loseFarStack_keeps | apply loseNearStack_keeps | apply State.updNear_keeps | apply powerRegions_keeps | apply noteTests_keeps | apply selfTestAll_keeps | apply enterReady_keeps | apply mapAll_keeps | apply Keeps.foldl | apply FarTier.foldl_ok | apply CoreCtx.foldl_ok | apply KeepsR.ite | apply Keeps.ite | apply KeepsR.next | exact KeepsR.fault | refine Keeps.ofSnd (by assumption) ?_ | split

theorem applyConfig_keeps {s0 s : State} {c : List Byte} (hs : Keeps s0 s) :
    Keeps s0 (applyConfig s c) := by
  unfold applyConfig
  with_reducible repeat' first | assumption | refine fun _ => ?_ | apply State.updRecord_keeps | apply State.updDev_keeps | apply configureHub_keeps | apply Keeps.ite

theorem execConfigLoad_keeps {s0 : State} {rq : MbxReq} {s : State} (hs : Keeps s0 s) :
    KeepsR s0 (execConfigLoad rq s) := by
  unfold execConfigLoad
  with_reducible repeat' first | assumption | refine fun _ => ?_ | apply mailbox_keeps | apply Reply.fail_keeps | apply Reply.ok_keeps | apply applyConfig_keeps | apply KeepsR.ite | apply Keeps.ite | apply KeepsR.next | exact KeepsR.fault | apply KeepsReply.ite | apply KeepsReply.done | apply KeepsReply.stay | refine Keeps.ofNext (by assumption) ?_ | split

theorem writeCfgData_keeps {s0 s : State} {hub : Hub} {value : W32} (hs : Keeps s0 s) :
    Keeps s0 (writeCfgData s hub value) := by
  unfold writeCfgData
  with_reducible repeat' first | assumption | refine fun _ => ?_ | apply State.updHub_keeps | apply Keeps.ite

theorem execCfgData_keeps {s0 : State} {hub : Hub} {value : W32} {s : State} (hs : Keeps s0 s) :
    KeepsR s0 (execCfgData hub value s) := by
  unfold execCfgData
  with_reducible repeat' first | assumption | refine fun _ => ?_ | apply writeCfgData_keeps | apply KeepsR.ite | apply Keeps.ite | apply KeepsR.next | exact KeepsR.fault

theorem writeCfgPtr_keeps {s0 s : State} {hub : Hub} {value : W32} (hs : Keeps s0 s) :
    Keeps s0 (writeCfgPtr s hub value) := by
  unfold writeCfgPtr
  with_reducible repeat' first | assumption | refine fun _ => ?_ | apply State.updHub_keeps | apply Keeps.ite

theorem execCfgPtr_keeps {s0 : State} {hub : Hub} {value : W32} {s : State} (hs : Keeps s0 s) :
    KeepsR s0 (execCfgPtr hub value s) := by
  unfold execCfgPtr
  with_reducible repeat' first | assumption | refine fun _ => ?_ | apply writeCfgPtr_keeps | apply KeepsR.ite | apply Keeps.ite | apply KeepsR.next | exact KeepsR.fault

theorem writeCfgCtrl_keeps {s0 s : State} {hub : Hub} {value : W32} (hs : Keeps s0 s) :
    Keeps s0 (writeCfgCtrl s hub value) := by
  unfold writeCfgCtrl
  with_reducible repeat' first | assumption | refine fun _ => ?_ | apply writeCfgPtr_keeps | apply State.updHub_keeps | apply applyConfig_keeps | apply Keeps.ite | split

theorem execGo_keeps {s0 : State} {hub : Hub} {value : W32} {s : State} (hs : Keeps s0 s) :
    KeepsR s0 (execGo hub value s) := by
  unfold execGo
  with_reducible repeat' first | assumption | refine fun _ => ?_ | apply writeCfgCtrl_keeps | apply KeepsR.ite | apply Keeps.ite | apply KeepsR.next | exact KeepsR.fault | split

theorem writeSbStatus_keeps {s0 s : State} {hub : Hub} {v : Nat} (hs : Keeps s0 s) :
    Keeps s0 (writeSbStatus s hub v) := by
  unfold writeSbStatus
  with_reducible repeat' first | assumption | refine fun _ => ?_ | apply State.updHub_keeps

theorem sidebandWrite_keeps {s0 s : State} {hub : Hub} {offset : Nat} {data : List Byte} (hs : Keeps s0 s) :
    Keeps s0 (sidebandWrite s hub offset data) := by
  unfold sidebandWrite
  with_reducible repeat' first | assumption | refine fun _ => ?_ | apply writeSbStatus_keeps | apply writeCfgData_keeps | apply writeCfgCtrl_keeps | apply Keeps.ite

theorem execRegisterWrite_keeps {s0 : State} {path : RegPath} {offset : Nat} {data : List Byte} {s : State} (hs : Keeps s0 s) :
    KeepsR s0 (execRegisterWrite path offset data s) := by
  unfold execRegisterWrite
  with_reducible repeat' first | assumption | refine fun _ => ?_ | apply bar0Access_keeps | apply sidebandWrite_keeps | apply KeepsR.ite | apply Keeps.ite | apply KeepsR.next | exact KeepsR.fault | split

theorem losePower_keeps {s0 s : State} (hs : Keeps s0 s) : Keeps s0 (losePower s) := by
  unfold losePower
  refine Keeps.ite hs ?_
  exact ⟨hs.1, fun _ => ⟨rfl, rfl⟩, hs.2.2.1, hs.2.2.2.1, fun _ => coresOk_nil⟩

theorem bothHeld_keeps {s0 s : State} (hs : Keeps s0 s) :
    Keeps s0 (bothHeld s) := by
  unfold bothHeld
  with_reducible repeat' first | assumption | refine fun _ => ?_ | apply State.updFab_keeps | apply State.updPwr_keeps | apply State.updDev_keeps

theorem execPorAssert_keeps {s0 : State} {hub : Hub} {s : State} (hs : Keeps s0 s) :
    KeepsR s0 (execPorAssert hub s) := by
  unfold execPorAssert
  with_reducible repeat' first | assumption | refine fun _ => ?_ | apply State.updHub_keeps | apply resetHub_keeps | apply losePower_keeps | apply bothHeld_keeps | apply KeepsR.ite | apply Keeps.ite | apply KeepsR.next | exact KeepsR.fault

theorem execPorRelease_keeps {s0 : State} {hub : Hub} {strap : Straps} {railsOk : Bool} {sris : Bool} {s : State} (hs : Keeps s0 s) :
    KeepsR s0 (execPorRelease hub strap railsOk sris s) := by
  unfold execPorRelease
  with_reducible repeat' first | assumption | refine fun _ => ?_ | apply romRoles_keeps | apply State.updDev_keeps | apply State.updHub_keeps | apply KeepsR.ite | apply Keeps.ite | apply KeepsR.next | exact KeepsR.fault

theorem execRailSettle_keeps {s0 : State} {hub : Hub} {s : State} (hs : Keeps s0 s) :
    KeepsR s0 (execRailSettle hub s) := by
  unfold execRailSettle
  with_reducible repeat' first | assumption | refine fun _ => ?_ | apply State.updHub_keeps | apply KeepsR.ite | apply Keeps.ite | apply KeepsR.next | exact KeepsR.fault

theorem execHrst_keeps {s0 : State} {hub : Hub} {s : State} (hs : Keeps s0 s) :
    KeepsR s0 (execHrst hub s) := by
  unfold execHrst
  with_reducible repeat' first | assumption | refine fun _ => ?_ | apply State.updHub_keeps | apply resetHub_keeps | apply KeepsR.ite | apply Keeps.ite | apply KeepsR.next | exact KeepsR.fault

theorem execPwrfail_keeps {s0 s : State} (hs : Keeps s0 s) :
    KeepsR s0 (execPwrfail s) := by
  unfold execPwrfail
  with_reducible repeat' first | assumption | refine fun _ => ?_ | apply State.updRecord_keeps | apply State.updHub_keeps | apply KeepsR.next | exact KeepsR.fault

theorem execLeadAbsentTimeout_keeps {s0 s : State} (hs : Keeps s0 s) :
    KeepsR s0 (execLeadAbsentTimeout s) := by
  unfold execLeadAbsentTimeout
  with_reducible repeat' first | assumption | refine fun _ => ?_ | apply State.updDev_keeps | apply powerUpTables_keeps | apply powerOffDie_keeps | apply Keeps.foldl | apply FarTier.foldl_ok | apply CoreCtx.foldl_ok | apply KeepsR.ite | apply Keeps.ite | apply KeepsR.next | exact KeepsR.fault | split

theorem execPortDown_keeps {s0 : State} {port : Port} {s : State} (hs : Keeps s0 s) :
    KeepsR s0 (execPortDown port s) := by
  unfold execPortDown
  with_reducible repeat' first | assumption | refine fun _ => ?_ | apply portGoesDown_keeps | apply KeepsR.next | exact KeepsR.fault

theorem execPortUp_keeps {s0 : State} {link : PortLink} {s : State} (hs : Keeps s0 s) :
    KeepsR s0 (execPortUp link s) := by
  unfold execPortUp
  with_reducible repeat' first | assumption | refine fun _ => ?_ | apply portComesUp_keeps | apply KeepsR.ite | apply Keeps.ite | apply KeepsR.next | exact KeepsR.fault

theorem execPerst_keeps {s0 : State} {port : Port} {s : State} (hs : Keeps s0 s) :
    KeepsR s0 (execPerst port s) := by
  unfold execPerst
  with_reducible repeat' first | assumption | refine fun _ => ?_ | apply portGoesDown_keeps | apply KeepsR.next | exact KeepsR.fault

theorem execHubFault_keeps {s0 : State} {hub : Hub} {s : State} (hs : Keeps s0 s) :
    KeepsR s0 (execHubFault hub s) := by
  unfold execHubFault
  with_reducible repeat' first | assumption | refine fun _ => ?_ | apply State.updHub_keeps | apply hubLeaves_keeps | apply portGoesDown_keeps | apply KeepsR.ite | apply Keeps.ite | apply KeepsR.next | exact KeepsR.fault

theorem execHeartbeatTimeout_keeps {s0 : State} {hub : Hub} {s : State} (hs : Keeps s0 s) :
    KeepsR s0 (execHeartbeatTimeout hub s) := by
  unfold execHeartbeatTimeout
  with_reducible repeat' first | assumption | refine fun _ => ?_ | apply State.updHub_keeps | apply hubLeaves_keeps | apply portGoesDown_keeps | apply KeepsR.ite | apply Keeps.ite | apply KeepsR.next | exact KeepsR.fault

theorem execDebugPortHalt_keeps {s0 : State} {hub : Hub} {step : Bool} {s : State} (hs : Keeps s0 s) :
    KeepsR s0 (execDebugPortHalt hub step s) := by
  unfold execDebugPortHalt
  with_reducible repeat' first | assumption | refine fun _ => ?_ | apply State.updHub_keeps | apply KeepsR.ite | apply Keeps.ite | apply KeepsR.next | exact KeepsR.fault

/-! Machine/Service. -/

theorem execCoreRetire_keeps {s0 : State} {rq : MbxReq} {s : State} (hs : Keeps s0 s) :
    KeepsR s0 (execCoreRetire rq s) := by
  unfold execCoreRetire
  with_reducible repeat' first | assumption | refine fun _ => ?_ | apply mailbox_keeps | apply Reply.fail_keeps | apply settleRetire_keeps | apply State.updDev_keeps | apply KeepsR.ite | apply Keeps.ite | apply KeepsR.next | exact KeepsR.fault | apply KeepsReply.ite | apply KeepsReply.done | apply KeepsReply.stay | refine Keeps.ofNext (by assumption) ?_ | ((first | lift_lets | skip); intro x; first | (have hx : Keeps s0 x := by (simp only [x]; repeat' first | assumption | refine fun _ => ?_ | apply mailbox_keeps | apply Reply.fail_keeps | apply settleRetire_keeps | apply State.updDev_keeps | apply KeepsR.ite | apply Keeps.ite | apply KeepsR.next | exact KeepsR.fault | apply KeepsReply.ite | apply KeepsReply.done | apply KeepsReply.stay | refine Keeps.ofNext (by assumption) ?_ | split)); clear_value x | skip) | split

theorem execCoreInfo_keeps {s0 : State} {rq : MbxReq} {s : State} (hs : Keeps s0 s) :
    KeepsR s0 (execCoreInfo rq s) := by
  unfold execCoreInfo
  with_reducible repeat' first | assumption | refine fun _ => ?_ | apply mailbox_keeps | apply Reply.okWith_keeps | apply KeepsR.next | exact KeepsR.fault | apply KeepsReply.ite | apply KeepsReply.done | apply KeepsReply.stay | refine Keeps.ofNext (by assumption) ?_

theorem startTest_keeps {s0 s : State} {p : Nat} (hs : Keeps s0 s) :
    Keeps s0 (startTest s p) := by
  unfold startTest
  with_reducible repeat' first | assumption | refine fun _ => ?_ | apply State.updPhys_keeps

theorem startWaiting_keeps {s0 s : State} {d : Nat} (hs : Keeps s0 s) :
    Keeps s0 (startWaiting s d) := by
  unfold startWaiting
  with_reducible repeat' first | assumption | refine fun _ => ?_ | apply State.updDie_keeps | apply respondTo_keeps | apply startTest_keeps | apply Keeps.foldl | apply FarTier.foldl_ok | apply CoreCtx.foldl_ok | ((first | lift_lets | skip); intro x; first | (have hx : Keeps s0 x := by (simp only [x]; repeat' first | assumption | refine fun _ => ?_ | apply State.updDie_keeps | apply respondTo_keeps | apply startTest_keeps | apply Keeps.foldl | apply FarTier.foldl_ok | apply CoreCtx.foldl_ok | split)); clear_value x | skip) | split

theorem startNextTest_keeps {s0 s : State} {d : Nat} (hs : Keeps s0 s) :
    Keeps s0 (startNextTest s d) := by
  unfold startNextTest
  with_reducible repeat' first | assumption | refine fun _ => ?_ | apply refreshState_keeps | apply startTest_keeps | apply State.updDie_keeps | apply startWaiting_keeps | apply Keeps.foldl | apply FarTier.foldl_ok | apply CoreCtx.foldl_ok | apply Keeps.ite | split

theorem execCoreSelfTestStart_keeps {s0 : State} {die : Fin 8} {s : State} (hs : Keeps s0 s) :
    KeepsR s0 (execCoreSelfTestStart die s) := by
  unfold execCoreSelfTestStart
  with_reducible repeat' first | assumption | refine fun _ => ?_ | apply startNextTest_keeps | apply KeepsR.next | exact KeepsR.fault

theorem execCoreTest_keeps {s0 : State} {rq : MbxReq} {s : State} (hs : Keeps s0 s) :
    KeepsR s0 (execCoreTest rq s) := by
  unfold execCoreTest
  with_reducible repeat' first | assumption | refine fun _ => ?_ | apply mailbox_keeps | apply Reply.fail_keeps | apply startNextTest_keeps | apply State.updDie_keeps | apply KeepsR.ite | apply Keeps.ite | apply KeepsR.next | exact KeepsR.fault | apply KeepsReply.ite | apply KeepsReply.done | apply KeepsReply.stay | refine Keeps.ofNext (by assumption) ?_

theorem settleDieUp_keeps {s0 s : State} {d : Nat} (hs : Keeps s0 s) :
    Keeps s0 (settleDieUp s d) := by
  unfold settleDieUp
  with_reducible repeat' first | assumption | refine fun _ => ?_ | apply mapDie_keeps | apply State.updDie_keeps | apply respondTo_keeps | apply refreshState_keeps | apply noteRepair_keeps | apply Keeps.ite | split

theorem execCoreSelfTestDone_keeps {s0 : State} {die : Fin 8} {pass : Bool} {s : State} (hs : Keeps s0 s) :
    KeepsR s0 (execCoreSelfTestDone die pass s) := by
  unfold execCoreSelfTestDone
  with_reducible repeat' first | assumption | refine fun _ => ?_ | apply State.updPhys_keeps | apply noteRepair_keeps | apply updLife_keeps | apply State.updDie_keeps | apply respondTo_keeps | apply settleDieUp_keeps | apply refreshState_keeps | apply takeSpares_keeps | apply Keeps.foldl | apply FarTier.foldl_ok | apply CoreCtx.foldl_ok | apply KeepsR.ite | apply Keeps.ite | apply KeepsR.next | exact KeepsR.fault | split

theorem execDieDown_keeps {s0 : State} {rq : MbxReq} {s : State} (hs : Keeps s0 s) :
    KeepsR s0 (execDieDown rq s) := by
  unfold execDieDown
  with_reducible repeat' first | assumption | refine fun _ => ?_ | apply mailbox_keeps | apply Reply.fail_keeps | apply Reply.ok_keeps | apply heldStep_keeps | apply refreshState_keeps | apply noteRepair_keeps | apply powerOffDie_keeps | apply endDieWork_keeps | apply KeepsR.ite | apply Keeps.ite | apply KeepsR.next | exact KeepsR.fault | apply KeepsReply.ite | apply KeepsReply.done | apply KeepsReply.stay | refine Keeps.ofNext (by assumption) ?_ | refine Keeps.ofSnd (by assumption) ?_

theorem execDieUp_keeps {s0 : State} {rq : MbxReq} {s : State} (hs : Keeps s0 s) :
    KeepsR s0 (execDieUp rq s) := by
  unfold execDieUp
  with_reducible repeat' first | assumption | refine fun _ => ?_ | apply mailbox_keeps | apply Reply.fail_keeps | apply Reply.ok_keeps | apply heldStep_keeps | apply State.updDie_keeps | apply settleDieUp_keeps | apply startNextTest_keeps | apply KeepsR.ite | apply Keeps.ite | apply KeepsR.next | exact KeepsR.fault | apply KeepsReply.ite | apply KeepsReply.done | apply KeepsReply.stay | refine Keeps.ofNext (by assumption) ?_ | refine Keeps.ofSnd (by assumption) ?_

theorem execSvcStatus_keeps {s0 : State} {rq : MbxReq} {s : State} (hs : Keeps s0 s) :
    KeepsR s0 (execSvcStatus rq s) := by
  unfold execSvcStatus
  with_reducible repeat' first | assumption | refine fun _ => ?_ | apply mailbox_keeps | apply Reply.okWith_keeps | apply KeepsR.next | exact KeepsR.fault | apply KeepsReply.ite | apply KeepsReply.done | apply KeepsReply.stay | refine Keeps.ofNext (by assumption) ?_

theorem execHubSwap_keeps {s0 : State} {rq : MbxReq} {s : State} (hs : Keeps s0 s) :
    KeepsR s0 (execHubSwap rq s) := by
  unfold execHubSwap
  with_reducible repeat' first | assumption | refine fun _ => ?_ | apply mailbox_keeps | apply Reply.fail_keeps | apply requestSlice_keeps | apply KeepsR.ite | apply Keeps.ite | apply KeepsR.next | exact KeepsR.fault | apply KeepsReply.ite | apply KeepsReply.done | apply KeepsReply.stay | refine Keeps.ofNext (by assumption) ?_

theorem answerRejoin_keeps {s0 s : State} {r : Rejoin} {status : Nat} {detail : Nat} (hs : Keeps s0 s) :
    Keeps s0 (answerRejoin s r status detail) := by
  unfold answerRejoin
  with_reducible repeat' first | assumption | refine fun _ => ?_ | apply respondTo_keeps | apply endUpdate_keeps | apply State.updDev_keeps | apply updLife_keeps | apply Keeps.ite

theorem startRejoin_keeps {s0 s : State} {h : Hub} {img : Option (List Byte)} {r : Rejoin} (hs : Keeps s0 s) :
    Keeps s0 (startRejoin s h img r) := by
  unfold startRejoin
  with_reducible repeat' first | assumption | refine fun _ => ?_ | apply resetHub_keeps | apply State.updHub_keeps | apply answerRejoin_keeps | apply refreshState_keeps | apply noteBoot_keeps | split

theorem execHubRejoin_keeps {s0 : State} {rq : MbxReq} {s : State} (hs : Keeps s0 s) :
    KeepsR s0 (execHubRejoin rq s) := by
  unfold execHubRejoin
  with_reducible repeat' first | assumption | refine fun _ => ?_ | apply mailbox_keeps | apply Reply.fail_keeps | apply startRejoin_keeps | apply KeepsR.ite | apply Keeps.ite | apply KeepsR.next | exact KeepsR.fault | apply KeepsReply.ite | apply KeepsReply.done | apply KeepsReply.stay | refine Keeps.ofNext (by assumption) ?_

theorem execFwLoad_keeps {s0 : State} {rq : MbxReq} {s : State} (hs : Keeps s0 s) :
    KeepsR s0 (execFwLoad rq s) := by
  unfold execFwLoad
  with_reducible repeat' first | assumption | refine fun _ => ?_ | apply mailbox_keeps | apply Reply.fail_keeps | apply startRejoin_keeps | apply State.updDev_keeps | apply KeepsR.ite | apply Keeps.ite | apply KeepsR.next | exact KeepsR.fault | apply KeepsReply.ite | apply KeepsReply.done | apply KeepsReply.stay | refine Keeps.ofNext (by assumption) ?_ | split

theorem execHubRejoinDone_keeps {s0 : State} {hub : Hub} {s : State} (hs : Keeps s0 s) :
    KeepsR s0 (execHubRejoinDone hub s) := by
  unfold execHubRejoinDone
  with_reducible repeat' first | assumption | refine fun _ => ?_ | apply State.updHub_keeps | apply answerRejoin_keeps | apply refreshState_keeps | apply noteBoot_keeps | apply noteRepair_keeps | apply requestSlice_keeps | apply KeepsR.ite | apply Keeps.ite | apply KeepsR.next | exact KeepsR.fault | split

theorem execFirmwareActivation_keeps {s0 s : State} (hs : Keeps s0 s) :
    KeepsR s0 (execFirmwareActivation s) := by
  unfold execFirmwareActivation
  with_reducible repeat' first | assumption | refine fun _ => ?_ | apply State.updDev_keeps | apply giveLead_keeps | apply startRejoin_keeps | apply endUpdate_keeps | apply KeepsR.ite | apply Keeps.ite | apply KeepsR.next | exact KeepsR.fault | split

theorem execBboxInfo_keeps {s0 : State} {rq : MbxReq} {s : State} (hs : Keeps s0 s) :
    KeepsR s0 (execBboxInfo rq s) := by
  unfold execBboxInfo
  with_reducible repeat' first | assumption | refine fun _ => ?_ | apply mailbox_keeps | apply freeBytes_keeps | apply Reply.okWith_keeps | apply KeepsR.ite | apply Keeps.ite | apply KeepsR.next | exact KeepsR.fault | apply KeepsReply.ite | apply KeepsReply.done | apply KeepsReply.stay | refine Keeps.ofNext (by assumption) ?_ | refine Keeps.ofSnd (by assumption) ?_ | split

theorem execBboxRead_keeps {s0 : State} {rq : MbxReq} {s : State} (hs : Keeps s0 s) :
    KeepsR s0 (execBboxRead rq s) := by
  unfold execBboxRead
  with_reducible repeat' first | assumption | refine fun _ => ?_ | apply mailbox_keeps | apply freeBytes_keeps | apply Reply.okWith_keeps | apply KeepsR.ite | apply Keeps.ite | apply KeepsR.next | exact KeepsR.fault | apply KeepsReply.ite | apply KeepsReply.done | apply KeepsReply.stay | refine Keeps.ofNext (by assumption) ?_ | refine Keeps.ofSnd (by assumption) ?_ | split

theorem execRecordFault_keeps {s0 s : State} (hs : Keeps s0 s) :
    KeepsR s0 (execRecordFault s) := by
  unfold execRecordFault
  with_reducible repeat' first | assumption | refine fun _ => ?_ | apply noteFault_keeps | apply State.updHub_keeps | apply State.updRecord_keeps | apply postBoth_keeps | apply KeepsR.ite | apply Keeps.ite | apply KeepsR.next | exact KeepsR.fault

theorem execRecordRecovered_keeps {s0 s : State} (hs : Keeps s0 s) :
    KeepsR s0 (execRecordRecovered s) := by
  unfold execRecordRecovered
  with_reducible repeat' first | assumption | refine fun _ => ?_ | apply State.updRecord_keeps | apply State.updHub_keeps | apply append_keeps | apply Keeps.foldl | apply FarTier.foldl_ok | apply CoreCtx.foldl_ok | apply KeepsR.ite | apply Keeps.ite | apply KeepsR.next | exact KeepsR.fault

/-! Machine/Security. -/

theorem commitIndex_keeps {s0 s : State} {i : Nat} (hs : Keeps s0 s) :
    Keeps s0 (commitIndex s i) := by
  unfold commitIndex
  with_reducible repeat' first | assumption | refine fun _ => ?_ | apply State.updRecord_keeps | apply append_keeps | apply Keeps.ite

theorem execAttest_keeps {s0 : State} {rq : MbxReq} {s : State} (hs : Keeps s0 s) :
    KeepsR s0 (execAttest rq s) := by
  unfold execAttest
  with_reducible repeat' first | assumption | refine fun _ => ?_ | apply mailbox_keeps | apply Reply.fail_keeps | apply Reply.okWith_keeps | apply hostWrite_keeps | apply commitIndex_keeps | apply KeepsR.ite | apply Keeps.ite | apply KeepsR.next | exact KeepsR.fault | apply KeepsReply.ite | apply KeepsReply.done | apply KeepsReply.stay | refine Keeps.ofNext (by assumption) ?_

theorem execIdentityGet_keeps {s0 : State} {rq : MbxReq} {s : State} (hs : Keeps s0 s) :
    KeepsR s0 (execIdentityGet rq s) := by
  unfold execIdentityGet
  with_reducible repeat' first | assumption | refine fun _ => ?_ | apply mailbox_keeps | apply Reply.fail_keeps | apply Reply.okWith_keeps | apply hostWrite_keeps | apply KeepsR.ite | apply Keeps.ite | apply KeepsR.next | exact KeepsR.fault | apply KeepsReply.ite | apply KeepsReply.done | apply KeepsReply.stay | refine Keeps.ofNext (by assumption) ?_

theorem execIntegratorEnroll_keeps {s0 : State} {rq : MbxReq} {s : State} (hs : Keeps s0 s) :
    KeepsR s0 (execIntegratorEnroll rq s) := by
  unfold execIntegratorEnroll
  with_reducible repeat' first | assumption | refine fun _ => ?_ | apply mailbox_keeps | apply Reply.fail_keeps | apply Reply.ok_keeps | apply State.updRecord_keeps | apply KeepsR.ite | apply Keeps.ite | apply KeepsR.next | exact KeepsR.fault | apply KeepsReply.ite | apply KeepsReply.done | apply KeepsReply.stay | refine Keeps.ofNext (by assumption) ?_

theorem execProtSet_keeps {s0 : State} {rq : MbxReq} {s : State} (hs : Keeps s0 s) :
    KeepsR s0 (execProtSet rq s) := by
  unfold execProtSet
  with_reducible repeat' first | assumption | refine fun _ => ?_ | apply mailbox_keeps | apply Reply.fail_keeps | apply requestSlice_keeps | apply KeepsR.ite | apply Keeps.ite | apply KeepsR.next | exact KeepsR.fault | apply KeepsReply.ite | apply KeepsReply.done | apply KeepsReply.stay | refine Keeps.ofNext (by assumption) ?_

theorem execRegionSet_keeps {s0 : State} {rq : MbxReq} {s : State} (hs : Keeps s0 s) :
    KeepsR s0 (execRegionSet rq s) := by
  unfold execRegionSet
  with_reducible repeat' first | assumption | refine fun _ => ?_ | apply mailbox_keeps | apply Reply.fail_keeps | apply Reply.ok_keeps | apply deviceWrite_keeps | apply KeepsR.ite | apply Keeps.ite | apply KeepsR.next | exact KeepsR.fault | apply KeepsReply.ite | apply KeepsReply.done | apply KeepsReply.stay | refine Keeps.ofNext (by assumption) ?_

theorem execSvnCommit_keeps {s0 : State} {rq : MbxReq} {s : State} (hs : Keeps s0 s) :
    KeepsR s0 (execSvnCommit rq s) := by
  unfold execSvnCommit
  with_reducible repeat' first | assumption | refine fun _ => ?_ | apply mailbox_keeps | apply Reply.fail_keeps | apply requestSlice_keeps | apply KeepsR.ite | apply Keeps.ite | apply KeepsR.next | exact KeepsR.fault | apply KeepsReply.ite | apply KeepsReply.done | apply KeepsReply.stay | refine Keeps.ofNext (by assumption) ?_

/-! Machine/Programs. -/

theorem storeProgram_keeps {s0 s : State} {b : List Byte} {body : Body} (hs : Keeps s0 s) :
    Keeps s0 (storeProgram s b body) := by
  unfold storeProgram
  with_reducible repeat' first | assumption | refine fun _ => ?_ | apply State.updTab_keeps

theorem noteDecoded_keeps {s0 s : State} {b : List Byte} {body : Body} (hs : Keeps s0 s) :
    Keeps s0 (noteDecoded s b body) := by
  unfold noteDecoded
  with_reducible repeat' first | assumption | refine fun _ => ?_ | apply State.updTab_keeps | apply Keeps.ite

theorem execProgramLoad_keeps {s0 : State} {rq : MbxReq} {body : Body} {s : State} (hs : Keeps s0 s) :
    KeepsR s0 (execProgramLoad rq body s) := by
  unfold execProgramLoad
  with_reducible repeat' first | assumption | refine fun _ => ?_ | apply mailbox_keeps | apply Reply.fail_keeps | apply noteDecoded_keeps | apply Reply.okWith_keeps | apply storeProgram_keeps | apply KeepsR.ite | apply Keeps.ite | apply KeepsR.next | exact KeepsR.fault | apply KeepsReply.ite | apply KeepsReply.done | apply KeepsReply.stay | refine Keeps.ofNext (by assumption) ?_ | ((first | lift_lets | skip); intro x; first | (have hx : Keeps s0 x := by (simp only [x]; repeat' first | assumption | refine fun _ => ?_ | apply mailbox_keeps | apply Reply.fail_keeps | apply noteDecoded_keeps | apply Reply.okWith_keeps | apply storeProgram_keeps | apply KeepsR.ite | apply Keeps.ite | apply KeepsR.next | exact KeepsR.fault | apply KeepsReply.ite | apply KeepsReply.done | apply KeepsReply.stay | refine Keeps.ofNext (by assumption) ?_ | split)); clear_value x | skip) | split

theorem execProgramUnload_keeps {s0 : State} {rq : MbxReq} {s : State} (hs : Keeps s0 s) :
    KeepsR s0 (execProgramUnload rq s) := by
  unfold execProgramUnload
  with_reducible repeat' first | assumption | refine fun _ => ?_ | apply mailbox_keeps | apply Reply.fail_keeps | apply Reply.ok_keeps | apply State.updTab_keeps | apply KeepsR.ite | apply Keeps.ite | apply KeepsR.next | exact KeepsR.fault | apply KeepsReply.ite | apply KeepsReply.done | apply KeepsReply.stay | refine Keeps.ofNext (by assumption) ?_ | split

/-! Machine/Operands. -/

theorem repairNear_keeps {s0 s : State} {blk : Nat} (hs : Keeps s0 s) :
    Keeps s0 (repairNear s blk) := by
  unfold repairNear
  with_reducible repeat' first | assumption | refine fun _ => ?_ | apply State.updNear_keeps | apply Keeps.ite | ((first | lift_lets | skip); intro x; first | (have hx : Keeps s0 x := by (simp only [x]; repeat' first | assumption | refine fun _ => ?_ | apply State.updNear_keeps | apply Keeps.ite | split)); clear_value x | skip) | split

theorem repairScratch_keeps {s0 s : State} {job : Nat} {core : Nat} {blk : Nat} (hs : Keeps s0 s) :
    Keeps s0 (repairScratch s job core blk) := by
  unfold repairScratch
  with_reducible repeat' first | assumption | refine fun _ => ?_ | apply State.updCore_keeps | apply CoreCtx.store_keeps | apply postLoss_keeps | apply Keeps.ite | split

theorem repairBehind_keeps {s0 : State} {job : Nat} {v : View} {s : State} {blk : Nat} (hs : Keeps s0 s) :
    Keeps s0 (repairBehind job v s blk) := by
  unfold repairBehind
  with_reducible repeat' first | assumption | refine fun _ => ?_ | apply repairScratch_keeps | apply repairNear_keeps | apply repairFar_keeps | apply Keeps.ite

theorem View.wake_keeps {s0 s : State} {v : View} {blks : List Nat} (hs : Keeps s0 s) :
    Keeps s0 (View.wake s v blks) := by
  unfold View.wake
  with_reducible repeat' first | assumption | refine fun _ => ?_ | apply touchStack_keeps | apply touchBlocks_keeps | apply Keeps.foldl | apply FarTier.foldl_ok | apply CoreCtx.foldl_ok | apply Keeps.ite

theorem View.repair_keeps {s0 s : State} {job : Nat} {v : View} {w : Nat} {offs : List Int} (hs : Keeps s0 s) :
    Keeps s0 (View.repair s job v w offs) := by
  unfold View.repair
  with_reducible repeat' first | assumption | refine fun _ => ?_ | apply repairBehind_keeps | apply View.wake_keeps | apply Keeps.foldl | apply FarTier.foldl_ok | apply CoreCtx.foldl_ok

theorem View.storeRuns_keeps {s0 s : State} {v : View} {runs : List (Nat × List Byte)} (hs : Keeps s0 s) :
    Keeps s0 (View.storeRuns s v runs) := by
  unfold View.storeRuns
  with_reducible repeat' first | assumption | refine fun _ => ?_ | apply State.storeScratch_keeps | apply deviceWrite_keeps | apply Keeps.foldl | apply FarTier.foldl_ok | apply CoreCtx.foldl_ok | apply Keeps.ite | split

theorem View.put_keeps {s0 s : State} {v : View} {w : Nat} {items : List (Int × Nat)} (hs : Keeps s0 s) :
    Keeps s0 (View.put s v w items).1 := by
  unfold View.put
  with_reducible repeat' first | assumption | refine fun _ => ?_ | apply View.storeRuns_keeps

/-! Machine/Launch. -/

theorem renameBoundary_keeps {s0 s : State} {num : Nat} {serial : Nat} {prio : Nat} {order : Nat} (hs : Keeps s0 s) :
    Keeps s0 (renameBoundary s num serial prio order) := by
  unfold renameBoundary
  with_reducible repeat' first | assumption | refine fun _ => ?_ | apply mapDies_keeps | apply mapCores_keeps | apply State.updKey_keeps | apply Keeps.ite | (apply CoreCtx.ok_same; assumption; rfl)

theorem beginCmd_keeps {s0 s : State} {q : Queue} {j : Job} (hs : Keeps s0 s) :
    Keeps s0 (beginCmd s q j) := by
  unfold beginCmd
  with_reducible repeat' first | assumption | refine fun _ => ?_ | apply updQueue_keeps | apply updJob_keeps | apply renameBoundary_keeps | apply State.updTab_keeps

theorem wakeBound_keeps {s0 s : State} {c : Cmd} {r : OpRun} (hs : Keeps s0 s) :
    Keeps s0 (wakeBound s c r) := by
  unfold wakeBound
  with_reducible repeat' first | assumption | refine fun _ => ?_ | apply touchRead_keeps | apply Keeps.ite | split

/-! Machine/Plan. -/

theorem startKeys_keeps {s0 s : State} {num : Nat} {serial : Nat} {cls : Nat} {prio : Nat} {order : Nat} {pin : Bool} {sent : List PieceId} {r : OpRun} {ts : List Tile} (hs : Keeps s0 s) :
    Keeps s0 (startKeys s num serial cls prio order pin sent r ts) := by
  unfold startKeys
  with_reducible repeat' first | assumption | refine fun _ => ?_ | apply State.updDie_keeps | apply State.updKey_keeps | apply State.updTab_keeps | apply Keeps.foldl | apply FarTier.foldl_ok | apply CoreCtx.foldl_ok | apply Keeps.ite

theorem urge_keeps {s0 s : State} {prio : Nat} {order : Nat} {need : Nat} {ps : List PieceId} (hs : Keeps s0 s) :
    Keeps s0 (urge s prio order need ps) := by
  unfold urge
  with_reducible repeat' first | assumption | refine fun _ => ?_ | apply State.updKey_keeps | apply Keeps.foldl | apply FarTier.foldl_ok | apply CoreCtx.foldl_ok | apply Keeps.ite

theorem zeroCounters_keeps {s0 s : State} {r : OpRun} {ts : List Tile} (hs : Keeps s0 s) :
    Keeps s0 (zeroCounters s r ts) := by
  unfold zeroCounters
  with_reducible repeat' first | assumption | refine fun _ => ?_ | apply deviceWrite_keeps | apply Keeps.foldl | apply FarTier.foldl_ok | apply CoreCtx.foldl_ok | apply Keeps.ite

theorem launch_keeps {s0 s : State} {q : Queue} {r : OpRun} (hs : Keeps s0 s) :
    Keeps s0 (launch s q r) := by
  unfold launch
  with_reducible repeat' first | assumption | refine fun _ => ?_ | apply urge_keeps | apply zeroCounters_keeps | apply wakeBound_keeps | apply updCmd_keeps | apply startKeys_keeps | apply Keeps.foldl | apply FarTier.foldl_ok | apply CoreCtx.foldl_ok | apply Keeps.ite

theorem runOp_keeps {s0 : State} {num : Nat} {opcode : Nat} {effect : OpRun → State → State} {s : State} (heffect : ∀ x0 x1, Keeps s0 x1 → Keeps s0 (effect x0 x1)) (hs : Keeps s0 s) :
    KeepsR s0 (runOp num opcode effect s) := by
  unfold runOp
  with_reducible repeat' first | assumption | refine fun _ => ?_ | apply abortCmd_keeps | apply beginCmd_keeps | apply launch_keeps | apply heffect | apply KeepsR.ite | apply Keeps.ite | apply KeepsR.next | exact KeepsR.fault | split

/-! Machine/Packets. -/

theorem putWindow_keeps {s0 s : State} {stack : Nat} {p : AccPacket} {w : Window} (hs : Keeps s0 s) :
    Keeps s0 (putWindow s stack p w) := by
  unfold putWindow
  with_reducible repeat' first | assumption | refine fun _ => ?_ | apply State.updFar_keeps | (apply FarTier.ok_same; assumption; rfl; rfl)

theorem applyMerge_keeps {s0 s : State} {j : Job} {addr : Nat} {hdr : List Byte} (hs : Keeps s0 s) :
    Keeps s0 (applyMerge s j addr hdr) := by
  unfold applyMerge
  with_reducible repeat' first | assumption | refine fun _ => ?_ | apply Keeps.ite | apply countOriginated_keeps | apply deviceWrite_keeps

theorem applyAdd_keeps {s0 s : State} {p : AccPacket} (hs : Keeps s0 s) :
    Keeps s0 (applyAdd s p) := by
  unfold applyAdd
  with_reducible repeat' first | assumption | refine fun _ => ?_ | apply deviceWrite_keeps

theorem applyPacket_keeps {s0 s : State} {j : Job} {p : AccPacket} (hs : Keeps s0 s) :
    Keeps s0 (applyPacket s j p) := by
  unfold applyPacket
  with_reducible repeat' first | assumption | refine fun _ => ?_ | apply applyMerge_keeps | apply applyAdd_keeps | apply Keeps.ite

theorem answerPacket_keeps {s0 s : State} {stack : Nat} {p : AccPacket} {o : AccOutcome} (hs : Keeps s0 s) :
    Keeps s0 (answerPacket s stack p o) := by
  unfold answerPacket
  with_reducible repeat' first | assumption | refine fun _ => ?_ | apply State.updFab_keeps | apply sendTo_keeps | apply Keeps.ite

theorem postRejected_keeps {s0 s : State} {job : Nat} {p : AccPacket} (hs : Keeps s0 s) :
    Keeps s0 (postRejected s job p) := by
  unfold postRejected
  with_reducible repeat' first | assumption | refine fun _ => ?_ | apply postBoth_keeps

theorem racePacket_keeps {s0 s : State} {p : AccPacket} (hs : Keeps s0 s) :
    Keeps s0 (racePacket s p) := by
  unfold racePacket
  with_reducible repeat' first | assumption | refine fun _ => ?_ | apply raceWith_keeps | apply Keeps.ite

theorem takePacket_keeps {s0 s : State} {stack : Nat} {j : Job} {p : AccPacket} {w : Window} (hs : Keeps s0 s) :
    Keeps s0 (takePacket s stack j p w) := by
  unfold takePacket
  with_reducible repeat' first | assumption | refine fun _ => ?_ | apply postRejected_keeps | apply updJob_keeps | apply applyPacket_keeps | apply racePacket_keeps | apply answerPacket_keeps | apply putWindow_keeps | apply Keeps.ite

theorem receivePacket_keeps {s0 s : State} {p : AccPacket} (hs : Keeps s0 s) :
    Keeps s0 (receivePacket s p) := by
  unfold receivePacket
  with_reducible repeat' first | assumption | refine fun _ => ?_ | apply answerPacket_keeps | apply postRejected_keeps | apply postBoth_keeps | apply takePacket_keeps | apply Keeps.ite | split

theorem execAccumulatePacket_keeps {s0 : State} {packet : AccPacket} {s : State} (hs : Keeps s0 s) :
    KeepsR s0 (execAccumulatePacket packet s) := by
  unfold execAccumulatePacket
  with_reducible repeat' first | assumption | refine fun _ => ?_ | apply receivePacket_keeps | apply KeepsR.next | exact KeepsR.fault

theorem execMergeHdr_keeps {s0 : State} {packet : AccPacket} {s : State} (hs : Keeps s0 s) :
    KeepsR s0 (execMergeHdr packet s) := by
  unfold execMergeHdr
  with_reducible repeat' first | assumption | refine fun _ => ?_ | apply receivePacket_keeps | apply KeepsR.ite | apply Keeps.ite | apply KeepsR.next | exact KeepsR.fault

theorem startEngine_keeps {c : CoreCtx} {target : Nat} (hc : CoreCtx.ok c) :
    CoreCtx.ok (startEngine c target) := by
  unfold startEngine
  with_reducible repeat' first | assumption | refine fun _ => ?_ | apply CoreCtx.ite_ok | split | (apply CoreCtx.ok_same; assumption; rfl)

theorem startEngines_keeps {c : CoreCtx} (hc : CoreCtx.ok c) :
    CoreCtx.ok (startEngines c) := by
  unfold startEngines
  with_reducible repeat' first | assumption | refine fun _ => ?_ | apply startEngine_keeps | apply CoreCtx.foldl_ok | apply Keeps.foldl | apply FarTier.foldl_ok

theorem updTile_keeps {s0 s : State} {num : Nat} {serial : Nat} {index : Nat} {f : Tile → Tile} (hs : Keeps s0 s) :
    Keeps s0 (updTile s num serial index f) := by
  unfold updTile
  with_reducible repeat' first | assumption | refine fun _ => ?_ | apply updCmd_keeps

theorem dropTask_keeps {job : Nat} {num : Nat} {serial : Nat} {index : Nat} {c : CoreCtx} (hc : CoreCtx.ok c) :
    CoreCtx.ok (dropTask job num serial index c) := by
  unfold dropTask
  with_reducible repeat' first | assumption | refine fun _ => ?_ | apply startEngines_keeps | (apply CoreCtx.ok_same; assumption; rfl)

theorem failPreclaim_keeps {s0 s : State} {num : Nat} {index : Nat} (hs : Keeps s0 s) :
    Keeps s0 (failPreclaim s num index) := by
  unfold failPreclaim
  with_reducible repeat' first | assumption | refine fun _ => ?_ | apply mapCores_keeps | apply updCmd_keeps | (apply CoreCtx.ok_same; assumption; rfl)

theorem failTile_keeps {s0 s : State} {num : Nat} {serial : Nat} {index : Nat} {cls : Nat} (hs : Keeps s0 s) :
    Keeps s0 (failTile s num serial index cls) := by
  unfold failTile
  with_reducible repeat' first | assumption | refine fun _ => ?_ | apply failPreclaim_keeps | apply abortCmd_keeps | apply noteFault_keeps | apply settleRetires_keeps | apply updTile_keeps | apply idleAll_keeps | apply mapCores_keeps | apply dropTask_keeps | apply Keeps.ite | split

theorem overLink_keeps {s0 s : State} {p : OutPacket} (hs : Keeps s0 s) :
    Keeps s0 (overLink s p) := by
  unfold overLink
  with_reducible repeat' first | assumption | refine fun _ => ?_ | apply sendTo_keeps | split

theorem acknowledge_keeps {s0 s : State} {die : Nat} {p : OutPacket} {rejected : Bool} (hs : Keeps s0 s) :
    Keeps s0 (acknowledge s die p rejected) := by
  unfold acknowledge
  with_reducible repeat' first | assumption | refine fun _ => ?_ | apply State.updDie_keeps | apply updCmd_keeps | apply Keeps.ite

theorem arriveHome_keeps {s0 s : State} {die : Nat} {p : OutPacket} (hs : Keeps s0 s) :
    Keeps s0 (arriveHome s die p) := by
  unfold arriveHome
  have hr : Keeps s0 (receivePacket s p.packet) := receivePacket_keeps hs
  extract_lets t answer u
  have hu : Keeps s0 u := State.updFab_keeps hr
  clear_value answer u
  split
  · exact acknowledge_keeps hu
  · exact acknowledge_keeps hu
  · exact acknowledge_keeps hu
  · exact hu

theorem dispatchPacket_keeps {s0 : State} {die : Nat} {s : State} {p : OutPacket} (hs : Keeps s0 s) :
    Keeps s0 (dispatchPacket die s p) := by
  unfold dispatchPacket
  with_reducible repeat' first | assumption | refine fun _ => ?_ | apply arriveHome_keeps | apply overLink_keeps | apply Keeps.ite

theorem sendPackets_keeps {s0 s : State} {die : Nat} {ps : List OutPacket} (hs : Keeps s0 s) :
    Keeps s0 (sendPackets s die ps) := by
  unfold sendPackets
  with_reducible repeat' first | assumption | refine fun _ => ?_ | apply dispatchPacket_keeps | apply State.updDie_keeps | apply Keeps.foldl | apply FarTier.foldl_ok | apply CoreCtx.foldl_ok

theorem releaseMerge_keeps {s0 s : State} {x : Nat × OutPacket} (hs : Keeps s0 s) :
    Keeps s0 (releaseMerge s x) := by
  unfold releaseMerge
  with_reducible repeat' first | assumption | refine fun _ => ?_ | apply State.updDie_keeps | apply sendPackets_keeps | apply Keeps.ite

theorem releaseMerges_keeps {s0 s : State} {num : Nat} {serial : Nat} (hs : Keeps s0 s) :
    Keeps s0 (releaseMerges s num serial) := by
  unfold releaseMerges
  with_reducible repeat' first | assumption | refine fun _ => ?_ | apply releaseMerge_keeps | apply Keeps.foldl | apply FarTier.foldl_ok | apply CoreCtx.foldl_ok | apply Keeps.ite

theorem ackPacket_keeps {s0 s : State} {die : Nat} {p : OutPacket} {rejected : Bool} (hs : Keeps s0 s) :
    Keeps s0 (ackPacket s die p rejected) := by
  unfold ackPacket
  with_reducible repeat' first | assumption | refine fun _ => ?_ | apply acknowledge_keeps | apply releaseMerges_keeps | apply Keeps.foldl | apply FarTier.foldl_ok | apply CoreCtx.foldl_ok

theorem resendPacket_keeps {s0 s : State} {die : Nat} {p : OutPacket} (hs : Keeps s0 s) :
    Keeps s0 (resendPacket s die p) := by
  unfold resendPacket
  with_reducible repeat' first | assumption | refine fun _ => ?_ | apply dispatchPacket_keeps | apply State.updDie_keeps | apply failTile_keeps | apply Keeps.ite

theorem execAccumulateAnswer_keeps {s0 : State} {answer : AccAnswer} {s : State} (hs : Keeps s0 s) :
    KeepsR s0 (execAccumulateAnswer answer s) := by
  unfold execAccumulateAnswer
  with_reducible repeat' first | assumption | refine fun _ => ?_ | apply ackPacket_keeps | apply resendPacket_keeps | apply KeepsR.next | exact KeepsR.fault | split

theorem execPacketResendTimeout_keeps {s0 : State} {die : Fin 8} {rjob : Nat} {stack : Nat} {seq : Nat} {s : State} (hs : Keeps s0 s) :
    KeepsR s0 (execPacketResendTimeout die rjob stack seq s) := by
  unfold execPacketResendTimeout
  with_reducible repeat' first | assumption | refine fun _ => ?_ | apply resendPacket_keeps | apply KeepsR.ite | apply Keeps.ite | apply KeepsR.next | exact KeepsR.fault | split

/-! Machine/Objects. -/

theorem countBound_keeps {s0 s : State} {num : Nat} {serial : Nat} {job : Nat} {core : Nat} {event : Option Nat} (hs : Keeps s0 s) :
    Keeps s0 (countBound s num serial job core event) := by
  unfold countBound
  with_reducible repeat' first | assumption | refine fun _ => ?_ | apply updJob_keeps | apply postBoth_keeps | apply updCmd_keeps | apply Keeps.ite | ((first | lift_lets | skip); intro x; first | (have hx : Keeps s0 x := by (simp only [x]; repeat' first | assumption | refine fun _ => ?_ | apply updJob_keeps | apply postBoth_keeps | apply updCmd_keeps | apply Keeps.ite | split)); clear_value x | skip) | split

theorem countUnit_keeps {s0 s : State} {num : Nat} {serial : Nat} {job : Nat} {core : Nat} {unit : Nat × Nat × Nat} {event : Option Nat} (hs : Keeps s0 s) :
    Keeps s0 (countUnit s num serial job core unit event) := by
  unfold countUnit
  with_reducible repeat' first | assumption | refine fun _ => ?_ | apply countBound_keeps | apply updCmd_keeps | apply Keeps.ite | split

theorem reportingCore_keeps {s0 s : State} {r : OpRun} (hs : Keeps s0 s) :
    Keeps s0 (reportingCore s r).2 := by
  unfold reportingCore
  with_reducible repeat' first | assumption | refine fun _ => ?_ | apply takeFree_keeps | refine Keeps.ofSnd (by assumption) ?_

theorem OpRun.report_keeps {s0 : State} {r : OpRun} {s : State} {k : Nat} {item : Nat} {rule : Nat} {event : Option Nat} (hs : Keeps s0 s) :
    Keeps s0 (OpRun.report r s k item rule event) := by
  unfold OpRun.report
  with_reducible repeat' first | assumption | refine fun _ => ?_ | apply reportingCore_keeps | apply countUnit_keeps | refine Keeps.ofSnd (by assumption) ?_

theorem OpRun.reportBy_keeps {s0 : State} {r : OpRun} {core : Nat} {s : State} {k : Nat} {item : Nat} {rule : Nat} {event : Option Nat} (hs : Keeps s0 s) :
    Keeps s0 (OpRun.reportBy r core s k item rule event) := by
  unfold OpRun.reportBy
  with_reducible repeat' first | assumption | refine fun _ => ?_ | apply countUnit_keeps

theorem OpRun.reportOut_keeps {s0 : State} {r : OpRun} {s : State} {v : View} {k : Nat} {item : Nat} {out : Option Int} (hs : Keeps s0 s) :
    Keeps s0 (OpRun.reportOut r s v k item out) := by
  unfold OpRun.reportOut
  with_reducible repeat' first | assumption | refine fun _ => ?_ | apply OpRun.report_keeps | split

theorem repairPayload_keeps {s0 : State} {r : OpRun} {s : State} {k : Nat} {b0 : Nat} {b1 : Nat} {want : Nat} {o : Obj} (hs : Keeps s0 s) :
    Keeps s0 (repairPayload r s k b0 b1 want o) := by
  unfold repairPayload
  with_reducible repeat' first | assumption | refine fun _ => ?_ | apply View.repair_keeps | apply Keeps.ite

theorem repairHeaders_keeps {s0 : State} {r : OpRun} {s : State} {k : Nat} (hs : Keeps s0 s) :
    Keeps s0 (repairHeaders r s k) := by
  unfold repairHeaders
  with_reducible repeat' first | assumption | refine fun _ => ?_ | apply View.repair_keeps | apply Keeps.ite

theorem OpRun.reportRead_keeps {s0 : State} {r : OpRun} {s : State} {k : Nat} {item : Nat} {o : Obj} (hs : Keeps s0 s) :
    Keeps s0 (OpRun.reportRead r s k item o) := by
  unfold OpRun.reportRead
  with_reducible repeat' first | assumption | refine fun _ => ?_ | apply OpRun.reportOut_keeps | apply OpRun.report_keeps | apply Keeps.ite

theorem beginDest_keeps {s0 s : State} {r : OpRun} {a : Nat} {h : Hdr} (hs : Keeps s0 s) :
    Keeps s0 (beginDest s r a h) := by
  unfold beginDest
  with_reducible repeat' first | assumption | refine fun _ => ?_ | apply updCmd_keeps

theorem noteBlocks_keeps {s0 s : State} {r : OpRun} {runs : List (Nat × Nat)} (hs : Keeps s0 s) :
    Keeps s0 (noteBlocks s r runs) := by
  unfold noteBlocks
  with_reducible repeat' first | assumption | refine fun _ => ?_ | apply updCmd_keeps | apply Keeps.foldl | apply FarTier.foldl_ok | apply CoreCtx.foldl_ok

theorem OpRun.putDest_keeps {s0 s : State} {r : OpRun} {w : Nat} {items : List (Int × Nat)} (hs : Keeps s0 s) :
    Keeps s0 (OpRun.putDest s r w items).1 := by
  unfold OpRun.putDest
  with_reducible repeat' first | assumption | refine fun _ => ?_ | apply View.put_keeps | apply Keeps.ite | refine Keeps.ofFst (by assumption) ?_ | split

theorem putPayload_keeps {s0 s : State} {r : OpRun} {b0 : Nat} {b1 : Nat} {level : Nat} {limbs : Nat} {words : List Nat} (hs : Keeps s0 s) :
    Keeps s0 (putPayload s r b0 b1 level limbs words).1 := by
  unfold putPayload
  with_reducible repeat' first | assumption | refine fun _ => ?_ | apply OpRun.putDest_keeps | refine Keeps.ofFst (by assumption) ?_

theorem holdHdr_keeps {s0 s : State} {r : OpRun} {b0 : Nat} {b1 : Nat} {h : Hdr} {states : List HState} {causes : List Nat} (hs : Keeps s0 s) :
    Keeps s0 (holdHdr s r b0 b1 h states causes) := by
  unfold holdHdr
  with_reducible repeat' first | assumption | refine fun _ => ?_ | apply updCmd_keeps

theorem writeHeld_keeps {s0 : State} {r : OpRun} {s : State} {x : HeldHdr} (hs : Keeps s0 s) :
    Keeps s0 (writeHeld r s x) := by
  unfold writeHeld
  with_reducible repeat' first | assumption | refine fun _ => ?_ | apply View.put_keeps | apply noteBlocks_keeps | apply countOriginated_keeps | apply Keeps.ite | refine Keeps.ofFst (by assumption) ?_

theorem writeHeaders_keeps {s0 : State} {r : OpRun} {s : State} (hs : Keeps s0 s) :
    Keeps s0 (writeHeaders r s) := by
  unfold writeHeaders
  with_reducible repeat' first | assumption | refine fun _ => ?_ | apply writeHeld_keeps | apply Keeps.foldl | apply FarTier.foldl_ok | apply CoreCtx.foldl_ok

theorem markHeld_keeps {s0 s : State} {num : Nat} {serial : Nat} {covers : Nat → Bool} {cause : Nat} (hs : Keeps s0 s) :
    Keeps s0 (markHeld s num serial covers cause) := by
  unfold markHeld
  with_reducible repeat' first | assumption | refine fun _ => ?_ | apply updCmd_keeps

theorem writeResult_keeps {s0 s : State} {r : OpRun} {b0 : Nat} {b1 : Nat} {h : Hdr} {raw : Bool} {p : Poly} {fewest : Nat} {states : List HState} {causes : List Nat} (hs : Keeps s0 s) :
    Keeps s0 (writeResult s r b0 b1 h raw p fewest states causes) := by
  unfold writeResult
  with_reducible repeat' first | assumption | refine fun _ => ?_ | apply beginDest_keeps | apply putPayload_keeps | apply OpRun.putDest_keeps | apply noteBlocks_keeps | apply holdHdr_keeps | apply OpRun.reportOut_keeps | apply OpRun.report_keeps | apply Keeps.ite | refine Keeps.ofFst (by assumption) ?_

theorem OpRun.reportCounts_keeps {s0 : State} {r : OpRun} {s : State} {cs : List (Nat × Nat × Nat)} (hs : Keeps s0 s) :
    Keeps s0 (OpRun.reportCounts r s cs) := by
  unfold OpRun.reportCounts
  with_reducible repeat' first | assumption | refine fun _ => ?_ | apply OpRun.report_keeps | apply Keeps.foldl | apply FarTier.foldl_ok | apply CoreCtx.foldl_ok | apply Keeps.ite

theorem reportItems_keeps {s0 : State} {r : OpRun} {k : Nat} {rule : Nat} {event : Option Nat} {s : State} (hs : Keeps s0 s) :
    Keeps s0 (reportItems r k rule event s) := by
  unfold reportItems
  with_reducible repeat' first | assumption | refine fun _ => ?_ | apply OpRun.report_keeps | apply Keeps.foldl | apply FarTier.foldl_ok | apply CoreCtx.foldl_ok

theorem forItems_keeps {s0 : State} {r : OpRun} {ks : List Nat} {f : State → Nat → Nat → State} {s : State} (hf : ∀ x0 x1 x2, Keeps s0 x0 → Keeps s0 (f x0 x1 x2)) (hs : Keeps s0 s) :
    Keeps s0 (forItems r ks f s) := by
  unfold forItems
  with_reducible repeat' first | assumption | refine fun _ => ?_ | apply OpRun.reportCounts_keeps | apply hf | apply Keeps.foldl | apply FarTier.foldl_ok | apply CoreCtx.foldl_ok

theorem zeroResult_keeps {s0 s : State} {r : OpRun} {b0 : Nat} {b1 : Nat} (hs : Keeps s0 s) :
    Keeps s0 (zeroResult s r b0 b1) := by
  unfold zeroResult
  with_reducible repeat' first | assumption | refine fun _ => ?_ | apply writeResult_keeps

theorem objectItem_keeps {s0 : State} {r : OpRun} {want : List Obj → Effect → Nat} {raw : List Obj → Bool} {compute : List Nat → Nat → List Obj → Poly} {s : State} {b0 : Nat} {b1 : Nat} (hs : Keeps s0 s) :
    Keeps s0 (objectItem r want raw compute s b0 b1) := by
  unfold objectItem
  with_reducible repeat' first | assumption | refine fun _ => ?_ | apply zeroResult_keeps | apply repairPayload_keeps | apply OpRun.reportRead_keeps | apply writeResult_keeps | apply Keeps.foldl | apply FarTier.foldl_ok | apply CoreCtx.foldl_ok | apply Keeps.ite

theorem noteAccess_keeps {s0 : State} {num : Nat} {serial : Nat} {reads : List (Nat × Nat)} {writes : List (Nat × Nat × Nat)} {s : State} (hs : Keeps s0 s) :
    Keeps s0 (noteAccess num serial reads writes s) := by
  unfold noteAccess
  with_reducible repeat' first | assumption | refine fun _ => ?_ | apply updCmd_keeps

theorem raceCommand_keeps {s0 s : State} {num : Nat} {serial : Nat} (hs : Keeps s0 s) :
    Keeps s0 (raceCommand s num serial) := by
  unfold raceCommand
  with_reducible repeat' first | assumption | refine fun _ => ?_ | apply State.updTab_keeps | apply Keeps.ite | split

theorem scrambleItem_keeps {s0 : State} {r : OpRun} {s : State} {b0 : Nat} {b1 : Nat} (hs : Keeps s0 s) :
    Keeps s0 (scrambleItem r s b0 b1) := by
  unfold scrambleItem
  repeat' first | assumption | refine fun _ => ?_ | apply View.put_keeps | apply updCmd_keeps | apply Keeps.ite | refine Keeps.ofFst (by assumption) ?_ | split

theorem scrambleDest_keeps {s0 : State} {r : OpRun} {s : State} (hs : Keeps s0 s) :
    Keeps s0 (scrambleDest r s) := by
  unfold scrambleDest
  with_reducible repeat' first | assumption | refine fun _ => ?_ | apply scrambleItem_keeps | apply Keeps.foldl | apply FarTier.foldl_ok | apply CoreCtx.foldl_ok

theorem settleOverlap_keeps {s0 : State} {effect : OpRun → State → State} {r : OpRun} {s : State} (heffect : ∀ x0 x1, Keeps s0 x1 → Keeps s0 (effect x0 x1)) (hs : Keeps s0 s) :
    Keeps s0 (settleOverlap effect r s) := by
  unfold settleOverlap
  with_reducible repeat' first | assumption | refine fun _ => ?_ | apply repairHeaders_keeps | apply updCmd_keeps | apply scrambleDest_keeps | apply raceCommand_keeps | apply noteAccess_keeps | apply heffect | apply Keeps.foldl | apply FarTier.foldl_ok | apply CoreCtx.foldl_ok | apply Keeps.ite

theorem runObj_keeps {s0 : State} {num : Nat} {opcode : Nat} {effect : OpRun → State → State} {s : State} (heffect : ∀ x0 x1, Keeps s0 x1 → Keeps s0 (effect x0 x1)) (hs : Keeps s0 s) :
    KeepsR s0 (runObj num opcode effect s) := by
  unfold runObj
  with_reducible repeat' first | assumption | refine fun _ => ?_ | apply runOp_keeps | apply settleOverlap_keeps | apply heffect | apply KeepsR.next | exact KeepsR.fault | refine Keeps.ofNext (by assumption) ?_

/-! Machine/OpsArith. -/

theorem runObjects_keeps {s0 : State} {want : List Obj → Effect → Nat} {raw : List Obj → Bool} {compute : Nat → List Nat → Nat → List Obj → Poly} {r : OpRun} {s : State} (hs : Keeps s0 s) :
    Keeps s0 (runObjects want raw compute r s) := by
  unfold runObjects
  with_reducible repeat' first | assumption | refine fun _ => ?_ | apply forItems_keeps | apply objectItem_keeps

theorem execAdd_keeps {s0 : State} {queue : Nat} {s : State} (hs : Keeps s0 s) :
    KeepsR s0 (execAdd queue s) := by
  unfold execAdd
  with_reducible repeat' first | assumption | refine fun _ => ?_ | apply runObj_keeps | apply runObjects_keeps | apply KeepsR.next | exact KeepsR.fault | refine Keeps.ofNext (by assumption) ?_

theorem execSub_keeps {s0 : State} {queue : Nat} {s : State} (hs : Keeps s0 s) :
    KeepsR s0 (execSub queue s) := by
  unfold execSub
  with_reducible repeat' first | assumption | refine fun _ => ?_ | apply runObj_keeps | apply runObjects_keeps | apply KeepsR.next | exact KeepsR.fault | refine Keeps.ofNext (by assumption) ?_

theorem execNeg_keeps {s0 : State} {queue : Nat} {s : State} (hs : Keeps s0 s) :
    KeepsR s0 (execNeg queue s) := by
  unfold execNeg
  with_reducible repeat' first | assumption | refine fun _ => ?_ | apply runObj_keeps | apply runObjects_keeps | apply KeepsR.next | exact KeepsR.fault | refine Keeps.ofNext (by assumption) ?_

theorem execMulPt_keeps {s0 : State} {queue : Nat} {s : State} (hs : Keeps s0 s) :
    KeepsR s0 (execMulPt queue s) := by
  unfold execMulPt
  with_reducible repeat' first | assumption | refine fun _ => ?_ | apply runObj_keeps | apply runObjects_keeps | apply KeepsR.next | exact KeepsR.fault | refine Keeps.ofNext (by assumption) ?_

theorem execMulCt_keeps {s0 : State} {queue : Nat} {s : State} (hs : Keeps s0 s) :
    KeepsR s0 (execMulCt queue s) := by
  unfold execMulCt
  with_reducible repeat' first | assumption | refine fun _ => ?_ | apply runObj_keeps | apply runObjects_keeps | apply KeepsR.next | exact KeepsR.fault | refine Keeps.ofNext (by assumption) ?_

theorem execLevelDrop_keeps {s0 : State} {queue : Nat} {s : State} (hs : Keeps s0 s) :
    KeepsR s0 (execLevelDrop queue s) := by
  unfold execLevelDrop
  with_reducible repeat' first | assumption | refine fun _ => ?_ | apply runObj_keeps | apply runObjects_keeps | apply KeepsR.next | exact KeepsR.fault | refine Keeps.ofNext (by assumption) ?_

theorem rescaleRun_keeps {s0 : State} {r : OpRun} {s : State} (hs : Keeps s0 s) :
    Keeps s0 (rescaleRun r s) := by
  unfold rescaleRun
  with_reducible repeat' first | assumption | refine fun _ => ?_ | apply runObjects_keeps

theorem execRescale_keeps {s0 : State} {queue : Nat} {s : State} (hs : Keeps s0 s) :
    KeepsR s0 (execRescale queue s) := by
  unfold execRescale
  with_reducible repeat' first | assumption | refine fun _ => ?_ | apply runObj_keeps | apply rescaleRun_keeps | apply KeepsR.next | exact KeepsR.fault | refine Keeps.ofNext (by assumption) ?_

theorem execNttFwd_keeps {s0 : State} {queue : Nat} {s : State} (hs : Keeps s0 s) :
    KeepsR s0 (execNttFwd queue s) := by
  unfold execNttFwd
  with_reducible repeat' first | assumption | refine fun _ => ?_ | apply runObj_keeps | apply runObjects_keeps | apply KeepsR.next | exact KeepsR.fault | refine Keeps.ofNext (by assumption) ?_

theorem execNttInv_keeps {s0 : State} {queue : Nat} {s : State} (hs : Keeps s0 s) :
    KeepsR s0 (execNttInv queue s) := by
  unfold execNttInv
  with_reducible repeat' first | assumption | refine fun _ => ?_ | apply runObj_keeps | apply runObjects_keeps | apply KeepsR.next | exact KeepsR.fault | refine Keeps.ofNext (by assumption) ?_

theorem execExportOp_keeps {s0 : State} {queue : Nat} {s : State} (hs : Keeps s0 s) :
    KeepsR s0 (execExportOp queue s) := by
  unfold execExportOp
  with_reducible repeat' first | assumption | refine fun _ => ?_ | apply runObj_keeps | apply runObjects_keeps | apply KeepsR.next | exact KeepsR.fault | refine Keeps.ofNext (by assumption) ?_

theorem repairWeights_keeps {s0 : State} {r : OpRun} {limbs : Nat} {c0 : Nat} {i0 : Nat} {b1 : Nat} {s : State} (hs : Keeps s0 s) :
    Keeps s0 (repairWeights r limbs c0 i0 b1 s) := by
  unfold repairWeights
  with_reducible repeat' first | assumption | refine fun _ => ?_ | apply View.repair_keeps

theorem matmulItem_keeps {s0 : State} {r : OpRun} {i0 : Nat} {c0 : Nat} {s : State} {c : Nat} {b1 : Nat} (hs : Keeps s0 s) :
    Keeps s0 (matmulItem r i0 c0 s c b1) := by
  unfold matmulItem
  with_reducible repeat' first | assumption | refine fun _ => ?_ | apply zeroResult_keeps | apply repairPayload_keeps | apply repairWeights_keeps | apply OpRun.reportRead_keeps | apply OpRun.reportOut_keeps | apply OpRun.report_keeps | apply writeResult_keeps | apply Keeps.foldl | apply FarTier.foldl_ok | apply CoreCtx.foldl_ok | apply Keeps.ite

theorem matmulRun_keeps {s0 : State} {r : OpRun} {s : State} (hs : Keeps s0 s) :
    Keeps s0 (matmulRun r s) := by
  unfold matmulRun
  with_reducible repeat' first | assumption | refine fun _ => ?_ | apply reportItems_keeps | apply OpRun.report_keeps | apply OpRun.reportCounts_keeps | apply matmulItem_keeps | apply Keeps.foldl | apply FarTier.foldl_ok | apply CoreCtx.foldl_ok | apply Keeps.ite | split

theorem matmulOp_keeps {s0 : State} {r : OpRun} {s : State} (hs : Keeps s0 s) :
    Keeps s0 (matmulOp r s) := by
  unfold matmulOp
  with_reducible repeat' first | assumption | refine fun _ => ?_ | apply matmulRun_keeps | apply repairHeaders_keeps | apply Keeps.ite

theorem execMatmul_keeps {s0 : State} {queue : Nat} {s : State} (hs : Keeps s0 s) :
    KeepsR s0 (execMatmul queue s) := by
  unfold execMatmul
  with_reducible repeat' first | assumption | refine fun _ => ?_ | apply runObj_keeps | apply matmulOp_keeps | apply KeepsR.next | exact KeepsR.fault | refine Keeps.ofNext (by assumption) ?_

/-! Machine/OpsKey. -/

theorem touchPiece_keeps {s0 s : State} {p : PieceId} (hs : Keeps s0 s) :
    Keeps s0 (touchPiece s p) := by
  unfold touchPiece
  with_reducible repeat' first | assumption | refine fun _ => ?_ | apply touchStack_keeps | apply touchBlocks_keeps | split

theorem repairPieces_keeps {s0 s : State} {ps : List PieceId} (hs : Keeps s0 s) :
    Keeps s0 (repairPieces s ps) := by
  unfold repairPieces
  with_reducible repeat' first | assumption | refine fun _ => ?_ | apply repairFar_keeps | apply touchPiece_keeps | apply Keeps.foldl | apply FarTier.foldl_ok | apply CoreCtx.foldl_ok | apply Keeps.ite | split

theorem keyedResult_keeps {s0 : State} {r : OpRun} {a : Nat} {m : Nat} {s : State} {b0 : Nat} {b1 : Nat} (hs : Keeps s0 s) :
    Keeps s0 (keyedResult r a m s b0 b1) := by
  unfold keyedResult
  with_reducible repeat' first | assumption | refine fun _ => ?_ | apply zeroResult_keeps | apply repairPayload_keeps | apply OpRun.reportRead_keeps | apply writeResult_keeps | apply Keeps.ite

theorem keyedRun_keeps {s0 : State} {r : OpRun} {s : State} (hs : Keeps s0 s) :
    Keeps s0 (keyedRun r s) := by
  unfold keyedRun
  with_reducible repeat' first | assumption | refine fun _ => ?_ | apply forItems_keeps | apply keyedResult_keeps | apply OpRun.report_keeps | apply Keeps.foldl | apply FarTier.foldl_ok | apply CoreCtx.foldl_ok | apply Keeps.ite

theorem withKeys_keeps {s0 : State} {effect : OpRun → State → State} {r : OpRun} {s : State} (heffect : ∀ x0 x1, Keeps s0 x1 → Keeps s0 (effect x0 x1)) (hs : Keeps s0 s) :
    Keeps s0 (withKeys effect r s) := by
  unfold withKeys
  with_reducible repeat' first | assumption | refine fun _ => ?_ | apply repairPieces_keeps | apply heffect | apply Keeps.ite

theorem execRelin_keeps {s0 : State} {queue : Nat} {s : State} (hs : Keeps s0 s) :
    KeepsR s0 (execRelin queue s) := by
  unfold execRelin
  with_reducible repeat' first | assumption | refine fun _ => ?_ | apply runObj_keeps | apply withKeys_keeps | apply keyedRun_keeps | apply KeepsR.next | exact KeepsR.fault | refine Keeps.ofNext (by assumption) ?_

theorem execRotate_keeps {s0 : State} {queue : Nat} {s : State} (hs : Keeps s0 s) :
    KeepsR s0 (execRotate queue s) := by
  unfold execRotate
  with_reducible repeat' first | assumption | refine fun _ => ?_ | apply runObj_keeps | apply withKeys_keeps | apply keyedRun_keeps | apply KeepsR.next | exact KeepsR.fault | refine Keeps.ofNext (by assumption) ?_

theorem execConjugate_keeps {s0 : State} {queue : Nat} {s : State} (hs : Keeps s0 s) :
    KeepsR s0 (execConjugate queue s) := by
  unfold execConjugate
  with_reducible repeat' first | assumption | refine fun _ => ?_ | apply runObj_keeps | apply withKeys_keeps | apply keyedRun_keeps | apply KeepsR.next | exact KeepsR.fault | refine Keeps.ofNext (by assumption) ?_

theorem linearItem_keeps {s0 : State} {r : OpRun} {s : State} {m : Nat} {b0 : Nat} {b1 : Nat} (hs : Keeps s0 s) :
    Keeps s0 (linearItem r s m b0 b1) := by
  unfold linearItem
  with_reducible repeat' first | assumption | refine fun _ => ?_ | apply zeroResult_keeps | apply repairPayload_keeps | apply OpRun.reportRead_keeps | apply OpRun.report_keeps | apply writeResult_keeps | apply Keeps.foldl | apply FarTier.foldl_ok | apply CoreCtx.foldl_ok | apply Keeps.ite

theorem linearRun_keeps {s0 : State} {r : OpRun} {s : State} (hs : Keeps s0 s) :
    Keeps s0 (linearRun r s) := by
  unfold linearRun
  with_reducible repeat' first | assumption | refine fun _ => ?_ | apply OpRun.report_keeps | apply linearItem_keeps | apply Keeps.foldl | apply FarTier.foldl_ok | apply CoreCtx.foldl_ok | apply Keeps.ite

theorem execLinear_keeps {s0 : State} {queue : Nat} {s : State} (hs : Keeps s0 s) :
    KeepsR s0 (execLinear queue s) := by
  unfold execLinear
  with_reducible repeat' first | assumption | refine fun _ => ?_ | apply runObj_keeps | apply withKeys_keeps | apply linearRun_keeps | apply KeepsR.next | exact KeepsR.fault | refine Keeps.ofNext (by assumption) ?_

/-! Machine/OpsNonlinear. -/

theorem switchOutItem_keeps {s0 : State} {r : OpRun} {s : State} {b0 : Nat} {b1 : Nat} (hs : Keeps s0 s) :
    Keeps s0 (switchOutItem r s b0 b1) := by
  unfold switchOutItem
  with_reducible repeat' first | assumption | refine fun _ => ?_ | apply zeroResult_keeps | apply repairPayload_keeps | apply OpRun.reportRead_keeps | apply writeResult_keeps | apply Keeps.ite

theorem execSwitchOut_keeps {s0 : State} {queue : Nat} {s : State} (hs : Keeps s0 s) :
    KeepsR s0 (execSwitchOut queue s) := by
  unfold execSwitchOut
  with_reducible repeat' first | assumption | refine fun _ => ?_ | apply runObj_keeps | apply withKeys_keeps | apply forItems_keeps | apply switchOutItem_keeps | apply KeepsR.next | exact KeepsR.fault | refine Keeps.ofNext (by assumption) ?_

theorem lutItem_keeps {s0 : State} {r : OpRun} {s : State} {b0 : Nat} {b1 : Nat} (hs : Keeps s0 s) :
    Keeps s0 (lutItem r s b0 b1) := by
  unfold lutItem
  with_reducible repeat' first | assumption | refine fun _ => ?_ | apply zeroResult_keeps | apply repairPayload_keeps | apply OpRun.reportRead_keeps | apply writeResult_keeps | apply Keeps.ite

theorem execLut_keeps {s0 : State} {queue : Nat} {s : State} (hs : Keeps s0 s) :
    KeepsR s0 (execLut queue s) := by
  unfold execLut
  with_reducible repeat' first | assumption | refine fun _ => ?_ | apply runObj_keeps | apply withKeys_keeps | apply forItems_keeps | apply lutItem_keeps | apply KeepsR.next | exact KeepsR.fault | refine Keeps.ofNext (by assumption) ?_

theorem presetItem_keeps {s0 : State} {r : OpRun} {level : Nat} {want : Nat} {originated : State → Obj → List Nat} {compute : OpRun → Chain → Obj → List Nat → Poly} {s : State} {b0 : Nat} {b1 : Nat} (hs : Keeps s0 s) :
    Keeps s0 (presetItem r level want originated compute s b0 b1) := by
  unfold presetItem
  with_reducible repeat' first | assumption | refine fun _ => ?_ | apply zeroResult_keeps | apply repairPayload_keeps | apply OpRun.reportRead_keeps | apply writeResult_keeps | apply Keeps.ite

theorem execBootstrap_keeps {s0 : State} {queue : Nat} {s : State} (hs : Keeps s0 s) :
    KeepsR s0 (execBootstrap queue s) := by
  unfold execBootstrap
  with_reducible repeat' first | assumption | refine fun _ => ?_ | apply runObj_keeps | apply withKeys_keeps | apply forItems_keeps | apply presetItem_keeps | apply KeepsR.next | exact KeepsR.fault | refine Keeps.ofNext (by assumption) ?_

theorem execRepack_keeps {s0 : State} {queue : Nat} {s : State} (hs : Keeps s0 s) :
    KeepsR s0 (execRepack queue s) := by
  unfold execRepack
  with_reducible repeat' first | assumption | refine fun _ => ?_ | apply runObj_keeps | apply withKeys_keeps | apply forItems_keeps | apply presetItem_keeps | apply KeepsR.next | exact KeepsR.fault | refine Keeps.ofNext (by assumption) ?_

/-! Machine/OpsData. -/

theorem reportExtents_keeps {s0 : State} {r : OpRun} {ks : List Nat} {reduced : Nat} {s : State} (hs : Keeps s0 s) :
    Keeps s0 (reportExtents r ks reduced s) := by
  unfold reportExtents
  with_reducible repeat' first | assumption | refine fun _ => ?_ | apply reportItems_keeps | apply Keeps.foldl | apply FarTier.foldl_ok | apply CoreCtx.foldl_ok | apply Keeps.ite | split

theorem repairOperand_keeps {s0 : State} {r : OpRun} {rows : List Nat} {reduced : Nat} {ext : List Nat} {k : Nat} {b0 : Nat} {b1 : Nat} {s : State} (hs : Keeps s0 s) :
    Keeps s0 (repairOperand r rows reduced ext k b0 b1 s) := by
  unfold repairOperand
  with_reducible repeat' first | assumption | refine fun _ => ?_ | apply View.repair_keeps

theorem putItem_keeps {s0 s : State} {r : OpRun} {b0 : Nat} {b1 : Nat} {items : List (Int × Nat)} (hs : Keeps s0 s) :
    Keeps s0 (putItem s r b0 b1 items) := by
  unfold putItem
  with_reducible repeat' first | assumption | refine fun _ => ?_ | apply OpRun.putDest_keeps | apply noteBlocks_keeps | apply OpRun.reportOut_keeps | apply Keeps.ite | refine Keeps.ofFst (by assumption) ?_

theorem mapItem_keeps {s0 : State} {r : OpRun} {o : VxeOp} {ext : List Nat} {s : State} {b0 : Nat} {b1 : Nat} (hs : Keeps s0 s) :
    Keeps s0 (mapItem r o ext s b0 b1) := by
  unfold mapItem
  with_reducible repeat' first | assumption | refine fun _ => ?_ | apply repairOperand_keeps | apply OpRun.reportOut_keeps | apply putItem_keeps | apply Keeps.foldl | apply FarTier.foldl_ok | apply CoreCtx.foldl_ok

theorem mapRun_keeps {s0 : State} {r : OpRun} {s : State} (hs : Keeps s0 s) :
    Keeps s0 (mapRun r s) := by
  unfold mapRun
  with_reducible repeat' first | assumption | refine fun _ => ?_ | apply reportExtents_keeps | apply forItems_keeps | apply mapItem_keeps | apply Keeps.ite | split

theorem execMap_keeps {s0 : State} {queue : Nat} {s : State} (hs : Keeps s0 s) :
    KeepsR s0 (execMap queue s) := by
  unfold execMap
  with_reducible repeat' first | assumption | refine fun _ => ?_ | apply runObj_keeps | apply mapRun_keeps | apply KeepsR.next | exact KeepsR.fault | refine Keeps.ofNext (by assumption) ?_

theorem putSlice_keeps {s0 s : State} {r : OpRun} {ext : List Nat} {b0 : Nat} {b1 : Nat} {f : List Nat → Nat} (hs : Keeps s0 s) :
    Keeps s0 (putSlice s r ext b0 b1 f) := by
  unfold putSlice
  with_reducible repeat' first | assumption | refine fun _ => ?_ | apply putItem_keeps

theorem moveSlice_keeps {s0 : State} {r : OpRun} {ext : List Nat} {s : State} {d : Nat} {x : Option Nat} {b1 : Nat} (hs : Keeps s0 s) :
    Keeps s0 (moveSlice r ext s d x b1) := by
  unfold moveSlice
  with_reducible repeat' first | assumption | refine fun _ => ?_ | apply putSlice_keeps | apply repairOperand_keeps | apply OpRun.reportOut_keeps | split

theorem copyFlat_keeps {s0 : State} {r : OpRun} {s : State} (hs : Keeps s0 s) :
    Keeps s0 (copyFlat r s) := by
  unfold copyFlat
  with_reducible repeat' first | assumption | refine fun _ => ?_ | apply reportExtents_keeps | apply forItems_keeps | apply repairOperand_keeps | apply OpRun.reportOut_keeps | apply putSlice_keeps | apply Keeps.ite

theorem copyRun_keeps {s0 : State} {r : OpRun} {s : State} (hs : Keeps s0 s) :
    Keeps s0 (copyRun r s) := by
  unfold copyRun
  with_reducible repeat' first | assumption | refine fun _ => ?_ | apply runObjects_keeps | apply copyFlat_keeps | apply Keeps.ite

theorem execCopy_keeps {s0 : State} {queue : Nat} {s : State} (hs : Keeps s0 s) :
    KeepsR s0 (execCopy queue s) := by
  unfold execCopy
  with_reducible repeat' first | assumption | refine fun _ => ?_ | apply runObj_keeps | apply copyRun_keeps | apply KeepsR.next | exact KeepsR.fault | refine Keeps.ofNext (by assumption) ?_

theorem repairIndices_keeps {s0 : State} {r : OpRun} {b1 : Nat} {s : State} {k : Nat} (hs : Keeps s0 s) :
    Keeps s0 (repairIndices r b1 s k) := by
  unfold repairIndices
  with_reducible repeat' first | assumption | refine fun _ => ?_ | apply repairOperand_keeps

theorem reportMoves_keeps {s0 : State} {r : OpRun} {b1 : Nat} {ms : List Move} {s : State} (hs : Keeps s0 s) :
    Keeps s0 (reportMoves r b1 ms s) := by
  unfold reportMoves
  with_reducible repeat' first | assumption | refine fun _ => ?_ | apply OpRun.report_keeps | apply Keeps.foldl | apply FarTier.foldl_ok | apply CoreCtx.foldl_ok | apply Keeps.ite | split

theorem moveObject_keeps {s0 : State} {r : OpRun} {causes : List Nat} {s : State} {d : Nat} {x : Nat} {b1 : Nat} (hs : Keeps s0 s) :
    Keeps s0 (moveObject r causes s d x b1) := by
  unfold moveObject
  with_reducible repeat' first | assumption | refine fun _ => ?_ | apply zeroResult_keeps | apply repairPayload_keeps | apply OpRun.reportRead_keeps | apply writeResult_keeps | apply Keeps.ite

theorem emptyObject_keeps {s0 : State} {r : OpRun} {causes : List Nat} {s : State} {d : Nat} {b1 : Nat} (hs : Keeps s0 s) :
    Keeps s0 (emptyObject r causes s d b1) := by
  unfold emptyObject
  with_reducible repeat' first | assumption | refine fun _ => ?_ | apply writeResult_keeps

theorem beginScatter_keeps {s0 : State} {r : OpRun} {causes : List Nat} {s : State} {d : Nat} {xs : List Nat} {b1 : Nat} (hs : Keeps s0 s) :
    Keeps s0 (beginScatter r causes s d xs b1) := by
  unfold beginScatter
  with_reducible repeat' first | assumption | refine fun _ => ?_ | apply View.repair_keeps | apply beginDest_keeps | apply zeroResult_keeps | apply repairPayload_keeps | apply OpRun.reportRead_keeps | apply putPayload_keeps | apply noteBlocks_keeps | apply OpRun.reportOut_keeps | apply OpRun.report_keeps | apply holdHdr_keeps | apply Keeps.foldl | apply FarTier.foldl_ok | apply CoreCtx.foldl_ok | apply Keeps.ite | refine Keeps.ofFst (by assumption) ?_

theorem moveKept_keeps {s0 : State} {r : OpRun} {s : State} {x : HeldHdr} (hs : Keeps s0 s) :
    Keeps s0 (moveKept r s x) := by
  unfold moveKept
  with_reducible repeat' first | assumption | refine fun _ => ?_ | apply putPayload_keeps | apply Keeps.ite | refine Keeps.ofFst (by assumption) ?_

theorem settleScatter_keeps {s0 : State} {r : OpRun} {s : State} (hs : Keeps s0 s) :
    Keeps s0 (settleScatter r s) := by
  unfold settleScatter
  with_reducible repeat' first | assumption | refine fun _ => ?_ | apply moveKept_keeps | apply Keeps.foldl | apply FarTier.foldl_ok | apply CoreCtx.foldl_ok | apply Keeps.ite

theorem gatherItem_keeps {s0 : State} {r : OpRun} {ext : List Nat} {fault : List Nat} {b1 : Nat} {s : State} {m : Move} (hs : Keeps s0 s) :
    Keeps s0 (gatherItem r ext fault b1 s m) := by
  unfold gatherItem
  with_reducible repeat' first | assumption | refine fun _ => ?_ | apply emptyObject_keeps | apply moveObject_keeps | apply moveSlice_keeps | apply Keeps.ite | split

theorem beginSlices_keeps {s0 : State} {r : OpRun} {ext : List Nat} {s : State} {d : Nat} {xs : List Nat} {b1 : Nat} (hs : Keeps s0 s) :
    Keeps s0 (beginSlices r ext s d xs b1) := by
  unfold beginSlices
  with_reducible repeat' first | assumption | refine fun _ => ?_ | apply repairOperand_keeps | apply OpRun.reportOut_keeps | apply noteBlocks_keeps | apply Keeps.foldl | apply FarTier.foldl_ok | apply CoreCtx.foldl_ok | apply Keeps.ite

theorem scatterItem_keeps {s0 : State} {r : OpRun} {ext : List Nat} {fault : List Nat} {b1 : Nat} {s : State} {t : Nat × List (Nat × Nat)} (hs : Keeps s0 s) :
    Keeps s0 (scatterItem r ext fault b1 s t) := by
  unfold scatterItem
  with_reducible repeat' first | assumption | refine fun _ => ?_ | apply beginScatter_keeps | apply beginSlices_keeps | apply moveObject_keeps | apply moveSlice_keeps | apply Keeps.ite | split

theorem reportIndices_keeps {s0 : State} {r : OpRun} {b1 : Nat} {ix : List (Nat × Indices)} {s : State} (hs : Keeps s0 s) :
    Keeps s0 (reportIndices r b1 ix s) := by
  unfold reportIndices
  with_reducible repeat' first | assumption | refine fun _ => ?_ | apply OpRun.report_keeps | apply OpRun.reportOut_keeps | apply Keeps.foldl | apply FarTier.foldl_ok | apply CoreCtx.foldl_ok | apply Keeps.ite

theorem indexedOuter_keeps {s0 : State} {r : OpRun} {ext : List Nat} {s : State} {b1 : Nat} (hs : Keeps s0 s) :
    Keeps s0 (indexedOuter r ext s b1) := by
  unfold indexedOuter
  with_reducible repeat' first | assumption | refine fun _ => ?_ | apply repairIndices_keeps | apply reportIndices_keeps | apply reportMoves_keeps | apply gatherItem_keeps | apply scatterItem_keeps | apply Keeps.foldl | apply FarTier.foldl_ok | apply CoreCtx.foldl_ok | apply Keeps.ite

theorem indexedRun_keeps {s0 : State} {r : OpRun} {s : State} (hs : Keeps s0 s) :
    Keeps s0 (indexedRun r s) := by
  unfold indexedRun
  with_reducible repeat' first | assumption | refine fun _ => ?_ | apply reportExtents_keeps | apply OpRun.reportCounts_keeps | apply indexedOuter_keeps | apply Keeps.foldl | apply FarTier.foldl_ok | apply CoreCtx.foldl_ok | apply Keeps.ite

theorem execGather_keeps {s0 : State} {queue : Nat} {s : State} (hs : Keeps s0 s) :
    KeepsR s0 (execGather queue s) := by
  unfold execGather
  with_reducible repeat' first | assumption | refine fun _ => ?_ | apply runObj_keeps | apply indexedRun_keeps | apply KeepsR.next | exact KeepsR.fault | refine Keeps.ofNext (by assumption) ?_

theorem execScatter_keeps {s0 : State} {queue : Nat} {s : State} (hs : Keeps s0 s) :
    KeepsR s0 (execScatter queue s) := by
  unfold execScatter
  with_reducible repeat' first | assumption | refine fun _ => ?_ | apply runObj_keeps | apply indexedRun_keeps | apply KeepsR.next | exact KeepsR.fault | refine Keeps.ofNext (by assumption) ?_

theorem scatterAddRun_keeps {s0 : State} {r : OpRun} {s : State} (hs : Keeps s0 s) :
    Keeps s0 (scatterAddRun r s) := by
  unfold scatterAddRun
  with_reducible repeat' first | assumption | refine fun _ => ?_ | apply noteAccess_keeps | apply indexedRun_keeps

theorem execScatterAdd_keeps {s0 : State} {queue : Nat} {s : State} (hs : Keeps s0 s) :
    KeepsR s0 (execScatterAdd queue s) := by
  unfold execScatterAdd
  with_reducible repeat' first | assumption | refine fun _ => ?_ | apply runObj_keeps | apply scatterAddRun_keeps | apply KeepsR.next | exact KeepsR.fault | refine Keeps.ofNext (by assumption) ?_

theorem numberTile_keeps {s0 : State} {r : OpRun} {s : State} {t : Tile} (hs : Keeps s0 s) :
    Keeps s0 (numberTile r s t) := by
  unfold numberTile
  with_reducible repeat' first | assumption | refine fun _ => ?_ | apply State.updDie_keeps | apply Keeps.ite

theorem sendTile_keeps {s0 : State} {r : OpRun} {s : State} {t : Tile} (hs : Keeps s0 s) :
    Keeps s0 (sendTile r s t) := by
  unfold sendTile
  with_reducible repeat' first | assumption | refine fun _ => ?_ | apply numberTile_keeps | apply State.updDie_keeps | apply updTile_keeps | apply sendPackets_keeps | apply releaseMerges_keeps | apply Keeps.ite

theorem remoteItem_keeps {s0 : State} {r : OpRun} {s : State} {b0 : Nat} {b1 : Nat} (hs : Keeps s0 s) :
    Keeps s0 (remoteItem r s b0 b1) := by
  unfold remoteItem
  with_reducible repeat' first | assumption | refine fun _ => ?_ | apply repairPayload_keeps | apply OpRun.reportRead_keeps | apply OpRun.reportOut_keeps | apply OpRun.report_keeps | apply countOriginated_keeps | apply beginSlices_keeps | apply Keeps.ite

theorem remoteRun_keeps {s0 : State} {r : OpRun} {s : State} (hs : Keeps s0 s) :
    Keeps s0 (remoteRun r s) := by
  unfold remoteRun
  with_reducible repeat' first | assumption | refine fun _ => ?_ | apply reportExtents_keeps | apply forItems_keeps | apply remoteItem_keeps | apply Keeps.ite

theorem execRemoteAdd_keeps {s0 : State} {queue : Nat} {s : State} (hs : Keeps s0 s) :
    KeepsR s0 (execRemoteAdd queue s) := by
  unfold execRemoteAdd
  with_reducible repeat' first | assumption | refine fun _ => ?_ | apply runObj_keeps | apply remoteRun_keeps | apply KeepsR.next | exact KeepsR.fault | refine Keeps.ofNext (by assumption) ?_

/-! Machine/QueueCommands. -/

theorem setWord_keeps {s0 s : State} {addr : Nat} {v : W64} (hs : Keeps s0 s) :
    Keeps s0 (setWord s addr v) := by
  unfold setWord
  with_reducible repeat' first | assumption | refine fun _ => ?_ | apply deviceWrite_keeps

theorem performSet_keeps {s0 s : State} {num : Nat} (hs : Keeps s0 s) :
    Keeps s0 (performSet s num) := by
  unfold performSet
  with_reducible repeat' first | assumption | refine fun _ => ?_ | apply endCmd_keeps | apply updCmd_keeps | apply setWord_keeps | apply raceWord_keeps | apply Keeps.ite | split

theorem dispatchFlag_keeps {s0 s : State} {num : Nat} {kind : Nat} {go : State → Queue → Cmd → Nat → State} (hs : Keeps s0 s) (hgo : ∀ x0 x1 x2 x3, Keeps s0 x0 → Keeps s0 (go x0 x1 x2 x3)) :
    Keeps s0 (dispatchFlag s num kind go) := by
  unfold dispatchFlag
  with_reducible repeat' first | assumption | refine fun _ => ?_ | apply beginCmd_keeps | apply abortCmd_keeps | apply hgo | apply Keeps.ite | split

theorem execFlagSet_keeps {s0 : State} {queue : Nat} {s : State} (hs : Keeps s0 s) :
    KeepsR s0 (execFlagSet queue s) := by
  unfold execFlagSet
  with_reducible repeat' first | assumption | refine fun _ => ?_ | apply performSet_keeps | apply dispatchFlag_keeps | apply KeepsR.ite | apply Keeps.ite | apply KeepsR.next | exact KeepsR.fault

theorem registerWait_keeps {s0 s : State} {num : Nat} {serial : Nat} {addr : Nat} {v : W64} (hs : Keeps s0 s) :
    Keeps s0 (registerWait s num serial addr v) := by
  unfold registerWait
  with_reducible repeat' first | assumption | refine fun _ => ?_ | apply touchFar_keeps | apply raceRead_keeps | apply finish_keeps | apply updQueue_keeps | apply State.updFar_keeps | apply Keeps.ite | ((first | lift_lets | skip); intro x; first | (have hx : Keeps s0 x := by (simp only [x]; repeat' first | assumption | refine fun _ => ?_ | apply touchFar_keeps | apply raceRead_keeps | apply finish_keeps | apply updQueue_keeps | apply State.updFar_keeps | apply Keeps.ite | split | (apply FarTier.ok_same; assumption; rfl; rfl))); clear_value x | skip) | split | (apply FarTier.ok_same; assumption; rfl; rfl)

theorem execFlagWait_keeps {s0 : State} {queue : Nat} {s : State} (hs : Keeps s0 s) :
    KeepsR s0 (execFlagWait queue s) := by
  unfold execFlagWait
  with_reducible repeat' first | assumption | refine fun _ => ?_ | apply dispatchFlag_keeps | apply registerWait_keeps | apply KeepsR.next | exact KeepsR.fault

theorem endWait_keeps {s0 s : State} {num : Nat} (hs : Keeps s0 s) :
    Keeps s0 (endWait s num) := by
  unfold endWait
  with_reducible repeat' first | assumption | refine fun _ => ?_ | apply State.updFar_keeps | apply finish_keeps | apply updQueue_keeps | apply Keeps.ite | split | (apply FarTier.ok_same; assumption; rfl; rfl)

theorem execWatchAnswer_keeps {s0 : State} {stack : Fin 16} {number : Nat} {s : State} (hs : Keeps s0 s) :
    KeepsR s0 (execWatchAnswer stack number s) := by
  unfold execWatchAnswer
  with_reducible repeat' first | assumption | refine fun _ => ?_ | apply endWait_keeps | apply KeepsR.next | exact KeepsR.fault | split

theorem execWatchPoll_keeps {s0 : State} {queue : Nat} {s : State} (hs : Keeps s0 s) :
    KeepsR s0 (execWatchPoll queue s) := by
  unfold execWatchPoll
  with_reducible repeat' first | assumption | refine fun _ => ?_ | apply endWait_keeps | apply touchFar_keeps | apply KeepsR.ite | apply Keeps.ite | apply KeepsR.next | exact KeepsR.fault | split

theorem execFlagWaitTimeout_keeps {s0 : State} {queue : Nat} {s : State} (hs : Keeps s0 s) :
    KeepsR s0 (execFlagWaitTimeout queue s) := by
  unfold execFlagWaitTimeout
  with_reducible repeat' first | assumption | refine fun _ => ?_ | apply postBoth_keeps | apply releaseBoundary_keeps | apply updQueue_keeps | apply KeepsR.ite | apply Keeps.ite | apply KeepsR.next | exact KeepsR.fault | split

theorem execNop_keeps {s0 : State} {queue : Nat} {s : State} (hs : Keeps s0 s) :
    KeepsR s0 (execNop queue s) := by
  unfold execNop
  with_reducible repeat' first | assumption | refine fun _ => ?_ | apply finish_keeps | apply beginCmd_keeps | apply abortCmd_keeps | apply KeepsR.ite | apply Keeps.ite | apply KeepsR.next | exact KeepsR.fault | split

theorem fillRegion_keeps {s0 s : State} {r : OpRun} {p : Phase} {core : Nat} {t : Tile} (hs : Keeps s0 s) :
    Keeps s0 (fillRegion s r p core t) := by
  unfold fillRegion
  with_reducible repeat' first | assumption | refine fun _ => ?_ | apply State.updCore_keeps | apply CoreCtx.store_keeps | apply Keeps.ite

theorem preclaimDie_keeps {s0 : State} {r : OpRun} {pi : Nat} {p : Phase} {s : State} {die : Nat} (hs : Keeps s0 s) :
    Keeps s0 (preclaimDie r pi p s die) := by
  unfold preclaimDie
  with_reducible repeat' first | assumption | refine fun _ => ?_ | apply deviceWrite_keeps | apply updCmd_keeps | apply State.updCore_keeps | apply fillRegion_keeps | apply wakeCore_keeps | apply Keeps.foldl | apply FarTier.foldl_ok | apply CoreCtx.foldl_ok | apply Keeps.ite | (apply CoreCtx.ok_same; assumption; rfl)

theorem preclaim_keeps {s0 s : State} {r : OpRun} (hs : Keeps s0 s) :
    Keeps s0 (preclaim s r) := by
  unfold preclaim
  with_reducible repeat' first | assumption | refine fun _ => ?_ | apply preclaimDie_keeps | apply Keeps.foldl | apply FarTier.foldl_ok | apply CoreCtx.foldl_ok | apply Keeps.ite

theorem prefetchBoundary_keeps {s0 s : State} {q : Queue} {j : Job} {c : Cmd} {p : Program} {e : Entry} {b : BodyEntry} (hs : Keeps s0 s) :
    Keeps s0 (prefetchBoundary s q j c p e b) := by
  unfold prefetchBoundary
  with_reducible repeat' first | assumption | refine fun _ => ?_ | apply wakeBound_keeps | apply zeroCounters_keeps | apply updCmd_keeps | apply startKeys_keeps | apply preclaim_keeps | apply Keeps.ite

theorem execBoundaryCommand_keeps {s0 : State} {queue : Nat} {s : State} (hs : Keeps s0 s) :
    KeepsR s0 (execBoundaryCommand queue s) := by
  unfold execBoundaryCommand
  with_reducible repeat' first | assumption | refine fun _ => ?_ | apply prefetchBoundary_keeps | apply KeepsR.ite | apply Keeps.ite | apply KeepsR.next | exact KeepsR.fault | split

theorem clearBuffer_keeps {s0 s : State} {core : Nat} {h : HandleBind} {len : Nat} (hs : Keeps s0 s) :
    Keeps s0 (clearBuffer s core h len) := by
  unfold clearBuffer
  with_reducible repeat' first | assumption | refine fun _ => ?_ | apply View.storeRuns_keeps

theorem commitBuffer_keeps {s0 : State} {r : OpRun} {s : State} {x : Nat × Accum} (hs : Keeps s0 s) :
    Keeps s0 (commitBuffer r s x) := by
  unfold commitBuffer
  with_reducible repeat' first | assumption | refine fun _ => ?_ | apply View.put_keeps | apply noteBlocks_keeps | apply OpRun.reportOut_keeps | apply clearBuffer_keeps | refine Keeps.ofFst (by assumption) ?_

theorem beginHeld_keeps {s0 : State} {r : OpRun} {s : State} {hdrs : List HeldHdr} (hs : Keeps s0 s) :
    Keeps s0 (beginHeld r s hdrs) := by
  unfold beginHeld
  with_reducible repeat' first | assumption | refine fun _ => ?_ | apply beginDest_keeps | apply Keeps.foldl | apply FarTier.foldl_ok | apply CoreCtx.foldl_ok

theorem execAccumulatorCommit_keeps {s0 : State} {queue : Nat} {serial : Nat} {s : State} (hs : Keeps s0 s) :
    KeepsR s0 (execAccumulatorCommit queue serial s) := by
  unfold execAccumulatorCommit
  with_reducible repeat' first | assumption | refine fun _ => ?_ | apply commitBuffer_keeps | apply beginHeld_keeps | apply mapCores_keeps | apply updCmd_keeps | apply Keeps.foldl | apply FarTier.foldl_ok | apply CoreCtx.foldl_ok | apply KeepsR.ite | apply Keeps.ite | apply KeepsR.next | exact KeepsR.fault | split | (apply CoreCtx.ok_same; assumption; rfl)

theorem drainCommand_keeps {s0 s : State} {num : Nat} {serial : Nat} (hs : Keeps s0 s) :
    Keeps s0 (drainCommand s num serial) := by
  unfold drainCommand
  with_reducible repeat' first | assumption | refine fun _ => ?_ | apply settleScatter_keeps | apply writeHeaders_keeps | apply scrambleDest_keeps | apply Keeps.ite | split

theorem dropCommand_keeps {s0 s : State} {num : Nat} {serial : Nat} (hs : Keeps s0 s) :
    Keeps s0 (dropCommand s num serial) := by
  unfold dropCommand
  with_reducible repeat' first | assumption | refine fun _ => ?_ | apply mapCores_keeps | apply mapDies_keeps | (apply CoreCtx.ok_same; assumption; rfl)

theorem execCommandComplete_keeps {s0 : State} {queue : Nat} {serial : Nat} {s : State} (hs : Keeps s0 s) :
    KeepsR s0 (execCommandComplete queue serial s) := by
  unfold execCommandComplete
  with_reducible repeat' first | assumption | refine fun _ => ?_ | apply drainCommand_keeps | apply endCmd_keeps | apply releaseKeys_keeps | apply dropCommand_keeps | apply KeepsR.ite | apply Keeps.ite | apply KeepsR.next | exact KeepsR.fault | split

theorem execCompletionRecordPost_keeps {s0 : State} {queue : Nat} {s : State} (hs : Keeps s0 s) :
    KeepsR s0 (execCompletionRecordPost queue s) := by
  unfold execCompletionRecordPost
  with_reducible repeat' first | assumption | refine fun _ => ?_ | apply settleDestroys_keeps | apply writeRecord_keeps | apply KeepsR.next | exact KeepsR.fault | split

theorem execCommandAbort_keeps {s0 : State} {queue : Nat} {serial : Nat} {cls : Nat} {s : State} (hs : Keeps s0 s) :
    KeepsR s0 (execCommandAbort queue serial cls s) := by
  unfold execCommandAbort
  with_reducible repeat' first | assumption | refine fun _ => ?_ | apply abortCmd_keeps | apply KeepsR.ite | apply Keeps.ite | apply KeepsR.next | exact KeepsR.fault | split

/-! Machine/Sched. -/

theorem takeClaim_keeps {s0 s : State} {r : OpRun} {core : Nat} {num : Nat} {serial : Nat} {t : Tile} (hs : Keeps s0 s) :
    Keeps s0 (takeClaim s r core num serial t) := by
  unfold takeClaim
  with_reducible repeat' first | assumption | refine fun _ => ?_ | apply updTile_keeps | apply wakeCore_keeps | apply State.updCore_keeps | apply numberTile_keeps | apply urge_keeps | (apply CoreCtx.ok_same; assumption; rfl)

theorem execClaim_keeps {s0 : State} {core : Nat} {queue : Nat} {serial : Nat} {phase : Nat} {s : State} (hs : Keeps s0 s) :
    KeepsR s0 (execClaim core queue serial phase s) := by
  unfold execClaim
  repeat' first | with_reducible assumption | with_reducible refine fun _ => ?_ | with_reducible apply deviceWrite_keeps | with_reducible apply touchFar_keeps | with_reducible apply takeClaim_keeps | with_reducible apply KeepsR.ite | with_reducible apply Keeps.ite | with_reducible apply KeepsR.next | with_reducible exact KeepsR.fault | split | ((first | lift_lets | skip); intro x; first | (have hx : Keeps s0 x := by (simp only [x]; repeat' first | with_reducible assumption | with_reducible refine fun _ => ?_ | with_reducible apply deviceWrite_keeps | with_reducible apply touchFar_keeps | with_reducible apply takeClaim_keeps | with_reducible apply KeepsR.ite | with_reducible apply Keeps.ite | with_reducible apply KeepsR.next | with_reducible exact KeepsR.fault | (with_reducible apply PortState.ok_same; assumption; rfl; rfl) | (with_reducible apply FarTier.ok_same; assumption; rfl; rfl) | (with_reducible apply CoreCtx.ok_same; assumption; rfl) | split | with_reducible refine Keeps.mk' ?_ ?_ ?_ ?_ ?_)); clear_value x | skip) | (with_reducible apply PortState.ok_same; assumption; rfl; rfl) | (with_reducible apply FarTier.ok_same; assumption; rfl; rfl) | (with_reducible apply CoreCtx.ok_same; assumption; rfl) | split | with_reducible refine Keeps.mk' ?_ ?_ ?_ ?_ ?_

theorem openMirror_keeps {s0 : State} {num : Nat} {serial : Nat} {core : Nat} {s : State} {h : Handle} (hs : Keeps s0 s) :
    Keeps s0 (openMirror num serial core s h) := by
  unfold openMirror
  with_reducible repeat' first | assumption | refine fun _ => ?_ | apply State.updCore_keeps | apply CoreCtx.store_keeps | apply Keeps.ite | (apply CoreCtx.ok_same; assumption; rfl)

theorem ensureAccum_keeps {num : Nat} {serial : Nat} {lowest : Nat} {base : Nat} {b : HandleBind} {c : CoreCtx} (hc : CoreCtx.ok c) :
    CoreCtx.ok (ensureAccum num serial lowest base b c) := by
  unfold ensureAccum
  with_reducible repeat' first | assumption | refine fun _ => ?_ | apply CoreCtx.ite_ok | (apply CoreCtx.ok_same; assumption; rfl)

theorem openAccums_keeps {s0 s : State} {x : Candidate} {core : Nat} (hs : Keeps s0 s) :
    Keeps s0 (openAccums s x core) := by
  unfold openAccums
  with_reducible repeat' first | assumption | refine fun _ => ?_ | apply State.updCore_keeps | apply ensureAccum_keeps | apply Keeps.foldl | apply FarTier.foldl_ok | apply CoreCtx.foldl_ok | apply Keeps.ite

theorem firstTask_keeps {s0 s : State} {num : Nat} {serial : Nat} {core : Nat} (hs : Keeps s0 s) :
    Keeps s0 (firstTask s num serial core) := by
  unfold firstTask
  with_reducible repeat' first | assumption | refine fun _ => ?_ | apply updCmd_keeps | apply State.updCore_keeps | apply Keeps.ite | split | (apply CoreCtx.ok_same; assumption; rfl)

theorem skipReads_keeps {s0 s : State} {x : Candidate} {gone : PieceId → Bool} (hs : Keeps s0 s) :
    Keeps s0 (skipReads s x gone) := by
  unfold skipReads
  with_reducible repeat' first | assumption | refine fun _ => ?_ | apply State.updDie_keeps

theorem tileDone_keeps {s0 s : State} {num : Nat} {serial : Nat} {index : Nat} (hs : Keeps s0 s) :
    Keeps s0 (tileDone s num serial index) := by
  unfold tileDone
  with_reducible repeat' first | assumption | refine fun _ => ?_ | apply updTile_keeps

theorem unhold_keeps {num : Nat} {serial : Nat} {index : Nat} {c : CoreCtx} (hc : CoreCtx.ok c) :
    CoreCtx.ok (unhold num serial index c) := by
  unfold unhold
  with_reducible repeat' first | assumption | refine fun _ => ?_ | (apply CoreCtx.ok_same; assumption; rfl)

theorem placeTile_keeps {s0 s : State} {core : Nat} {x : Candidate} (hs : Keeps s0 s) :
    Keeps s0 (placeTile s core x) := by
  unfold placeTile
  with_reducible repeat' first | assumption | refine fun _ => ?_ | apply sendTile_keeps | apply State.updCore_keeps | apply unhold_keeps | apply idleCore_keeps | apply tileDone_keeps | apply skipReads_keeps | apply firstTask_keeps | apply openAccums_keeps | apply openMirror_keeps | apply updTile_keeps | apply wakeCore_keeps | apply urge_keeps | apply Keeps.foldl | apply FarTier.foldl_ok | apply CoreCtx.foldl_ok | apply Keeps.ite | ((first | lift_lets | skip); intro x; first | (have hx : Keeps s0 x := by (simp only [x]; repeat' first | assumption | refine fun _ => ?_ | apply sendTile_keeps | apply State.updCore_keeps | apply unhold_keeps | apply idleCore_keeps | apply tileDone_keeps | apply skipReads_keeps | apply firstTask_keeps | apply openAccums_keeps | apply openMirror_keeps | apply updTile_keeps | apply wakeCore_keeps | apply urge_keeps | apply Keeps.foldl | apply FarTier.foldl_ok | apply CoreCtx.foldl_ok | apply Keeps.ite | split | (apply CoreCtx.ok_same; assumption; rfl))); clear_value x | skip) | split | (apply CoreCtx.ok_same; assumption; rfl)

theorem execTaskPlace_keeps {s0 : State} {core : Nat} {s : State} (hs : Keeps s0 s) :
    KeepsR s0 (execTaskPlace core s) := by
  unfold execTaskPlace
  with_reducible repeat' first | assumption | refine fun _ => ?_ | apply placeTile_keeps | apply KeepsR.ite | apply Keeps.ite | apply KeepsR.next | exact KeepsR.fault | split

theorem freeTask_keeps {slot : Nat} {c : CoreCtx} (hc : CoreCtx.ok c) :
    CoreCtx.ok (freeTask slot c) := by
  unfold freeTask
  with_reducible repeat' first | assumption | refine fun _ => ?_ | apply CoreCtx.ite_ok | (apply CoreCtx.ok_same; assumption; rfl)

theorem reportDone_keeps {s0 s : State} {t : Task} (hs : Keeps s0 s) :
    Keeps s0 (reportDone s t) := by
  unfold reportDone
  with_reducible repeat' first | assumption | refine fun _ => ?_ | apply tileDone_keeps | apply Keeps.ite | split

theorem execTaskComplete_keeps {s0 : State} {core : Nat} {slot : Nat} {s : State} (hs : Keeps s0 s) :
    KeepsR s0 (execTaskComplete core slot s) := by
  unfold execTaskComplete
  with_reducible repeat' first | assumption | refine fun _ => ?_ | apply reportDone_keeps | apply State.updCore_keeps | apply freeTask_keeps | apply State.updDie_keeps | apply idleCore_keeps | apply settleRetire_keeps | apply KeepsR.ite | apply Keeps.ite | apply KeepsR.next | exact KeepsR.fault | split

theorem execPassNotice_keeps {s0 : State} {core : Nat} {handle : Nat} {claim : Claim} {s : State} (hs : Keeps s0 s) :
    KeepsR s0 (execPassNotice core handle claim s) := by
  unfold execPassNotice
  with_reducible repeat' first | assumption | refine fun _ => ?_ | apply State.updCore_keeps | apply KeepsR.ite | apply Keeps.ite | apply KeepsR.next | exact KeepsR.fault | (apply CoreCtx.ok_same; assumption; rfl)

/-! Machine/CoreInstr. -/

theorem updTask_keeps {c : CoreCtx} {slot : Nat} {f : Task → Task} (hc : CoreCtx.ok c) :
    CoreCtx.ok (updTask c slot f) := by
  unfold updTask
  with_reducible repeat' first | assumption | refine fun _ => ?_ | split | (apply CoreCtx.ok_same; assumption; rfl)

theorem enqueueInstr_keeps {now : W64} {slot : Nat} {target : Nat} {i : CoreInstr} {lvl2 : Nat} {t : Task} {c : CoreCtx} (hc : CoreCtx.ok c) :
    CoreCtx.ok (enqueueInstr now slot target i lvl2 t c) := by
  unfold enqueueInstr
  with_reducible repeat' first | assumption | refine fun _ => ?_ | apply startEngines_keeps | apply updTask_keeps | (apply CoreCtx.ok_same; assumption; rfl)

theorem issueRow_keeps {s0 : State} {core : Nat} {kind : CoreInstr → Bool} {go : State → Nat → Task → CoreInstr → State} {s : State} (hgo : ∀ x0 x1 x2 x3, Keeps s0 x0 → Keeps s0 (go x0 x1 x2 x3)) (hs : Keeps s0 s) :
    KeepsR s0 (issueRow core kind go s) := by
  unfold issueRow
  with_reducible repeat' first | assumption | refine fun _ => ?_ | apply hgo | apply KeepsR.ite | apply Keeps.ite | apply KeepsR.next | exact KeepsR.fault | split

theorem skipAtIssue_keeps {s0 s : State} {core : Nat} {slot : Nat} {t : Task} {i : CoreInstr} {id : Nat} (hs : Keeps s0 s) :
    Keeps s0 (skipAtIssue s core slot t i id) := by
  unfold skipAtIssue
  with_reducible repeat' first | assumption | refine fun _ => ?_ | apply State.updDie_keeps | apply Keeps.ite

theorem issueEngine_keeps {s0 : State} {core : Nat} {s : State} {slot : Nat} {t : Task} {i : CoreInstr} (hs : Keeps s0 s) :
    Keeps s0 (issueEngine core s slot t i) := by
  unfold issueEngine
  with_reducible repeat' first | assumption | refine fun _ => ?_ | apply skipAtIssue_keeps | apply State.updCore_keeps | apply enqueueInstr_keeps | apply Keeps.ite

theorem execNttFwdInstruction_keeps {s0 : State} {core : Nat} {s : State} (hs : Keeps s0 s) :
    KeepsR s0 (execNttFwdInstruction core s) := by
  unfold execNttFwdInstruction
  with_reducible repeat' first | assumption | refine fun _ => ?_ | apply issueRow_keeps | apply issueEngine_keeps | apply KeepsR.next | exact KeepsR.fault | refine Keeps.ofNext (by assumption) ?_

theorem execNttInvInstruction_keeps {s0 : State} {core : Nat} {s : State} (hs : Keeps s0 s) :
    KeepsR s0 (execNttInvInstruction core s) := by
  unfold execNttInvInstruction
  with_reducible repeat' first | assumption | refine fun _ => ?_ | apply issueRow_keeps | apply issueEngine_keeps | apply KeepsR.next | exact KeepsR.fault | refine Keeps.ofNext (by assumption) ?_

theorem execMxaMatmul_keeps {s0 : State} {core : Nat} {s : State} (hs : Keeps s0 s) :
    KeepsR s0 (execMxaMatmul core s) := by
  unfold execMxaMatmul
  with_reducible repeat' first | assumption | refine fun _ => ?_ | apply issueRow_keeps | apply issueEngine_keeps | apply KeepsR.next | exact KeepsR.fault | refine Keeps.ofNext (by assumption) ?_

theorem execInner_keeps {s0 : State} {core : Nat} {s : State} (hs : Keeps s0 s) :
    KeepsR s0 (execInner core s) := by
  unfold execInner
  with_reducible repeat' first | assumption | refine fun _ => ?_ | apply issueRow_keeps | apply issueEngine_keeps | apply KeepsR.next | exact KeepsR.fault | refine Keeps.ofNext (by assumption) ?_

theorem execBconvFast_keeps {s0 : State} {core : Nat} {s : State} (hs : Keeps s0 s) :
    KeepsR s0 (execBconvFast core s) := by
  unfold execBconvFast
  with_reducible repeat' first | assumption | refine fun _ => ?_ | apply issueRow_keeps | apply issueEngine_keeps | apply KeepsR.next | exact KeepsR.fault | refine Keeps.ofNext (by assumption) ?_

theorem execBconvExact_keeps {s0 : State} {core : Nat} {s : State} (hs : Keeps s0 s) :
    KeepsR s0 (execBconvExact core s) := by
  unfold execBconvExact
  with_reducible repeat' first | assumption | refine fun _ => ?_ | apply issueRow_keeps | apply issueEngine_keeps | apply KeepsR.next | exact KeepsR.fault | refine Keeps.ofNext (by assumption) ?_

theorem execVxeChain_keeps {s0 : State} {core : Nat} {s : State} (hs : Keeps s0 s) :
    KeepsR s0 (execVxeChain core s) := by
  unfold execVxeChain
  with_reducible repeat' first | assumption | refine fun _ => ?_ | apply issueRow_keeps | apply issueEngine_keeps | apply KeepsR.next | exact KeepsR.fault | refine Keeps.ofNext (by assumption) ?_

theorem execDma_keeps {s0 : State} {core : Nat} {s : State} (hs : Keeps s0 s) :
    KeepsR s0 (execDma core s) := by
  unfold execDma
  with_reducible repeat' first | assumption | refine fun _ => ?_ | apply issueRow_keeps | apply issueEngine_keeps | apply KeepsR.next | exact KeepsR.fault | refine Keeps.ofNext (by assumption) ?_

theorem freeWrites_keeps {s0 s : State} {w : Nat} {l : List (Int × Nat)} (hs : Keeps s0 s) :
    Keeps s0 (freeWrites s w l).1 := by
  unfold freeWrites
  repeat' first | assumption | refine fun _ => ?_ | split

theorem Issue.report_keeps {s0 : State} {x : Issue} {d : Desc} {item : Nat} {rule : Nat} {event : OpRun → Nat → Option Nat} {s : State} (hs : Keeps s0 s) :
    Keeps s0 (Issue.report x d item rule event s) := by
  unfold Issue.report
  with_reducible repeat' first | assumption | refine fun _ => ?_ | apply OpRun.reportBy_keeps | split

theorem Issue.reportOut_keeps {s0 : State} {x : Issue} {d : Desc} {v : View} {w : Nat} {item : Nat} {offs : List Int} {s : State} (hs : Keeps s0 s) :
    Keeps s0 (Issue.reportOut x d v w item offs s) := by
  unfold Issue.reportOut
  with_reducible repeat' first | assumption | refine fun _ => ?_ | apply Issue.report_keeps | split

theorem Issue.reportHeld_keeps {s0 : State} {x : Issue} {items : List (Nat × Nat)} {s : State} {u : DescUse} (hs : Keeps s0 s) :
    Keeps s0 (Issue.reportHeld x items s u) := by
  unfold Issue.reportHeld
  with_reducible repeat' first | assumption | refine fun _ => ?_ | apply Issue.report_keeps | apply Keeps.foldl | apply FarTier.foldl_ok | apply CoreCtx.foldl_ok | split

theorem Issue.reportRun_keeps {s0 : State} {x : Issue} {i : CoreInstr} {r : InstrRun} {s : State} (hs : Keeps s0 s) :
    Keeps s0 (Issue.reportRun x i r s) := by
  unfold Issue.reportRun
  with_reducible repeat' first | assumption | refine fun _ => ?_ | apply Issue.reportHeld_keeps | apply Issue.report_keeps | apply Issue.reportOut_keeps | apply Keeps.foldl | apply FarTier.foldl_ok | apply CoreCtx.foldl_ok | apply Keeps.ite

theorem Issue.begin_keeps {s0 : State} {x : Issue} {v : View} {w : Nat} {writes : List (Int × Nat)} {s : State} (hs : Keeps s0 s) :
    Keeps s0 (Issue.begin x v w writes s) := by
  unfold Issue.begin
  with_reducible repeat' first | assumption | refine fun _ => ?_ | apply updTile_keeps | apply Keeps.ite | split

theorem Issue.noteWritten_keeps {s0 : State} {x : Issue} {v : View} {w : Nat} {writes : List (Int × Nat)} {s : State} (hs : Keeps s0 s) :
    Keeps s0 (Issue.noteWritten x v w writes s) := by
  unfold Issue.noteWritten
  with_reducible repeat' first | assumption | refine fun _ => ?_ | apply noteBlocks_keeps | apply Keeps.ite | split

theorem Issue.repair_keeps {s0 : State} {x : Issue} {r : InstrRun} {s : State} (hs : Keeps s0 s) :
    Keeps s0 (Issue.repair x r s) := by
  unfold Issue.repair
  with_reducible repeat' first | assumption | refine fun _ => ?_ | apply View.repair_keeps | apply Keeps.foldl | apply FarTier.foldl_ok | apply CoreCtx.foldl_ok

theorem instrEffect_keeps {s0 : State} {x : Issue} {i : CoreInstr} {s : State} (hs : Keeps s0 s) :
    Keeps s0 (instrEffect x i s) := by
  unfold instrEffect
  with_reducible repeat' first | assumption | refine fun _ => ?_ | apply Issue.repair_keeps | apply freeWrites_keeps | apply Issue.begin_keeps | apply View.put_keeps | apply Issue.noteWritten_keeps | apply markHeld_keeps | apply Issue.reportRun_keeps | apply Keeps.ite | refine Keeps.ofFst (by assumption) ?_ | split

theorem markRacy_keeps {s0 s : State} {core : Nat} {f : InFlight} (hs : Keeps s0 s) :
    Keeps s0 (markRacy s core f) := by
  unfold markRacy
  with_reducible repeat' first | assumption | refine fun _ => ?_ | apply State.updCore_keeps | apply Keeps.foldl | apply FarTier.foldl_ok | apply CoreCtx.foldl_ok | apply Keeps.ite | (apply CoreCtx.ok_same; assumption; rfl)

theorem failTiles_keeps {s0 s : State} {l : List (Nat × Nat × Nat)} {cls : Nat} (hs : Keeps s0 s) :
    Keeps s0 (failTiles s l cls) := by
  unfold failTiles
  with_reducible repeat' first | assumption | refine fun _ => ?_ | apply failTile_keeps | apply Keeps.foldl | apply FarTier.foldl_ok | apply CoreCtx.foldl_ok

theorem readPieces_keeps {s0 s : State} {x : Issue} {f : InFlight} (hs : Keeps s0 s) :
    Keeps s0 (readPieces s x f) := by
  unfold readPieces
  with_reducible repeat' first | assumption | refine fun _ => ?_ | apply State.updDie_keeps | apply Keeps.ite

theorem execInstructionComplete_keeps {s0 : State} {core : Nat} {id : Nat} {s : State} (hs : Keeps s0 s) :
    KeepsR s0 (execInstructionComplete core id s) := by
  unfold execInstructionComplete
  with_reducible repeat' first | assumption | refine fun _ => ?_ | apply failTiles_keeps | apply readPieces_keeps | apply instrEffect_keeps | apply markRacy_keeps | apply State.updCore_keeps | apply startEngines_keeps | apply KeepsR.ite | apply Keeps.ite | apply KeepsR.next | exact KeepsR.fault | split | (apply CoreCtx.ok_same; assumption; rfl)

theorem execDmaTransferStart_keeps {s0 : State} {core : Nat} {pq : Nat} {s : State} (hs : Keeps s0 s) :
    KeepsR s0 (execDmaTransferStart core pq s) := by
  unfold execDmaTransferStart
  with_reducible repeat' first | assumption | refine fun _ => ?_ | apply State.updCore_keeps | apply KeepsR.ite | apply Keeps.ite | apply KeepsR.next | exact KeepsR.fault | split | (apply CoreCtx.ok_same; assumption; rfl)

theorem sendFold_keeps {s0 : State} {core : Nat} {s : State} {slot : Nat} {t : Task} {i : CoreInstr} (hs : Keeps s0 s) :
    Keeps s0 (sendFold core s slot t i) := by
  unfold sendFold
  with_reducible repeat' first | assumption | refine fun _ => ?_ | apply issueEngine_keeps | apply State.updCore_keeps | split | (apply CoreCtx.ok_same; assumption; rfl)

theorem execFold_keeps {s0 : State} {core : Nat} {s : State} (hs : Keeps s0 s) :
    KeepsR s0 (execFold core s) := by
  unfold execFold
  with_reducible repeat' first | assumption | refine fun _ => ?_ | apply issueRow_keeps | apply sendFold_keeps | apply KeepsR.next | exact KeepsR.fault | refine Keeps.ofNext (by assumption) ?_

theorem releaseFold_keeps {w : WaitingFold} {c : CoreCtx} (hc : CoreCtx.ok c) :
    CoreCtx.ok (releaseFold w c) := by
  unfold releaseFold
  with_reducible repeat' first | assumption | refine fun _ => ?_ | (apply CoreCtx.ok_same; assumption; rfl)

theorem addFold_keeps {s0 s : State} {core : Nat} {a : Accum} {w : WaitingFold} (hs : Keeps s0 s) :
    Keeps s0 (addFold s core a w) := by
  unfold addFold
  with_reducible repeat' first | assumption | refine fun _ => ?_ | apply View.storeRuns_keeps

theorem applyFold_keeps {s0 s : State} {core : Nat} {a : Accum} {w : WaitingFold} (hs : Keeps s0 s) :
    Keeps s0 (applyFold s core a w) := by
  unfold applyFold
  with_reducible repeat' first | assumption | refine fun _ => ?_ | apply State.updCore_keeps | apply releaseFold_keeps | apply failTile_keeps | apply noteFault_keeps | apply addFold_keeps | apply Keeps.ite | (apply CoreCtx.ok_same; assumption; rfl)

theorem execFoldApply_keeps {s0 : State} {core : Nat} {handle : Nat} {s : State} (hs : Keeps s0 s) :
    KeepsR s0 (execFoldApply core handle s) := by
  unfold execFoldApply
  with_reducible repeat' first | assumption | refine fun _ => ?_ | apply applyFold_keeps | apply KeepsR.ite | apply Keeps.ite | apply KeepsR.next | exact KeepsR.fault | split

theorem signalEvent_keeps {now : W64} {e : Nat} {c : CoreCtx} (hc : CoreCtx.ok c) :
    CoreCtx.ok (signalEvent now e c) := by
  unfold signalEvent
  with_reducible repeat' first | assumption | refine fun _ => ?_ | apply CoreCtx.ite_ok | (apply CoreCtx.ok_same; assumption; rfl)

theorem issueLocal_keeps {s0 : State} {core : Nat} {f : Task → CoreInstr → Task} {s : State} {slot : Nat} {a4 : Task} {i : CoreInstr} (hs : Keeps s0 s) :
    Keeps s0 (issueLocal core f s slot a4 i) := by
  unfold issueLocal
  with_reducible repeat' first | assumption | refine fun _ => ?_ | apply State.updCore_keeps | apply updTask_keeps | (apply CoreCtx.ok_same; assumption; rfl)

theorem execSignal_keeps {s0 : State} {core : Nat} {s : State} (hs : Keeps s0 s) :
    KeepsR s0 (execSignal core s) := by
  unfold execSignal
  with_reducible repeat' first | assumption | refine fun _ => ?_ | apply issueRow_keeps | apply issueLocal_keeps | apply State.updCore_keeps | apply signalEvent_keeps | apply KeepsR.next | exact KeepsR.fault | refine Keeps.ofNext (by assumption) ?_ | split

theorem execWait_keeps {s0 : State} {core : Nat} {s : State} (hs : Keeps s0 s) :
    KeepsR s0 (execWait core s) := by
  unfold execWait
  with_reducible repeat' first | assumption | refine fun _ => ?_ | apply issueRow_keeps | apply issueLocal_keeps | apply KeepsR.next | exact KeepsR.fault | refine Keeps.ofNext (by assumption) ?_

theorem execFenceSlot_keeps {s0 : State} {core : Nat} {s : State} (hs : Keeps s0 s) :
    KeepsR s0 (execFenceSlot core s) := by
  unfold execFenceSlot
  with_reducible repeat' first | assumption | refine fun _ => ?_ | apply issueRow_keeps | apply issueLocal_keeps | apply KeepsR.next | exact KeepsR.fault | refine Keeps.ofNext (by assumption) ?_

theorem execFenceKey_keeps {s0 : State} {core : Nat} {s : State} (hs : Keeps s0 s) :
    KeepsR s0 (execFenceKey core s) := by
  unfold execFenceKey
  with_reducible repeat' first | assumption | refine fun _ => ?_ | apply issueRow_keeps | apply issueLocal_keeps | apply KeepsR.next | exact KeepsR.fault | refine Keeps.ofNext (by assumption) ?_

theorem execEventTimeout_keeps {s0 : State} {core : Nat} {slot : Nat} {s : State} (hs : Keeps s0 s) :
    KeepsR s0 (execEventTimeout core slot s) := by
  unfold execEventTimeout
  with_reducible repeat' first | assumption | refine fun _ => ?_ | apply postBoth_keeps | apply abortCmd_keeps | apply KeepsR.ite | apply Keeps.ite | apply KeepsR.next | exact KeepsR.fault | split

theorem execScalarInstruction_keeps {s0 : State} {core : Nat} {s : State} (hs : Keeps s0 s) :
    KeepsR s0 (execScalarInstruction core s) := by
  unfold execScalarInstruction
  with_reducible repeat' first | assumption | refine fun _ => ?_ | apply issueRow_keeps | apply issueLocal_keeps | apply KeepsR.next | exact KeepsR.fault | refine Keeps.ofNext (by assumption) ?_

/-! Machine/KeyStream. -/

theorem rewriteNear_keeps {s0 s : State} {c : Caddy} {p : PieceId} (hs : Keeps s0 s) :
    Keeps s0 (rewriteNear s c p) := by
  unfold rewriteNear
  with_reducible repeat' first | assumption | refine fun _ => ?_ | apply State.updNear_keeps | apply Keeps.ite | split

theorem execPieceSend_keeps {s0 : State} {hub : Hub} {s : State} (hs : Keeps s0 s) :
    KeepsR s0 (execPieceSend hub s) := by
  unfold execPieceSend
  with_reducible repeat' first | assumption | refine fun _ => ?_ | apply touchPiece_keeps | apply State.updKey_keeps | apply KeepsR.ite | apply Keeps.ite | apply KeepsR.next | exact KeepsR.fault | split

theorem awaitAgain_keeps {s0 : State} {die : Nat} {s : State} {e : CacheEntry} (hs : Keeps s0 s) :
    Keeps s0 (awaitAgain die s e) := by
  unfold awaitAgain
  with_reducible repeat' first | assumption | refine fun _ => ?_ | apply State.updCore_keeps | apply Keeps.foldl | apply FarTier.foldl_ok | apply CoreCtx.foldl_ok | apply Keeps.ite | (apply CoreCtx.ok_same; assumption; rfl)

theorem keepPiece_keeps {s0 s : State} {die : Nat} {p : PieceId} {c : Caddy} {e : KeyEntry} {again : Bool} (hs : Keeps s0 s) :
    KeepsO s0 (keepPiece s die p c e again) := by
  unfold keepPiece
  with_reducible repeat' first | assumption | refine fun _ => ?_ | apply rewriteNear_keeps | apply State.updKey_keeps | apply State.updDie_keeps | apply awaitAgain_keeps | apply Keeps.foldl | apply FarTier.foldl_ok | apply CoreCtx.foldl_ok | apply KeepsO.ite | apply Keeps.ite | apply KeepsO.some | exact KeepsO.none | ((first | lift_lets | skip); intro x; first | (have hx : Keeps s0 x := by (simp only [x]; repeat' first | assumption | refine fun _ => ?_ | apply rewriteNear_keeps | apply State.updKey_keeps | apply State.updDie_keeps | apply awaitAgain_keeps | apply Keeps.foldl | apply FarTier.foldl_ok | apply CoreCtx.foldl_ok | apply KeepsO.ite | apply Keeps.ite | apply KeepsO.some | exact KeepsO.none | split)); clear_value x | skip) | split

theorem execPieceArrive_keeps {s0 : State} {die : Fin 8} {piece : PieceId} {s : State} (hs : Keeps s0 s) :
    KeepsR s0 (execPieceArrive die piece s) := by
  unfold execPieceArrive
  with_reducible repeat' first | assumption | refine fun _ => ?_ | apply State.updKey_keeps | apply keepPiece_keeps | apply KeepsR.ite | apply Keeps.ite | apply KeepsR.next | exact KeepsR.fault | apply Keeps.getD | refine Keeps.ofO (by assumption) ?_ | split

theorem execPieceReady_keeps {s0 : State} {die : Fin 8} {piece : PieceId} {s : State} (hs : Keeps s0 s) :
    KeepsR s0 (execPieceReady die piece s) := by
  unfold execPieceReady
  with_reducible repeat' first | assumption | refine fun _ => ?_ | apply State.updDie_keeps | apply State.updCore_keeps | apply Keeps.foldl | apply FarTier.foldl_ok | apply CoreCtx.foldl_ok | apply KeepsR.ite | apply Keeps.ite | apply KeepsR.next | exact KeepsR.fault | (apply CoreCtx.ok_same; assumption; rfl)

/-! Machine/FarRows. -/

theorem fadd64_keeps {s0 s : State} {address : Nat} {value : W64} (hs : Keeps s0 s) :
    Keeps s0 (fadd64 s address value) := by
  unfold fadd64
  with_reducible repeat' first | assumption | refine fun _ => ?_ | apply State.updFar_keeps | apply setWord_keeps | apply touchFar_keeps | apply raceWord_keeps | (apply FarTier.ok_same; assumption; rfl; rfl)

theorem markPolling_keeps {s0 s : State} {queue : Nat} {address : Nat} {poll : Bool} (hs : Keeps s0 s) :
    Keeps s0 (markPolling s queue address poll) := by
  unfold markPolling
  with_reducible repeat' first | assumption | refine fun _ => ?_ | apply updCmd_keeps

theorem watch64_keeps {s0 s : State} {address : Nat} {threshold : W64} {queue : Nat} (hs : Keeps s0 s) :
    Keeps s0 (watch64 s address threshold queue) := by
  unfold watch64
  with_reducible repeat' first | assumption | refine fun _ => ?_ | apply touchFar_keeps | apply markPolling_keeps | apply State.updFar_keeps | apply Keeps.ite | split | (apply FarTier.ok_same; assumption; rfl; rfl)

theorem unwatch_keeps {s0 s : State} {stack : Nat} {number : Nat} (hs : Keeps s0 s) :
    Keeps s0 (unwatch s stack number) := by
  unfold unwatch
  with_reducible repeat' first | assumption | refine fun _ => ?_ | apply State.updFar_keeps | (apply FarTier.ok_same; assumption; rfl; rfl)

theorem reservedOperation_keeps {s0 s : State} {code : Nat} {address : Nat} (hs : Keeps s0 s) :
    Keeps s0 (reservedOperation s code address) := by
  unfold reservedOperation
  with_reducible repeat' first | assumption | refine fun _ => ?_ | apply postBoth_keeps | apply touchFar_keeps

theorem memoryOperation_keeps {s0 : State} {code : Nat} {address : Nat} {value : W64} {queue : Nat} {s : State} (hs : Keeps s0 s) :
    KeepsR s0 (memoryOperation code address value queue s) := by
  unfold memoryOperation
  with_reducible repeat' first | assumption | refine fun _ => ?_ | apply fadd64_keeps | apply setWord_keeps | apply touchFar_keeps | apply raceWord_keeps | apply watch64_keeps | apply unwatch_keeps | apply reservedOperation_keeps | apply KeepsR.ite | apply Keeps.ite | apply KeepsR.next | exact KeepsR.fault | split

theorem execFadd64_keeps {s0 : State} {op : MemOp} {value : W64} {s : State} (hs : Keeps s0 s) :
    KeepsR s0 (execFadd64 op value s) := by
  unfold execFadd64
  with_reducible repeat' first | assumption | refine fun _ => ?_ | apply memoryOperation_keeps | apply KeepsR.next | exact KeepsR.fault | refine Keeps.ofNext (by assumption) ?_ | (apply FarTier.ok_same; assumption; rfl; rfl)

theorem execSet64_keeps {s0 : State} {address : Nat} {value : W64} {s : State} (hs : Keeps s0 s) :
    KeepsR s0 (execSet64 address value s) := by
  unfold execSet64
  with_reducible repeat' first | assumption | refine fun _ => ?_ | apply memoryOperation_keeps | apply KeepsR.next | exact KeepsR.fault | refine Keeps.ofNext (by assumption) ?_

theorem execWatch64_keeps {s0 : State} {address : Nat} {threshold : W64} {queue : Nat} {s : State} (hs : Keeps s0 s) :
    KeepsR s0 (execWatch64 address threshold queue s) := by
  unfold execWatch64
  with_reducible repeat' first | assumption | refine fun _ => ?_ | apply memoryOperation_keeps | apply KeepsR.next | exact KeepsR.fault | refine Keeps.ofNext (by assumption) ?_ | split | (apply FarTier.ok_same; assumption; rfl; rfl)

theorem execUnwatch_keeps {s0 : State} {stack : Fin 16} {number : Nat} {s : State} (hs : Keeps s0 s) :
    KeepsR s0 (execUnwatch stack number s) := by
  unfold execUnwatch
  with_reducible repeat' first | assumption | refine fun _ => ?_ | apply unwatch_keeps | apply KeepsR.next | exact KeepsR.fault | (apply FarTier.ok_same; assumption; rfl; rfl)

theorem rewriteCorrected_keeps {s0 s : State} {b : Nat} {w : WordsRead} (hs : Keeps s0 s) :
    Keeps s0 (rewriteCorrected s b w) := by
  unfold rewriteCorrected
  repeat' first | with_reducible assumption | with_reducible refine fun _ => ?_ | with_reducible apply countCorrStack_keeps | with_reducible apply State.updFar_keeps | with_reducible apply setErr_keeps | with_reducible apply Keeps.ite | (with_reducible apply FarTier.ok_mem; assumption; rfl; rfl) | ((first | lift_lets | skip); intro x; first | (have hx : Keeps s0 x := by (simp only [x]; repeat' first | with_reducible assumption | with_reducible refine fun _ => ?_ | with_reducible apply countCorrStack_keeps | with_reducible apply State.updFar_keeps | with_reducible apply setErr_keeps | with_reducible apply Keeps.ite | (with_reducible apply FarTier.ok_mem; assumption; rfl; rfl) | (with_reducible apply PortState.ok_same; assumption; rfl; rfl) | (with_reducible apply FarTier.ok_same; assumption; rfl; rfl) | (with_reducible apply CoreCtx.ok_same; assumption; rfl) | split | with_reducible refine Keeps.mk' ?_ ?_ ?_ ?_ ?_)); clear_value x | skip) | (with_reducible apply PortState.ok_same; assumption; rfl; rfl) | (with_reducible apply FarTier.ok_same; assumption; rfl; rfl) | (with_reducible apply CoreCtx.ok_same; assumption; rfl) | split | with_reducible refine Keeps.mk' ?_ ?_ ?_ ?_ ?_

theorem seeUncorrectable_keeps {s0 s : State} {k : Nat} {addr : Nat} {n : Nat} (hs : Keeps s0 s) :
    Keeps s0 (seeUncorrectable s k addr n) := by
  unfold seeUncorrectable
  with_reducible repeat' first | assumption | refine fun _ => ?_ | apply noteFault_keeps | apply State.updStack_keeps | apply requestSlice_keeps | apply Keeps.ite

theorem markUnreadable_keeps {s0 s : State} {b : Nat} (hs : Keeps s0 s) :
    Keeps s0 (markUnreadable s b) := by
  unfold markUnreadable
  with_reducible repeat' first | assumption | refine fun _ => ?_ | apply State.updFar_keeps | apply Keeps.ite | (apply FarTier.ok_same; assumption; rfl; rfl)

theorem loseUnreadable_keeps {s0 s : State} {b : Nat} (hs : Keeps s0 s) :
    Keeps s0 (loseUnreadable s b) := by
  unfold loseUnreadable
  with_reducible repeat' first | assumption | refine fun _ => ?_ | apply markUnreadable_keeps | apply loseBlock_keeps | apply Keeps.ite

theorem readMate_keeps {s0 : State} {errors : List (Nat × BitVec 72)} {s : State} {x : Nat × Nat} (hs : Keeps s0 s) :
    Keeps s0 (readMate errors s x) := by
  unfold readMate
  with_reducible repeat' first | assumption | refine fun _ => ?_ | apply rewriteCorrected_keeps | apply loseUnreadable_keeps | apply seeUncorrectable_keeps | apply Keeps.ite

theorem repairParity_keeps {s0 s : State} {i : Nat} (hs : Keeps s0 s) :
    Keeps s0 (repairParity s i) := by
  unfold repairParity
  repeat' first | with_reducible assumption | with_reducible refine fun _ => ?_ | with_reducible apply State.updFar_keeps | with_reducible apply Keeps.foldl | with_reducible apply FarTier.foldl_ok | with_reducible apply CoreCtx.foldl_ok | with_reducible apply Keeps.ite | (with_reducible apply FarTier.ok_parity; assumption; rfl; rfl) | ((first | lift_lets | skip); intro x; first | (have hx : Keeps s0 x := by (simp only [x]; repeat' first | with_reducible assumption | with_reducible refine fun _ => ?_ | with_reducible apply State.updFar_keeps | with_reducible apply Keeps.foldl | with_reducible apply FarTier.foldl_ok | with_reducible apply CoreCtx.foldl_ok | with_reducible apply Keeps.ite | (with_reducible apply FarTier.ok_parity; assumption; rfl; rfl) | (with_reducible apply PortState.ok_same; assumption; rfl; rfl) | (with_reducible apply FarTier.ok_same; assumption; rfl; rfl) | (with_reducible apply CoreCtx.ok_same; assumption; rfl) | split | with_reducible refine Keeps.mk' ?_ ?_ ?_ ?_ ?_)); clear_value x | skip) | (with_reducible apply PortState.ok_same; assumption; rfl; rfl) | (with_reducible apply FarTier.ok_same; assumption; rfl; rfl) | (with_reducible apply CoreCtx.ok_same; assumption; rfl) | split | with_reducible refine Keeps.mk' ?_ ?_ ?_ ?_ ?_

theorem readParity_keeps {s0 : State} {errors : List (Nat × BitVec 72)} {s : State} {i : Nat} (hs : Keeps s0 s) :
    Keeps s0 (readParity errors s i) := by
  unfold readParity
  repeat' first | with_reducible assumption | with_reducible refine fun _ => ?_ | with_reducible apply countCorrStack_keeps | with_reducible apply State.updFar_keeps | with_reducible apply setErr_keeps | with_reducible apply repairParity_keeps | with_reducible apply seeUncorrectable_keeps | with_reducible apply Keeps.ite | (with_reducible apply FarTier.ok_parity; assumption; rfl; rfl) | ((first | lift_lets | skip); intro x; first | (have hx : Keeps s0 x := by (simp only [x]; repeat' first | with_reducible assumption | with_reducible refine fun _ => ?_ | with_reducible apply countCorrStack_keeps | with_reducible apply State.updFar_keeps | with_reducible apply setErr_keeps | with_reducible apply repairParity_keeps | with_reducible apply seeUncorrectable_keeps | with_reducible apply Keeps.ite | (with_reducible apply FarTier.ok_parity; assumption; rfl; rfl) | (with_reducible apply PortState.ok_same; assumption; rfl; rfl) | (with_reducible apply FarTier.ok_same; assumption; rfl; rfl) | (with_reducible apply CoreCtx.ok_same; assumption; rfl) | split | with_reducible refine Keeps.mk' ?_ ?_ ?_ ?_ ?_)); clear_value x | skip) | (with_reducible apply PortState.ok_same; assumption; rfl; rfl) | (with_reducible apply FarTier.ok_same; assumption; rfl; rfl) | (with_reducible apply CoreCtx.ok_same; assumption; rfl) | split | with_reducible refine Keeps.mk' ?_ ?_ ?_ ?_ ?_

theorem readRow_keeps {s0 s : State} {b : Nat} {errors : List (Nat × BitVec 72)} (hs : Keeps s0 s) :
    Keeps s0 (readRow s b errors) := by
  unfold readRow
  with_reducible repeat' first | assumption | refine fun _ => ?_ | apply readMate_keeps | apply markUnreadable_keeps | apply readParity_keeps | apply State.updFar_keeps | apply Keeps.foldl | apply FarTier.foldl_ok | apply CoreCtx.foldl_ok | apply Keeps.ite | (apply FarTier.ok_same; assumption; rfl; rfl)

theorem repairBlock_keeps {s0 s : State} {b : Nat} {asRead : List Byte} (hs : Keeps s0 s) :
    Keeps s0 (repairBlock s b asRead).1 := by
  unfold repairBlock
  with_reducible repeat' first | assumption | refine fun _ => ?_ | apply restoreBlock_keeps | apply loseBlock_keeps | split

theorem blockRead_keeps {s0 s : State} {b : Nat} {errors : List (Nat × BitVec 72)} {misread : Option (List Byte)} (hs : Keeps s0 s) :
    Keeps s0 (blockRead s b errors misread).1 := by
  unfold blockRead
  with_reducible repeat' first | assumption | refine fun _ => ?_ | apply readRow_keeps | apply loseBlock_keeps | apply rewriteCorrected_keeps | apply seeUncorrectable_keeps | apply markUnreadable_keeps | apply repairBlock_keeps | apply noteFault_keeps | apply Keeps.ite | refine Keeps.ofFst (by assumption) ?_ | ((first | lift_lets | skip); intro x; first | (have hx : Keeps s0 x := by (simp only [x]; repeat' first | assumption | refine fun _ => ?_ | apply readRow_keeps | apply loseBlock_keeps | apply rewriteCorrected_keeps | apply seeUncorrectable_keeps | apply markUnreadable_keeps | apply repairBlock_keeps | apply noteFault_keeps | apply Keeps.ite | refine Keeps.ofFst (by assumption) ?_ | split)); clear_value x | skip) | split

theorem execFarBlockRead_keeps {s0 : State} {block : Nat} {errors : List (Nat × BitVec 72)} {misread : Option (List Byte)} {s : State} (hs : Keeps s0 s) :
    KeepsR s0 (execFarBlockRead block errors misread s) := by
  unfold execFarBlockRead
  with_reducible repeat' first | assumption | refine fun _ => ?_ | apply blockRead_keeps | apply touchFar_keeps | apply State.updFar_keeps | apply KeepsR.ite | apply Keeps.ite | apply KeepsR.next | exact KeepsR.fault | refine Keeps.ofFst (by assumption) ?_ | (apply FarTier.ok_same; assumption; rfl; rfl)

theorem scrubData_keeps {s0 s : State} {b : Nat} {errors : List (Nat × BitVec 72)} (hs : Keeps s0 s) :
    Keeps s0 (scrubData s b errors) := by
  unfold scrubData
  with_reducible repeat' first | assumption | refine fun _ => ?_ | apply rewriteCorrected_keeps | apply seeUncorrectable_keeps | apply markUnreadable_keeps | apply repairBlock_keeps | apply readRow_keeps | apply Keeps.ite | refine Keeps.ofFst (by assumption) ?_

theorem scrubParity_keeps {s0 s : State} {i : Nat} {errors : List (Nat × BitVec 72)} (hs : Keeps s0 s) :
    Keeps s0 (scrubParity s i errors) := by
  unfold scrubParity
  with_reducible repeat' first | assumption | refine fun _ => ?_ | apply readParity_keeps | apply Keeps.ite

theorem scrubNear_keeps {s0 s : State} {n : Nat} {errors : List (Nat × BitVec 72)} (hs : Keeps s0 s) :
    Keeps s0 (scrubNear s n errors) := by
  unfold scrubNear
  with_reducible repeat' first | assumption | refine fun _ => ?_ | apply State.updNear_keeps | apply countCorrStack_keeps | apply setErr_keeps | apply seeUncorrectable_keeps | apply Keeps.ite | ((first | lift_lets | skip); intro x; first | (have hx : Keeps s0 x := by (simp only [x]; repeat' first | assumption | refine fun _ => ?_ | apply State.updNear_keeps | apply countCorrStack_keeps | apply setErr_keeps | apply seeUncorrectable_keeps | apply Keeps.ite | split)); clear_value x | skip) | split

theorem execScrub_keeps {s0 : State} {block : Nat} {errors : List (Nat × BitVec 72)} {s : State} (hs : Keeps s0 s) :
    KeepsR s0 (execScrub block errors s) := by
  unfold execScrub
  with_reducible repeat' first | assumption | refine fun _ => ?_ | apply scrubData_keeps | apply scrubParity_keeps | apply scrubNear_keeps | apply KeepsR.ite | apply Keeps.ite | apply KeepsR.next | exact KeepsR.fault

theorem writeAhead_keeps {s0 s : State} {b : Nat} {off : Nat} {bs : List Byte} (hs : Keeps s0 s) :
    Keeps s0 (writeAhead s b off bs) := by
  unfold writeAhead
  repeat' first | with_reducible assumption | with_reducible refine fun _ => ?_ | with_reducible apply deviceWriteBlock_keeps | with_reducible apply State.updFar_keeps | with_reducible apply retest_keeps | with_reducible apply FarTier.setTag_keeps | with_reducible apply Keeps.ite | (with_reducible apply FarTier.ok_mem; assumption; rfl; rfl) | ((first | lift_lets | skip); intro x; first | (have hx : Keeps s0 x := by (simp only [x]; repeat' first | with_reducible assumption | with_reducible refine fun _ => ?_ | with_reducible apply deviceWriteBlock_keeps | with_reducible apply State.updFar_keeps | with_reducible apply retest_keeps | with_reducible apply FarTier.setTag_keeps | with_reducible apply Keeps.ite | (with_reducible apply FarTier.ok_mem; assumption; rfl; rfl) | (with_reducible apply PortState.ok_same; assumption; rfl; rfl) | (with_reducible apply FarTier.ok_same; assumption; rfl; rfl) | (with_reducible apply CoreCtx.ok_same; assumption; rfl) | split | with_reducible refine Keeps.mk' ?_ ?_ ?_ ?_ ?_)); clear_value x | skip) | (with_reducible apply PortState.ok_same; assumption; rfl; rfl) | (with_reducible apply FarTier.ok_same; assumption; rfl; rfl) | (with_reducible apply CoreCtx.ok_same; assumption; rfl) | split | with_reducible refine Keeps.mk' ?_ ?_ ?_ ?_ ?_

theorem execFarBlockWrite_keeps {s0 : State} {block : Nat} {offset : Nat} {data : List Byte} {s : State} (hs : Keeps s0 s) :
    KeepsR s0 (execFarBlockWrite block offset data s) := by
  unfold execFarBlockWrite
  with_reducible repeat' first | assumption | refine fun _ => ?_ | apply writeAhead_keeps | apply touchFar_keeps | apply KeepsR.ite | apply Keeps.ite | apply KeepsR.next | exact KeepsR.fault

theorem execParityDelta_keeps {s0 : State} {index : Nat} {s : State} (hs : Keeps s0 s) :
    KeepsR s0 (execParityDelta index s) := by
  unfold execParityDelta
  repeat' first | with_reducible assumption | with_reducible refine fun _ => ?_ | with_reducible apply touchStack_keeps | with_reducible apply State.updFar_keeps | with_reducible apply retest_keeps | with_reducible apply FarTier.addParity_keeps | with_reducible apply KeepsR.next | with_reducible exact KeepsR.fault | ((first | lift_lets | skip); intro x; first | (have hx : Keeps s0 x := by (simp only [x]; repeat' first | with_reducible assumption | with_reducible refine fun _ => ?_ | with_reducible apply touchStack_keeps | with_reducible apply State.updFar_keeps | with_reducible apply retest_keeps | with_reducible apply FarTier.addParity_keeps | with_reducible apply KeepsR.next | with_reducible exact KeepsR.fault | (with_reducible apply PortState.ok_same; assumption; rfl; rfl) | (with_reducible apply FarTier.ok_same; assumption; rfl; rfl) | (with_reducible apply CoreCtx.ok_same; assumption; rfl) | split | with_reducible refine Keeps.mk' ?_ ?_ ?_ ?_ ?_)); clear_value x | (have hx : FarTier.ok x := by (simp only [x]; repeat' first | with_reducible assumption | with_reducible refine fun _ => ?_ | with_reducible apply touchStack_keeps | with_reducible apply State.updFar_keeps | with_reducible apply retest_keeps | with_reducible apply FarTier.addParity_keeps | with_reducible apply KeepsR.next | with_reducible exact KeepsR.fault | (with_reducible apply PortState.ok_same; assumption; rfl; rfl) | (with_reducible apply FarTier.ok_same; assumption; rfl; rfl) | (with_reducible apply CoreCtx.ok_same; assumption; rfl) | split | with_reducible refine Keeps.mk' ?_ ?_ ?_ ?_ ?_)); clear_value x | skip) | (with_reducible apply PortState.ok_same; assumption; rfl; rfl) | (with_reducible apply FarTier.ok_same; assumption; rfl; rfl) | (with_reducible apply CoreCtx.ok_same; assumption; rfl) | split | with_reducible refine Keeps.mk' ?_ ?_ ?_ ?_ ?_

theorem execFarStackLost_keeps {s0 : State} {stack : Fin 16} {s : State} (hs : Keeps s0 s) :
    KeepsR s0 (execFarStackLost stack s) := by
  unfold execFarStackLost
  with_reducible repeat' first | assumption | refine fun _ => ?_ | apply requestSlice_keeps | apply KeepsR.ite | apply Keeps.ite | apply KeepsR.next | exact KeepsR.fault

theorem execIslandLost_keeps {s0 : State} {die : Fin 8} {s : State} (hs : Keeps s0 s) :
    KeepsR s0 (execIslandLost die s) := by
  unfold execIslandLost
  with_reducible repeat' first | assumption | refine fun _ => ?_ | apply requestSlice_keeps | apply KeepsR.ite | apply Keeps.ite | apply KeepsR.next | exact KeepsR.fault

theorem moveBlock_keeps {grp : Nat} {f : FarTier} {c : Nat} (hf : f.ok) : (moveBlock grp f c).ok := by
  unfold moveBlock
  lift_lets
  intro b g data f'
  have h1 : f'.ok := by
    simp only [f']
    exact FarTier.ite_ok (FarTier.addParity_keeps hf) hf
  clear_value f'
  intros
  refine FarTier.addParity_keeps (FarTier.setGroup_keeps ?_)
  exact FarTier.ok_mem h1 rfl rfl

theorem endRebuild_keeps {s0 s : State} {grp : Nat} (hs : Keeps s0 s) :
    Keeps s0 (endRebuild s grp) := by
  unfold endRebuild
  with_reducible repeat' first | assumption | refine fun _ => ?_ | apply State.updFar_keeps | apply FarTier.setGroup_keeps | apply postBoth_keeps | apply refreshState_keeps | apply noteRepair_keeps

theorem execRebuildRowMove_keeps {s0 : State} {group : Fin 2} {s : State} (hs : Keeps s0 s) :
    KeepsR s0 (execRebuildRowMove group s) := by
  unfold execRebuildRowMove
  with_reducible repeat' first | assumption | refine fun _ => ?_ | apply State.updFar_keeps | apply moveBlock_keeps | apply retest_keeps | apply FarTier.settled_keeps | apply endRebuild_keeps | apply Keeps.foldl | apply FarTier.foldl_ok | apply CoreCtx.foldl_ok | apply KeepsR.ite | apply Keeps.ite | apply KeepsR.next | exact KeepsR.fault

theorem execNearStackLost_keeps {s0 : State} {stack : Fin 4} {s : State} (hs : Keeps s0 s) :
    KeepsR s0 (execNearStackLost stack s) := by
  unfold execNearStackLost
  with_reducible repeat' first | assumption | refine fun _ => ?_ | apply requestSlice_keeps | apply KeepsR.ite | apply Keeps.ite | apply KeepsR.next | exact KeepsR.fault

theorem roomFor_keeps {s0 : State} {left : List Nat} {l : List Caddy} : ∀ {s : State}, Keeps s0 s → Keeps s0 (roomFor left l s) := by
  induction l with
  | nil => exact fun h => h
  | cons c r ih =>
    intro s h
    unfold roomFor
    exact Keeps.ite h (ih (evictCaddy_keeps h))

theorem execNearReplacementDone_keeps {s0 s : State} (hs : Keeps s0 s) :
    KeepsR s0 (execNearReplacementDone s) := by
  unfold execNearReplacementDone
  with_reducible repeat' first | assumption | refine fun _ => ?_ | apply roomFor_keeps | apply State.updNear_keeps | apply KeepsR.ite | apply Keeps.ite | apply KeepsR.next | exact KeepsR.fault

theorem execSelfRefreshEntry_keeps {s0 : State} {stack : Nat} {s : State} (hs : Keeps s0 s) :
    KeepsR s0 (execSelfRefreshEntry stack s) := by
  unfold execSelfRefreshEntry
  with_reducible repeat' first | assumption | refine fun _ => ?_ | apply State.updStack_keeps | apply KeepsR.ite | apply Keeps.ite | apply KeepsR.next | exact KeepsR.fault

/-! Machine/Faults. -/

theorem setResends_keeps {s0 s : State} {p : BeatPath} {n : Nat} (hs : Keeps s0 s) :
    Keeps s0 (setResends s p n) := by
  unfold setResends
  with_reducible repeat' first | assumption | refine fun _ => ?_ | apply State.updDev_keeps | apply Keeps.ite

theorem failRetrain_keeps {s0 s : State} {k : Nat} (hs : Keeps s0 s) :
    Keeps s0 (failRetrain s k) := by
  unfold failRetrain
  with_reducible repeat' first | assumption | refine fun _ => ?_ | apply State.updStack_keeps | apply requestSlice_keeps | apply Keeps.ite

theorem loseLane_keeps {s0 s : State} {p : BeatPath} (hs : Keeps s0 s) :
    Keeps s0 (loseLane s p) := by
  unfold loseLane
  with_reducible repeat' first | assumption | refine fun _ => ?_ | apply noteFault_keeps | apply State.updDev_keeps | apply requestSlice_keeps | apply noteRepair_keeps | apply updLife_keeps | apply Keeps.ite | ((first | lift_lets | skip); intro x; first | (have hx : Keeps s0 x := by (simp only [x]; repeat' first | assumption | refine fun _ => ?_ | apply noteFault_keeps | apply State.updDev_keeps | apply requestSlice_keeps | apply noteRepair_keeps | apply updLife_keeps | apply Keeps.ite | split)); clear_value x | skip) | split

theorem startFence_keeps {s0 s : State} {p : Nat} (hs : Keeps s0 s) :
    Keeps s0 (startFence s p) := by
  unfold startFence
  with_reducible repeat' first | assumption | refine fun _ => ?_ | apply noteFault_keeps | apply State.updPhys_keeps

theorem execLaneFault_keeps {s0 : State} {physical : Nat} {engine : Engine} {s : State} (hs : Keeps s0 s) :
    KeepsR s0 (execLaneFault physical engine s) := by
  unfold execLaneFault
  with_reducible repeat' first | assumption | refine fun _ => ?_ | apply noteFault_keeps | apply State.updPhys_keeps | apply noteRepair_keeps | apply updLife_keeps | apply failTiles_keeps | apply startFence_keeps | apply KeepsR.ite | apply Keeps.ite | apply KeepsR.next | exact KeepsR.fault | split

theorem countCorrected_keeps {s0 s : State} {path : BeatPath} (hs : Keeps s0 s) :
    Keeps s0 (countCorrected s path) := by
  unfold countCorrected
  with_reducible repeat' first | assumption | refine fun _ => ?_ | apply State.updDev_keeps | apply setErr_keeps

theorem resendBeat_keeps {s0 s : State} {path : BeatPath} (hs : Keeps s0 s) :
    Keeps s0 (resendBeat s path) := by
  unfold resendBeat
  with_reducible repeat' first | assumption | refine fun _ => ?_ | apply State.updStack_keeps | apply countResent_keeps | apply setErr_keeps | apply setResends_keeps | apply failRetrain_keeps | apply loseLane_keeps | apply Keeps.ite | split

theorem execBeatError_keeps {s0 : State} {beat : BeatHit} {s : State} (hs : Keeps s0 s) :
    KeepsR s0 (execBeatError beat s) := by
  unfold execBeatError
  with_reducible repeat' first | assumption | refine fun _ => ?_ | apply countCorrected_keeps | apply startFence_keeps | apply resendBeat_keeps | apply KeepsR.ite | apply Keeps.ite | apply KeepsR.next | exact KeepsR.fault | split

theorem execCoreFault_keeps {s0 : State} {physical : Nat} {s : State} (hs : Keeps s0 s) :
    KeepsR s0 (execCoreFault physical s) := by
  unfold execCoreFault
  with_reducible repeat' first | assumption | refine fun _ => ?_ | apply startFence_keeps | apply KeepsR.ite | apply Keeps.ite | apply KeepsR.next | exact KeepsR.fault

theorem replacement_ok (s : State) (core : Nat) : (replacement s core).ok := by
  unfold replacement
  exact CoreCtx.foldl_ok CoreCtx.ok_default (fun _ _ h => CoreCtx.store_keeps h)

theorem dropFolds_keeps {core : Nat} {c : CoreCtx} (hc : CoreCtx.ok c) :
    CoreCtx.ok (dropFolds core c) := by
  unfold dropFolds
  with_reducible repeat' first | assumption | refine fun _ => ?_ | (apply CoreCtx.ok_same; assumption; rfl)

theorem replaceCore_keeps {s0 s : State} {core : Nat} (hs : Keeps s0 s) :
    Keeps s0 (replaceCore s core) := by
  unfold replaceCore
  with_reducible repeat' first | assumption | refine fun _ => ?_ | apply wakeCore_keeps | apply noteExhausted_keeps | apply seatSpare_keeps | apply State.updTab_keeps | ((first | lift_lets | skip); intro x; first | (have hx : Keeps s0 x := by (simp only [x]; repeat' first | assumption | refine fun _ => ?_ | apply wakeCore_keeps | apply noteExhausted_keeps | apply seatSpare_keeps | apply State.updTab_keeps | split)); clear_value x | skip) | split

theorem execCoreFenceDone_keeps {s0 : State} {physical : Nat} {s : State} (hs : Keeps s0 s) :
    KeepsR s0 (execCoreFenceDone physical s) := by
  unfold execCoreFenceDone
  repeat' first | with_reducible assumption | with_reducible refine fun _ => ?_ | with_reducible apply replacement_keeps | with_reducible apply retirePhys_keeps | with_reducible apply dropRetire_keeps | with_reducible apply loseBuddy_keeps | with_reducible apply mapCores_keeps | with_reducible apply State.updCore_keeps | with_reducible apply dropFolds_keeps | with_reducible apply failTiles_keeps | with_reducible apply refreshState_keeps | with_reducible apply replaceCore_keeps | with_reducible apply postBoth_keeps | with_reducible apply KeepsR.ite | with_reducible apply Keeps.ite | with_reducible apply KeepsR.next | with_reducible exact KeepsR.fault | exact CoreCtx.ok_same (p := replacement _ _) (replacement_ok _ _) rfl | ((first | lift_lets | skip); intro x; first | (have hx : Keeps s0 x := by (simp only [x]; repeat' first | with_reducible assumption | with_reducible refine fun _ => ?_ | with_reducible apply replacement_keeps | with_reducible apply retirePhys_keeps | with_reducible apply dropRetire_keeps | with_reducible apply loseBuddy_keeps | with_reducible apply mapCores_keeps | with_reducible apply State.updCore_keeps | with_reducible apply dropFolds_keeps | with_reducible apply failTiles_keeps | with_reducible apply refreshState_keeps | with_reducible apply replaceCore_keeps | with_reducible apply postBoth_keeps | with_reducible apply KeepsR.ite | with_reducible apply Keeps.ite | with_reducible apply KeepsR.next | with_reducible exact KeepsR.fault | exact CoreCtx.ok_same (p := replacement _ _) (replacement_ok _ _) rfl | (with_reducible apply PortState.ok_same; assumption; rfl; rfl) | (with_reducible apply FarTier.ok_same; assumption; rfl; rfl) | (with_reducible apply CoreCtx.ok_same; assumption; rfl) | split | with_reducible refine Keeps.mk' ?_ ?_ ?_ ?_ ?_)); clear_value x | skip) | (with_reducible apply PortState.ok_same; assumption; rfl; rfl) | (with_reducible apply FarTier.ok_same; assumption; rfl; rfl) | (with_reducible apply CoreCtx.ok_same; assumption; rfl) | split | with_reducible refine Keeps.mk' ?_ ?_ ?_ ?_ ?_

theorem execDieCtrlRestart_keeps {s0 : State} {die : Fin 8} {s : State} (hs : Keeps s0 s) :
    KeepsR s0 (execDieCtrlRestart die s) := by
  unfold execDieCtrlRestart
  with_reducible repeat' first | assumption | refine fun _ => ?_ | apply noteFault_keeps | apply KeepsR.ite | apply Keeps.ite | apply KeepsR.next | exact KeepsR.fault

theorem execDieLost_keeps {s0 : State} {die : Fin 8} {s : State} (hs : Keeps s0 s) :
    KeepsR s0 (execDieLost die s) := by
  unfold execDieLost
  with_reducible repeat' first | assumption | refine fun _ => ?_ | apply requestSlice_keeps | apply KeepsR.ite | apply Keeps.ite | apply KeepsR.next | exact KeepsR.fault

/-! Machine/Fabric. -/

theorem tell_keeps {s0 s : State} {dev : Nat} {bytes : List Byte} (hs : Keeps s0 s) :
    Keeps s0 (tell s dev bytes) := by
  unfold tell
  with_reducible repeat' first | assumption | refine fun _ => ?_ | apply sendTo_keeps | apply State.updFab_keeps

theorem enumHandler_keeps {s0 : State} {tree : List WorkerFound} {t : State} {a2 : List Byte} (ht : Keeps s0 t) :
    KeepsReply s0 (enumHandler tree t a2) := by
  unfold enumHandler
  with_reducible repeat' first | assumption | refine fun _ => ?_ | apply Reply.fail_keeps | apply State.updFab_keeps | apply tell_keeps | apply Reply.okWith_keeps | apply Keeps.foldl | apply FarTier.foldl_ok | apply CoreCtx.foldl_ok | apply KeepsReply.ite | apply Keeps.ite | apply KeepsReply.done | apply KeepsReply.stay

theorem execFabEnum_keeps {s0 : State} {rq : MbxReq} {tree : List WorkerFound} {s : State} (hs : Keeps s0 s) :
    KeepsR s0 (execFabEnum rq tree s) := by
  unfold execFabEnum
  with_reducible repeat' first | assumption | refine fun _ => ?_ | apply mailbox_keeps | apply enumHandler_keeps | apply KeepsR.next | exact KeepsR.fault | refine Keeps.ofNext (by assumption) ?_

theorem withDevice_keeps {s0 : State} {f : State → Nat → List Byte → Reply} {t : State} {b : List Byte} (hf : ∀ x0 x1 x2, Keeps s0 x0 → KeepsReply s0 (f x0 x1 x2)) (ht : Keeps s0 t) :
    KeepsReply s0 (withDevice f t b) := by
  unfold withDevice
  with_reducible repeat' first | assumption | refine fun _ => ?_ | apply Reply.fail_keeps | apply hf | apply hf | apply KeepsReply.ite | apply Keeps.ite | apply KeepsReply.done | apply KeepsReply.stay

theorem execFabStatus_keeps {s0 : State} {rq : MbxReq} {answer : List Byte} {s : State} (hs : Keeps s0 s) :
    KeepsR s0 (execFabStatus rq answer s) := by
  unfold execFabStatus
  with_reducible repeat' first | assumption | refine fun _ => ?_ | apply mailbox_keeps | apply withDevice_keeps | apply Reply.okWith_keeps | apply KeepsR.next | exact KeepsR.fault | apply KeepsReply.ite | apply KeepsReply.done | apply KeepsReply.stay | refine Keeps.ofNext (by assumption) ?_

theorem execFabEvents_keeps {s0 : State} {rq : MbxReq} {drained : List (List Byte)} {s : State} (hs : Keeps s0 s) :
    KeepsR s0 (execFabEvents rq drained s) := by
  unfold execFabEvents
  with_reducible repeat' first | assumption | refine fun _ => ?_ | apply mailbox_keeps | apply withDevice_keeps | apply Reply.okWith_keeps | apply tell_keeps | apply KeepsR.next | exact KeepsR.fault | apply KeepsReply.ite | apply KeepsReply.done | apply KeepsReply.stay | refine Keeps.ofNext (by assumption) ?_

theorem execFabDoorbell_keeps {s0 : State} {rq : MbxReq} {s : State} (hs : Keeps s0 s) :
    KeepsR s0 (execFabDoorbell rq s) := by
  unfold execFabDoorbell
  with_reducible repeat' first | assumption | refine fun _ => ?_ | apply mailbox_keeps | apply withDevice_keeps | apply Reply.ok_keeps | apply tell_keeps | apply KeepsR.next | exact KeepsR.fault | apply KeepsReply.ite | apply KeepsReply.done | apply KeepsReply.stay | refine Keeps.ofNext (by assumption) ?_

theorem execFabSeal_keeps {s0 : State} {rq : MbxReq} {s : State} (hs : Keeps s0 s) :
    KeepsR s0 (execFabSeal rq s) := by
  unfold execFabSeal
  with_reducible repeat' first | assumption | refine fun _ => ?_ | apply mailbox_keeps | apply Reply.fail_keeps | apply State.updFar_keeps | apply State.updTab_keeps | apply Reply.ok_keeps | apply State.updFab_keeps | apply KeepsR.ite | apply Keeps.ite | apply KeepsR.next | exact KeepsR.fault | apply KeepsReply.ite | apply KeepsReply.done | apply KeepsReply.stay | refine Keeps.ofNext (by assumption) ?_ | (apply FarTier.ok_same; assumption; rfl; rfl)

theorem recordTag_keeps {s0 s : State} {p : Port} {d : Nat} {code : Nat} {body : List Byte} {answer : List Byte} (hs : Keeps s0 s) :
    Keeps s0 (recordTag s p d code body answer) := by
  unfold recordTag
  with_reducible repeat' first | assumption | refine fun _ => ?_ | apply State.updFab_keeps | apply Keeps.ite | split

theorem takeCopy_keeps {s0 s : State} {p : Port} {code : Nat} {body : List Byte} {answer : List Byte} (hs : Keeps s0 s) :
    Keeps s0 (takeCopy s p code body answer) := by
  unfold takeCopy
  with_reducible repeat' first | assumption | refine fun _ => ?_ | apply hostWrite_keeps | apply Keeps.ite

theorem noteDestroyed_keeps {s0 s : State} {d : Nat} {code : Nat} {body : List Byte} {answer : List Byte} (hs : Keeps s0 s) :
    Keeps s0 (noteDestroyed s d code body answer) := by
  unfold noteDestroyed
  with_reducible repeat' first | assumption | refine fun _ => ?_ | apply State.updFab_keeps | apply Keeps.ite

theorem forwardPage_keeps {s0 s : State} {p : Port} {d : Nat} {code : Nat} {page : List Byte} {body : List Byte} (hs : Keeps s0 s) :
    Keeps s0 (forwardPage s p d code page body) := by
  unfold forwardPage
  with_reducible repeat' first | assumption | refine fun _ => ?_ | apply tell_keeps | apply sendTo_keeps | split

theorem forwardHandler_keeps {s0 : State} {rq : MbxReq} {answer : List Byte} {t : State} {d : Nat} {b : List Byte} (ht : Keeps s0 t) :
    KeepsReply s0 (forwardHandler rq answer t d b) := by
  unfold forwardHandler
  with_reducible repeat' first | assumption | refine fun _ => ?_ | apply Reply.okWith_keeps | apply recordTag_keeps | apply forwardPage_keeps | apply noteDestroyed_keeps | apply takeCopy_keeps | apply KeepsReply.done | apply KeepsReply.stay | ((first | lift_lets | skip); intro x; first | (have hx : Keeps s0 x := by (simp only [x]; repeat' first | assumption | refine fun _ => ?_ | apply Reply.okWith_keeps | apply recordTag_keeps | apply forwardPage_keeps | apply noteDestroyed_keeps | apply takeCopy_keeps | apply KeepsReply.done | apply KeepsReply.stay | split)); clear_value x | skip) | split

theorem execFabForward_keeps {s0 : State} {rq : MbxReq} {answer : List Byte} {s : State} (hs : Keeps s0 s) :
    KeepsR s0 (execFabForward rq answer s) := by
  unfold execFabForward
  with_reducible repeat' first | assumption | refine fun _ => ?_ | apply mailbox_keeps | apply withDevice_keeps | apply forwardHandler_keeps | apply KeepsR.next | exact KeepsR.fault | refine Keeps.ofNext (by assumption) ?_

theorem launchHandler_keeps {s0 : State} {rq : MbxReq} {late : List Nat} {t : State} {b : List Byte} (ht : Keeps s0 t) :
    KeepsReply s0 (launchHandler rq late t b) := by
  unfold launchHandler
  with_reducible repeat' first | assumption | refine fun _ => ?_ | apply Reply.fail_keeps | apply State.updFab_keeps | apply tell_keeps | apply Reply.okWith_keeps | apply Keeps.foldl | apply FarTier.foldl_ok | apply CoreCtx.foldl_ok | apply KeepsReply.ite | apply Keeps.ite | apply KeepsReply.done | apply KeepsReply.stay | ((first | lift_lets | skip); intro x; first | (have hx : Keeps s0 x := by (simp only [x]; repeat' first | assumption | refine fun _ => ?_ | apply Reply.fail_keeps | apply State.updFab_keeps | apply tell_keeps | apply Reply.okWith_keeps | apply Keeps.foldl | apply FarTier.foldl_ok | apply CoreCtx.foldl_ok | apply KeepsReply.ite | apply Keeps.ite | apply KeepsReply.done | apply KeepsReply.stay | split)); clear_value x | skip) | split

theorem execFabLaunch_keeps {s0 : State} {rq : MbxReq} {late : List Nat} {s : State} (hs : Keeps s0 s) :
    KeepsR s0 (execFabLaunch rq late s) := by
  unfold execFabLaunch
  with_reducible repeat' first | assumption | refine fun _ => ?_ | apply mailbox_keeps | apply launchHandler_keeps | apply KeepsR.ite | apply Keeps.ite | apply KeepsR.next | exact KeepsR.fault | refine Keeps.ofNext (by assumption) ?_

theorem applyLaunch_keeps {s0 s : State} {l : Launch} (hs : Keeps s0 s) :
    Keeps s0 (applyLaunch s l) := by
  unfold applyLaunch
  with_reducible repeat' first | assumption | refine fun _ => ?_ | apply ringQueue_keeps

theorem execLaunchDoorbellApply_keeps {s0 : State} {queue : Nat} {s : State} (hs : Keeps s0 s) :
    KeepsR s0 (execLaunchDoorbellApply queue s) := by
  unfold execLaunchDoorbellApply
  with_reducible repeat' first | assumption | refine fun _ => ?_ | apply applyLaunch_keeps | apply State.updFab_keeps | apply Keeps.foldl | apply FarTier.foldl_ok | apply CoreCtx.foldl_ok | apply KeepsR.ite | apply Keeps.ite | apply KeepsR.next | exact KeepsR.fault

theorem linkHandler_keeps {s0 : State} {answers : List (Nat × Nat × List Nat × List Nat)} {t : State} {b : List Byte} (ht : Keeps s0 t) :
    KeepsReply s0 (linkHandler answers t b) := by
  unfold linkHandler
  with_reducible repeat' first | assumption | refine fun _ => ?_ | apply Reply.fail_keeps | apply State.updFab_keeps | apply Reply.ok_keeps | apply updJob_keeps | apply tell_keeps | apply Keeps.foldl | apply FarTier.foldl_ok | apply CoreCtx.foldl_ok | apply KeepsReply.ite | apply Keeps.ite | apply KeepsReply.done | apply KeepsReply.stay | ((first | lift_lets | skip); intro x; first | (have hx : Keeps s0 x := by (simp only [x]; repeat' first | assumption | refine fun _ => ?_ | apply Reply.fail_keeps | apply State.updFab_keeps | apply Reply.ok_keeps | apply updJob_keeps | apply tell_keeps | apply Keeps.foldl | apply FarTier.foldl_ok | apply CoreCtx.foldl_ok | apply KeepsReply.ite | apply Keeps.ite | apply KeepsReply.done | apply KeepsReply.stay | split)); clear_value x | skip) | split

theorem execFabLink_keeps {s0 : State} {rq : MbxReq} {answers : List (Nat × Nat × List Nat × List Nat)} {s : State} (hs : Keeps s0 s) :
    KeepsR s0 (execFabLink rq answers s) := by
  unfold execFabLink
  with_reducible repeat' first | assumption | refine fun _ => ?_ | apply mailbox_keeps | apply linkHandler_keeps | apply KeepsR.next | exact KeepsR.fault | refine Keeps.ofNext (by assumption) ?_

theorem execFabPair_keeps {s0 : State} {rq : MbxReq} {s : State} (hs : Keeps s0 s) :
    KeepsR s0 (execFabPair rq s) := by
  unfold execFabPair
  with_reducible repeat' first | assumption | refine fun _ => ?_ | apply mailbox_keeps | apply Reply.fail_keeps | apply updJob_keeps | apply Reply.ok_keeps | apply transmit_keeps | apply KeepsR.ite | apply Keeps.ite | apply KeepsR.next | exact KeepsR.fault | apply KeepsReply.ite | apply KeepsReply.done | apply KeepsReply.stay | refine Keeps.ofNext (by assumption) ?_ | split

theorem execComparisonRecord_keeps {s0 : State} {job : Nat} {serial : Nat} {block : Nat} {bcheck : W32} {s : State} (hs : Keeps s0 s) :
    KeepsR s0 (execComparisonRecord job serial block bcheck s) := by
  unfold execComparisonRecord
  with_reducible repeat' first | assumption | refine fun _ => ?_ | apply settlePair_keeps | apply updJob_keeps | apply KeepsR.ite | apply Keeps.ite | apply KeepsR.next | exact KeepsR.fault

theorem execPeerLinkTimeout_keeps {s0 : State} {job : Nat} {s : State} (hs : Keeps s0 s) :
    KeepsR s0 (execPeerLinkTimeout job s) := by
  unfold execPeerLinkTimeout
  with_reducible repeat' first | assumption | refine fun _ => ?_ | apply diverge_keeps | apply KeepsR.ite | apply Keeps.ite | apply KeepsR.next | exact KeepsR.fault | split

theorem loseWorker_keeps {s0 s : State} {dev : Nat} (hs : Keeps s0 s) :
    Keeps s0 (loseWorker s dev) := by
  unfold loseWorker
  with_reducible repeat' first | assumption | refine fun _ => ?_ | apply State.updFab_keeps | apply State.updFar_keeps | apply postBoth_keeps | apply noteFault_keeps | (apply FarTier.ok_same; assumption; rfl; rfl)

theorem execWorkerLossTimeout_keeps {s0 : State} {device : Nat} {s : State} (hs : Keeps s0 s) :
    KeepsR s0 (execWorkerLossTimeout device s) := by
  unfold execWorkerLossTimeout
  with_reducible repeat' first | assumption | refine fun _ => ?_ | apply loseWorker_keeps | apply Keeps.foldl | apply FarTier.foldl_ok | apply CoreCtx.foldl_ok | apply KeepsR.ite | apply Keeps.ite | apply KeepsR.next | exact KeepsR.fault | split

theorem forgetJobs_keeps {s0 s : State} (hs : Keeps s0 s) :
    Keeps s0 (forgetJobs s) := by
  unfold forgetJobs
  with_reducible repeat' first | assumption | refine fun _ => ?_ | apply cancelQueue_keeps | apply destroyJob_keeps | apply State.updFab_keeps | apply zeroCores_keeps | apply Keeps.foldl | apply FarTier.foldl_ok | apply CoreCtx.foldl_ok

theorem refuseHub_keeps {s0 s : State} {h : Hub} (hs : Keeps s0 s) :
    Keeps s0 (refuseHub s h) := by
  unfold refuseHub
  with_reducible repeat' first | assumption | refine fun _ => ?_ | apply noteConfig_keeps | apply State.updHub_keeps

theorem refusedAtEnum_keeps {s0 s : State} (hs : Keeps s0 s) :
    Keeps s0 (refusedAtEnum s) := by
  unfold refusedAtEnum
  with_reducible repeat' first | assumption | refine fun _ => ?_ | apply forgetJobs_keeps | apply powerOffDie_keeps | apply State.updDev_keeps | apply refuseHub_keeps | apply State.updWorgon_keeps | apply Keeps.foldl | apply FarTier.foldl_ok | apply CoreCtx.foldl_ok

theorem execWorkerRefusal_keeps {s0 : State} {enumerating : Bool} {s : State} (hs : Keeps s0 s) :
    KeepsR s0 (execWorkerRefusal enumerating s) := by
  unfold execWorkerRefusal
  with_reducible repeat' first | assumption | refine fun _ => ?_ | apply refusedAtEnum_keeps | apply forgetJobs_keeps | apply KeepsR.ite | apply Keeps.ite | apply KeepsR.next | exact KeepsR.fault

theorem hearMsg_keeps {s0 s : State} {m : FabMsg} (hs : Keeps s0 s) :
    Keeps s0 (hearMsg s m) := by
  unfold hearMsg
  with_reducible repeat' first | assumption | refine fun _ => ?_ | apply State.updFab_keeps | apply ringQueue_keeps | apply sendTo_keeps | apply applyLaunch_keeps | apply updJob_keeps | apply State.updPort_keeps | apply PortState.giveUp_keeps | apply Keeps.ite | split | (apply PortState.ok_same; assumption; rfl; rfl)

theorem relayPacket_keeps {s0 s : State} {k : Nat} {cls : Nat} {dest : Nat} {n : Nat} (hs : Keeps s0 s) :
    Keeps s0 (relayPacket s k cls dest n) := by
  unfold relayPacket
  with_reducible repeat' first | assumption | refine fun _ => ?_ | apply sendTo_keeps | apply State.updWorgon_keeps

theorem serveImage_keeps {s0 s : State} {k : Nat} (hs : Keeps s0 s) :
    Keeps s0 (serveImage s k) := by
  unfold serveImage
  with_reducible repeat' first | assumption | refine fun _ => ?_ | apply transmit_keeps | split

theorem takeMsg_keeps {s0 s : State} {k : Nat} {f : Flit} {m : FabMsg} (hs : Keeps s0 s) :
    Keeps s0 (takeMsg s k f m) := by
  unfold takeMsg
  with_reducible repeat' first | assumption | refine fun _ => ?_ | apply relayPacket_keeps | apply serveImage_keeps | apply beginPairing_keeps | apply dropPairing_keeps | apply hearMsg_keeps | apply Keeps.ite | split

theorem acceptFlit_keeps {s0 s : State} {k : Nat} {f : Flit} (hs : Keeps s0 s) :
    Keeps s0 (acceptFlit s k f) := by
  unfold acceptFlit
  with_reducible repeat' first | assumption | refine fun _ => ?_ | apply State.updWorgon_keeps | apply countResent_keeps | apply takeMsg_keeps | apply Keeps.ite | split

theorem execFlitReceive_keeps {s0 : State} {k : Fin 12} {f : Flit} {s : State} (hs : Keeps s0 s) :
    KeepsR s0 (execFlitReceive k f s) := by
  unfold execFlitReceive
  with_reducible repeat' first | assumption | refine fun _ => ?_ | apply acceptFlit_keeps | apply dropFlit_keeps | apply KeepsR.ite | apply Keeps.ite | apply KeepsR.next | exact KeepsR.fault

theorem execGcountSync_keeps {s0 : State} {t1 : W64} {t2 : W64} {t3 : W64} {t4 : W64} {s : State} (hs : Keeps s0 s) :
    KeepsR s0 (execGcountSync t1 t2 t3 t4 s) := by
  unfold execGcountSync
  with_reducible repeat' first | assumption | refine fun _ => ?_ | apply State.updFab_keeps | apply State.updHub_keeps | apply KeepsR.ite | apply Keeps.ite | apply KeepsR.next | exact KeepsR.fault

/-! Every command. -/

theorem exec_keeps (i : Instr) (s : State) : KeepsR s (exec i s) := by
  have hs := Keeps.refl s
  cases i
  case getInfo => rw [exec_getInfo]; exact execGetInfo_keeps hs
  case configLoad => rw [exec_configLoad]; exact execConfigLoad_keeps hs
  case fwLoad => rw [exec_fwLoad]; exact execFwLoad_keeps hs
  case spdm => rw [exec_spdm]; exact execSpdm_keeps hs
  case doeMessage => rw [exec_doeMessage]; exact execDoeMessage_keeps hs
  case memGrant => rw [exec_memGrant]; exact execMemGrant_keeps hs
  case memRelease => rw [exec_memRelease]; exact execMemRelease_keeps hs
  case copyIn => rw [exec_copyIn]; exact execCopyIn_keeps hs
  case copyOut => rw [exec_copyOut]; exact execCopyOut_keeps hs
  case chainLoad => rw [exec_chainLoad]; exact execChainLoad_keeps hs
  case chainUnload => rw [exec_chainUnload]; exact execChainUnload_keeps hs
  case caddyLoad => rw [exec_caddyLoad]; exact execCaddyLoad_keeps hs
  case caddyLoadDone => rw [exec_caddyLoadDone]; exact execCaddyLoadDone_keeps hs
  case caddyUnload => rw [exec_caddyUnload]; exact execCaddyUnload_keeps hs
  case caddyQuery => rw [exec_caddyQuery]; exact execCaddyQuery_keeps hs
  case caddyResident => rw [exec_caddyResident]; exact execCaddyResident_keeps hs
  case programLoad => rw [exec_programLoad]; exact execProgramLoad_keeps hs
  case programUnload => rw [exec_programUnload]; exact execProgramUnload_keeps hs
  case jobCreate => rw [exec_jobCreate]; exact execJobCreate_keeps hs
  case jobDestroy => rw [exec_jobDestroy]; exact execJobDestroy_keeps hs
  case jobStatus => rw [exec_jobStatus]; exact execJobStatus_keeps hs
  case queueCreate => rw [exec_queueCreate]; exact execQueueCreate_keeps hs
  case queueSet => rw [exec_queueSet]; exact execQueueSet_keeps hs
  case queueCancel => rw [exec_queueCancel]; exact execQueueCancel_keeps hs
  case queueResume => rw [exec_queueResume]; exact execQueueResume_keeps hs
  case queueReset => rw [exec_queueReset]; exact execQueueReset_keeps hs
  case queueDestroy => rw [exec_queueDestroy]; exact execQueueDestroy_keeps hs
  case queueRehome => rw [exec_queueRehome]; exact execQueueRehome_keeps hs
  case eventRingSet => rw [exec_eventRingSet]; exact execEventRingSet_keeps hs
  case rebuildShare => rw [exec_rebuildShare]; exact execRebuildShare_keeps hs
  case fabEnum => rw [exec_fabEnum]; exact execFabEnum_keeps hs
  case fabStatus => rw [exec_fabStatus]; exact execFabStatus_keeps hs
  case fabForward => rw [exec_fabForward]; exact execFabForward_keeps hs
  case fabEvents => rw [exec_fabEvents]; exact execFabEvents_keeps hs
  case fabDoorbell => rw [exec_fabDoorbell]; exact execFabDoorbell_keeps hs
  case fabLaunch => rw [exec_fabLaunch]; exact execFabLaunch_keeps hs
  case launchDoorbellApply => rw [exec_launchDoorbellApply]; exact execLaunchDoorbellApply_keeps hs
  case fabLink => rw [exec_fabLink]; exact execFabLink_keeps hs
  case fabPair => rw [exec_fabPair]; exact execFabPair_keeps hs
  case fabSeal => rw [exec_fabSeal]; exact execFabSeal_keeps hs
  case svcStatus => rw [exec_svcStatus]; exact execSvcStatus_keeps hs
  case coreRetire => rw [exec_coreRetire]; exact execCoreRetire_keeps hs
  case coreTest => rw [exec_coreTest]; exact execCoreTest_keeps hs
  case coreInfo => rw [exec_coreInfo]; exact execCoreInfo_keeps hs
  case dieDown => rw [exec_dieDown]; exact execDieDown_keeps hs
  case dieUp => rw [exec_dieUp]; exact execDieUp_keeps hs
  case hubSwap => rw [exec_hubSwap]; exact execHubSwap_keeps hs
  case hubRejoin => rw [exec_hubRejoin]; exact execHubRejoin_keeps hs
  case hubRejoinDone => rw [exec_hubRejoinDone]; exact execHubRejoinDone_keeps hs
  case firmwareActivation => rw [exec_firmwareActivation]; exact execFirmwareActivation_keeps hs
  case bboxInfo => rw [exec_bboxInfo]; exact execBboxInfo_keeps hs
  case bboxRead => rw [exec_bboxRead]; exact execBboxRead_keeps hs
  case bootImage => rw [exec_bootImage]; exact execBootImage_keeps hs
  case attest => rw [exec_attest]; exact execAttest_keeps hs
  case identityGet => rw [exec_identityGet]; exact execIdentityGet_keeps hs
  case protSet => rw [exec_protSet]; exact execProtSet_keeps hs
  case regionSet => rw [exec_regionSet]; exact execRegionSet_keeps hs
  case svnCommit => rw [exec_svnCommit]; exact execSvnCommit_keeps hs
  case integratorEnroll => rw [exec_integratorEnroll]; exact execIntegratorEnroll_keeps hs
  case mbxAck => rw [exec_mbxAck]; exact execMbxAck_keeps hs
  case sqTail => rw [exec_sqTail]; exact execSqTail_keeps hs
  case cqHead => rw [exec_cqHead]; exact execCqHead_keeps hs
  case evtHead => rw [exec_evtHead]; exact execEvtHead_keeps hs
  case pwrCap => rw [exec_pwrCap]; exact execPwrCap_keeps hs
  case farWindow => rw [exec_farWindow]; exact execFarWindow_keeps hs
  case bar2Read => rw [exec_bar2Read]; exact execBar2Read_keeps hs
  case bar2Write => rw [exec_bar2Write]; exact execBar2Write_keeps hs
  case gcountLowRead => rw [exec_gcountLowRead]; exact execGcountLowRead_keeps hs
  case gcountHighRead => rw [exec_gcountHighRead]; exact execGcountHighRead_keeps hs
  case registerWrite => rw [exec_registerWrite]; exact execRegisterWrite_keeps hs
  case cfgData => rw [exec_cfgData]; exact execCfgData_keeps hs
  case cfgPtr => rw [exec_cfgPtr]; exact execCfgPtr_keeps hs
  case go => rw [exec_go]; exact execGo_keeps hs
  case add => rw [exec_add]; exact execAdd_keeps hs
  case sub => rw [exec_sub]; exact execSub_keeps hs
  case neg => rw [exec_neg]; exact execNeg_keeps hs
  case mulPt => rw [exec_mulPt]; exact execMulPt_keeps hs
  case mulCt => rw [exec_mulCt]; exact execMulCt_keeps hs
  case relin => rw [exec_relin]; exact execRelin_keeps hs
  case rotate => rw [exec_rotate]; exact execRotate_keeps hs
  case conjugate => rw [exec_conjugate]; exact execConjugate_keeps hs
  case linear => rw [exec_linear]; exact execLinear_keeps hs
  case rescale => rw [exec_rescale]; exact execRescale_keeps hs
  case levelDrop => rw [exec_levelDrop]; exact execLevelDrop_keeps hs
  case nttFwd => rw [exec_nttFwd]; exact execNttFwd_keeps hs
  case nttInv => rw [exec_nttInv]; exact execNttInv_keeps hs
  case matmul => rw [exec_matmul]; exact execMatmul_keeps hs
  case map => rw [exec_map]; exact execMap_keeps hs
  case gather => rw [exec_gather]; exact execGather_keeps hs
  case scatter => rw [exec_scatter]; exact execScatter_keeps hs
  case scatterAdd => rw [exec_scatterAdd]; exact execScatterAdd_keeps hs
  case copy => rw [exec_copy]; exact execCopy_keeps hs
  case remoteAdd => rw [exec_remoteAdd]; exact execRemoteAdd_keeps hs
  case bootstrap => rw [exec_bootstrap]; exact execBootstrap_keeps hs
  case switchOut => rw [exec_switchOut]; exact execSwitchOut_keeps hs
  case lut => rw [exec_lut]; exact execLut_keeps hs
  case repack => rw [exec_repack]; exact execRepack_keeps hs
  case exportOp => rw [exec_exportOp]; exact execExportOp_keeps hs
  case flagSet => rw [exec_flagSet]; exact execFlagSet_keeps hs
  case flagWait => rw [exec_flagWait]; exact execFlagWait_keeps hs
  case nop => rw [exec_nop]; exact execNop_keeps hs
  case boundaryCommand => rw [exec_boundaryCommand]; exact execBoundaryCommand_keeps hs
  case taskPlace => rw [exec_taskPlace]; exact execTaskPlace_keeps hs
  case claim => rw [exec_claim]; exact execClaim_keeps hs
  case taskComplete => rw [exec_taskComplete]; exact execTaskComplete_keeps hs
  case passNotice => rw [exec_passNotice]; exact execPassNotice_keeps hs
  case nttFwdInstruction => rw [exec_nttFwdInstruction]; exact execNttFwdInstruction_keeps hs
  case nttInvInstruction => rw [exec_nttInvInstruction]; exact execNttInvInstruction_keeps hs
  case mxaMatmul => rw [exec_mxaMatmul]; exact execMxaMatmul_keeps hs
  case inner => rw [exec_inner]; exact execInner_keeps hs
  case bconvFast => rw [exec_bconvFast]; exact execBconvFast_keeps hs
  case bconvExact => rw [exec_bconvExact]; exact execBconvExact_keeps hs
  case vxeChain => rw [exec_vxeChain]; exact execVxeChain_keeps hs
  case dma => rw [exec_dma]; exact execDma_keeps hs
  case dmaTransferStart => rw [exec_dmaTransferStart]; exact execDmaTransferStart_keeps hs
  case fold => rw [exec_fold]; exact execFold_keeps hs
  case foldApply => rw [exec_foldApply]; exact execFoldApply_keeps hs
  case signal => rw [exec_signal]; exact execSignal_keeps hs
  case wait => rw [exec_wait]; exact execWait_keeps hs
  case fenceSlot => rw [exec_fenceSlot]; exact execFenceSlot_keeps hs
  case fenceKey => rw [exec_fenceKey]; exact execFenceKey_keeps hs
  case scalarInstruction => rw [exec_scalarInstruction]; exact execScalarInstruction_keeps hs
  case instructionComplete => rw [exec_instructionComplete]; exact execInstructionComplete_keeps hs
  case eventTimeout => rw [exec_eventTimeout]; exact execEventTimeout_keeps hs
  case accumulatorCommit => rw [exec_accumulatorCommit]; exact execAccumulatorCommit_keeps hs
  case commandComplete => rw [exec_commandComplete]; exact execCommandComplete_keeps hs
  case completionRecordPost => rw [exec_completionRecordPost]; exact execCompletionRecordPost_keeps hs
  case commandAbort => rw [exec_commandAbort]; exact execCommandAbort_keeps hs
  case pieceSend => rw [exec_pieceSend]; exact execPieceSend_keeps hs
  case pieceArrive => rw [exec_pieceArrive]; exact execPieceArrive_keeps hs
  case pieceReady => rw [exec_pieceReady]; exact execPieceReady_keeps hs
  case fadd64 => rw [exec_fadd64]; exact execFadd64_keeps hs
  case set64 => rw [exec_set64]; exact execSet64_keeps hs
  case watch64 => rw [exec_watch64]; exact execWatch64_keeps hs
  case unwatch => rw [exec_unwatch]; exact execUnwatch_keeps hs
  case watchAnswer => rw [exec_watchAnswer]; exact execWatchAnswer_keeps hs
  case watchPoll => rw [exec_watchPoll]; exact execWatchPoll_keeps hs
  case flagWaitTimeout => rw [exec_flagWaitTimeout]; exact execFlagWaitTimeout_keeps hs
  case farBlockRead => rw [exec_farBlockRead]; exact execFarBlockRead_keeps hs
  case farBlockWrite => rw [exec_farBlockWrite]; exact execFarBlockWrite_keeps hs
  case parityDelta => rw [exec_parityDelta]; exact execParityDelta_keeps hs
  case scrub => rw [exec_scrub]; exact execScrub_keeps hs
  case accumulatePacket => rw [exec_accumulatePacket]; exact execAccumulatePacket_keeps hs
  case mergeHdr => rw [exec_mergeHdr]; exact execMergeHdr_keeps hs
  case accumulateAnswer => rw [exec_accumulateAnswer]; exact execAccumulateAnswer_keeps hs
  case packetResendTimeout => rw [exec_packetResendTimeout]; exact execPacketResendTimeout_keeps hs
  case beatError => rw [exec_beatError]; exact execBeatError_keeps hs
  case laneFault => rw [exec_laneFault]; exact execLaneFault_keeps hs
  case coreFault => rw [exec_coreFault]; exact execCoreFault_keeps hs
  case coreFenceDone => rw [exec_coreFenceDone]; exact execCoreFenceDone_keeps hs
  case coreSelfTestStart => rw [exec_coreSelfTestStart]; exact execCoreSelfTestStart_keeps hs
  case coreSelfTestDone => rw [exec_coreSelfTestDone]; exact execCoreSelfTestDone_keeps hs
  case dieCtrlRestart => rw [exec_dieCtrlRestart]; exact execDieCtrlRestart_keeps hs
  case dieLost => rw [exec_dieLost]; exact execDieLost_keeps hs
  case islandLost => rw [exec_islandLost]; exact execIslandLost_keeps hs
  case farStackLost => rw [exec_farStackLost]; exact execFarStackLost_keeps hs
  case rebuildRowMove => rw [exec_rebuildRowMove]; exact execRebuildRowMove_keeps hs
  case nearStackLost => rw [exec_nearStackLost]; exact execNearStackLost_keeps hs
  case nearReplacementDone => rw [exec_nearReplacementDone]; exact execNearReplacementDone_keeps hs
  case selfRefreshEntry => rw [exec_selfRefreshEntry]; exact execSelfRefreshEntry_keeps hs
  case hubFault => rw [exec_hubFault]; exact execHubFault_keeps hs
  case heartbeatTimeout => rw [exec_heartbeatTimeout]; exact execHeartbeatTimeout_keeps hs
  case sliceAbandon => rw [exec_sliceAbandon]; exact execSliceAbandon_keeps hs
  case recordFault => rw [exec_recordFault]; exact execRecordFault_keeps hs
  case recordRecovered => rw [exec_recordRecovered]; exact execRecordRecovered_keeps hs
  case pmbAlert => rw [exec_pmbAlert]; exact execPmbAlert_keeps hs
  case portDown => rw [exec_portDown]; exact execPortDown_keeps hs
  case portUp => rw [exec_portUp]; exact execPortUp_keeps hs
  case perst => rw [exec_perst]; exact execPerst_keeps hs
  case flitReceive => rw [exec_flitReceive]; exact execFlitReceive_keeps hs
  case linkLaneFail => rw [exec_linkLaneFail]; exact execLinkLaneFail_keeps hs
  case laneRetrainDone => rw [exec_laneRetrainDone]; exact execLaneRetrainDone_keeps hs
  case gcountSync => rw [exec_gcountSync]; exact execGcountSync_keeps hs
  case workerLossTimeout => rw [exec_workerLossTimeout]; exact execWorkerLossTimeout_keeps hs
  case workerRefusal => rw [exec_workerRefusal]; exact execWorkerRefusal_keeps hs
  case comparisonRecord => rw [exec_comparisonRecord]; exact execComparisonRecord_keeps hs
  case peerLinkTimeout => rw [exec_peerLinkTimeout]; exact execPeerLinkTimeout_keeps hs
  case porAssert => rw [exec_porAssert]; exact execPorAssert_keeps hs
  case porRelease => rw [exec_porRelease]; exact execPorRelease_keeps hs
  case railSettle => rw [exec_railSettle]; exact execRailSettle_keeps hs
  case hrst => rw [exec_hrst]; exact execHrst_keeps hs
  case pwrfail => rw [exec_pwrfail]; exact execPwrfail_keeps hs
  case leadAbsentTimeout => rw [exec_leadAbsentTimeout]; exact execLeadAbsentTimeout_keeps hs
  case imageOffer => rw [exec_imageOffer]; exact execImageOffer_keeps hs
  case imageVerified => rw [exec_imageVerified]; exact execImageVerified_keeps hs
  case hubJoin => rw [exec_hubJoin]; exact execHubJoin_keeps hs
  case joinTimeout => rw [exec_joinTimeout]; exact execJoinTimeout_keeps hs
  case computePowerUpStep => rw [exec_computePowerUpStep]; exact execComputePowerUpStep_keeps hs
  case sensorSample => rw [exec_sensorSample]; exact execSensorSample_keeps hs
  case thermalStep => rw [exec_thermalStep]; exact execThermalStep_keeps hs
  case powerStep => rw [exec_powerStep]; exact execPowerStep_keeps hs
  case sleepTimeout => rw [exec_sleepTimeout]; exact execSleepTimeout_keeps hs
  case pllLock => rw [exec_pllLock]; exact execPllLock_keeps hs
  case runEntry => rw [exec_runEntry]; exact execRunEntry_keeps hs
  case runExit => rw [exec_runExit]; exact execRunExit_keeps hs
  case networkClockGate => rw [exec_networkClockGate]; exact execNetworkClockGate_keeps hs
  case interruptingSliceStart => rw [exec_interruptingSliceStart]; exact execInterruptingSliceStart_keeps hs
  case worgonPortTrained => rw [exec_worgonPortTrained]; exact execWorgonPortTrained_keeps hs
  case debugPortHalt => rw [exec_debugPortHalt]; exact execDebugPortHalt_keeps hs

end Sys2Proof.Machine
end

