-- ==== Sys2Proof/Laws/Taken.lean ====
section
/-! SUPPORT. A request taken in its mailbox changes nothing that a command reads. -/

namespace Sys2Proof.Machine

open Sys2Proof

/-- What `accepts` says of one row. -/
theorem accepts_spec {i : Instr} {spec : CmdSpec} {rq : MbxReq} {s : State} (hi : mbxRow i = some (spec, rq)) (h : accepts s i = true) :
    accepted s spec rq = true := by
  simpa [accepts, hi] using h
@[simp] theorem setMailbox_reaches (s : State) (p q : Port) (b : Nat) (m : Mailbox) : reaches (setMailbox s p b m) q = reaches s q := by
  cases p <;> cases q <;> rfl
theorem port_field {α : Type} (g : PortState → α) (s : State) (c : Nat) (rq : MbxReq) (q : Port)
    (hg : ∀ ps m, g { ps with mailboxes := m } = g ps) : g ((takenBy s c rq).port q) = g (s.port q) := by
  cases h : rq.port <;> cases q <;> simp [takenBy, setMailbox, State.updPort, State.setPort, State.port, h, hg]
@[simp] theorem takenBy_now (s : State) (c : Nat) (rq : MbxReq) : (takenBy s c rq).now = s.now := by
  simp only [State.now, State.leadOr0, takenBy_dev]; cases s.dev.lead.getD .h0 <;> simp [State.hub]
@[simp] theorem takenBy_portDstate (s : State) (c : Nat) (rq : MbxReq) (q : Port) : portDstate (takenBy s c rq) q = portDstate s q := by
  simp only [portDstate, takenBy_dev]; cases q <;> simp [State.hub, Port.hub]
@[simp] theorem takenBy_hub (s : State) (c : Nat) (rq : MbxReq) (q : Hub) : (takenBy s c rq).hub q = s.hub q := by
  cases q <;> simp [State.hub]
@[simp] theorem takenBy_leadOr0 (s : State) (c : Nat) (rq : MbxReq) : (takenBy s c rq).leadOr0 = s.leadOr0 := by
  simp [State.leadOr0]
@[simp] theorem takenBy_physCore (s : State) (c : Nat) (rq : MbxReq) (p) : (takenBy s c rq).physCore p = s.physCore p := by
  simp [State.physCore]
@[simp] theorem takenBy_die (s : State) (c : Nat) (rq : MbxReq) (p) : (takenBy s c rq).die p = s.die p := by
  simp [State.die]
@[simp] theorem takenBy_coreInService (s : State) (c : Nat) (rq : MbxReq) : coreInService (takenBy s c rq) = coreInService s := by
  funext x; simp [coreInService, physServing]
@[simp] theorem takenBy_findJob (s : State) (c : Nat) (rq : MbxReq) (p) : findJob (takenBy s c rq) p = findJob s p := by
  simp [findJob]
@[simp] theorem takenBy_findQueue (s : State) (c : Nat) (rq : MbxReq) (p) : findQueue (takenBy s c rq) p = findQueue s p := by
  simp [findQueue]
@[simp] theorem takenBy_findCaddy (s : State) (c : Nat) (rq : MbxReq) (p) : findCaddy (takenBy s c rq) p = findCaddy s p := by
  simp [findCaddy]
@[simp] theorem takenBy_findProgram (s : State) (c : Nat) (rq : MbxReq) (p) : findProgram (takenBy s c rq) p = findProgram s p := by
  simp [findProgram]
@[simp] theorem takenBy_findChain (s : State) (c : Nat) (rq : MbxReq) (p) : findChain (takenBy s c rq) p = findChain s p := by
  simp [findChain]
@[simp] theorem takenBy_spareOf (s : State) (c : Nat) (rq : MbxReq) (p) : spareOf (takenBy s c rq) p = spareOf s p := by
  simp [spareOf]
@[simp] theorem takenBy_nearStacks (s : State) (c : Nat) (rq : MbxReq) : nearStacks (takenBy s c rq) = nearStacks s := by
  simp [nearStacks]
@[simp] theorem takenBy_hostReadable (s : State) (c : Nat) (rq : MbxReq) (q) : ((takenBy s c rq).port q).hostReadable = (s.port q).hostReadable :=
  port_field (·.hostReadable) s c rq q (fun _ _ => rfl)
@[simp] theorem takenBy_hostMem (s : State) (c : Nat) (rq : MbxReq) (q) : ((takenBy s c rq).port q).hostMem = (s.port q).hostMem :=
  port_field (·.hostMem) s c rq q (fun _ _ => rfl)
@[simp] theorem takenBy_linkUp (s : State) (c : Nat) (rq : MbxReq) (q) : ((takenBy s c rq).port q).linkUp = (s.port q).linkUp :=
  port_field (·.linkUp) s c rq q (fun _ _ => rfl)
@[simp] theorem takenBy_reaches (s : State) (c : Nat) (rq : MbxReq) (q) : reaches (takenBy s c rq) q = reaches s q := by
  simp [takenBy]
@[simp] theorem takenBy_hostRead (s : State) (c : Nat) (rq : MbxReq) (q a n) : hostRead (takenBy s c rq) q a n = hostRead s q a n := by
  simp [hostRead]
@[simp] theorem takenBy_hostImage (s : State) (c : Nat) (rq : MbxReq) (q b) : hostImage (takenBy s c rq) q b = hostImage s q b := by
  simp [hostImage]
@[simp] theorem takenBy_octetFree (s : State) (c : Nat) (rq : MbxReq) : octetFree (takenBy s c rq) = octetFree s := by
  funext x; simp [octetFree]
@[simp] theorem takenBy_freeOctets (s : State) (c : Nat) (rq : MbxReq) : freeOctets (takenBy s c rq) = freeOctets s := by
  simp [freeOctets]

end Sys2Proof.Machine
end

