-- ==== Sys2Proof/Machine/Readback.lean ====
section
/-! DEFINITION. What a read of a register returns (R9 to R11, R316, R317, R498 to R509, R513, R515): BAR0 of a port, the sideband
of a hub, and the pins that follow them (R499). A read of a GCOUNT half has a row of its own. -/

namespace Sys2Proof.Machine

open Sys2Proof

/-! The first region (R506). -/

/-- HUB.DEV_STATE. The hub service states read 0b01 until a join ends. -/
def devStateReg (s : State) (p : Port) : Nat :=
  portDstate s p + (if s.dev.lead = some p.hub then 2 ^ 2 else 0) + 2 ^ 4 * s.h0.svc.code + 2 ^ 6 * s.h1.svc.code +
    2 ^ 8 * octetBits ((List.range 8).filter (fun d => (s.die d).powered)) + 2 ^ 16 * coresInService s + 2 ^ 26 * s.dev.role.val +
    2 ^ 28 * octetBits (nearStacks s) + 2 ^ 32 * s.far.g0.st.code + 2 ^ 34 * s.far.g1.st.code

/-- HUB.AON_STATUS. -/
def aonStatusReg (s : State) (h : HubState) : Nat :=
  (if h.pwrfail then 1 else 0) + (if s.dev.thermTrip then 2 else 0) + 2 ^ 2 * h.thermLevel + (if h.recordOk then 2 ^ 5 else 0) +
    (if h.sris then 2 ^ 6 else 0) + 2 ^ 16 * h.hrstCount.toNat

/-- Dies whose core clocks run. -/
def clockedDies (s : State) : List Nat := (List.range 8).filter (fun d => (s.die d).powered)

/-- HUB.PWR_STATUS. -/
def powerStatusReg (s : State) : Nat :=
  field s.pwr.powerW 0 16 + 2 ^ 16 * ((minList ((clockedDies s).map (kOf s))).getD 16) + (if s.pwr.byCap then 2 ^ 21 else 0) +
    (if s.pwr.byCurrent then 2 ^ 22 else 0) +
    (if (clockedDies s).any (fun d => decide ((s.die d).kTherm < s.pwr.kCap)) then 2 ^ 23 else 0) + 2 ^ 24 * field s.pwr.phases 0 7

/-- HUB.IFACE: zero while no image runs. -/
def ifaceReg (h : HubState) : Nat :=
  match h.image with
  | some i => i.iface + 2 ^ 16 * i.stateFmt + 2 ^ 32 * i.svn
  | none => 0

/-- HUB.MEAS0 to HUB.MEAS7. -/
def measReg (h : HubState) (i : Nat) : Digest := h.measurements.getD i 0

/-- HUB.MBX_STATE: two bits for each mailbox. -/
def mailboxBits (s : State) (p : Port) : Nat :=
  (List.range 64).foldl (fun v m => v + 4 ^ m * (match (getMailbox s p m).st with
    | .free => 0
    | .rung | .busy => 1
    | .done => 2)) 0

/-- The registers that R505 lets read in the boot ROM, by slot. -/
def romRegister (s : State) (p : Port) (slot : Nat) : Option Nat :=
  let h := s.hub p.hub
  if slot = 0x0000 then some (0x1024 + 2 ^ 16 * Config.stepping.toNat + 2 ^ 24 * p.num)
  else if slot = 0x0008 then some Config.deviceId.toNat
  else if slot = 0x0108 then some (aonStatusReg s h)
  else if slot = 0x0110 then some h.gcount.toNat
  else if 0x0300 ≤ slot ∧ slot < 0x0320 then some (leAt (digestBytes h.meas0) (slot - 0x0300) 8)
  else if slot = 0x0810 ∨ slot = 0x0818 then some (field (mailboxBits s p) (8 * (slot - 0x0810)) 64)
  else none

/-- The other registers of the first region as firmware shows them; a doorbell, an acknowledgement, a reserved offset read zero. -/
def liveRegister (s : State) (p : Port) (slot : Nat) : Nat :=
  let h := s.hub p.hub
  let ps := s.port p
  if slot = 0x0010 then ifaceReg h
  else if slot = 0x0100 then devStateReg s p
  else if slot = 0x0118 then field s.pwr.capW 0 16
  else if slot = 0x0120 then powerStatusReg s
  else if slot = 0x0200 then h.protCtrl.toNat
  else if slot = 0x0208 then h.protLock.toNat
  else if slot = 0x0210 then h.protRegionBase.toNat
  else if 0x0300 ≤ slot ∧ slot < 0x0400 then leAt (digestBytes (measReg h ((slot - 0x0300) / 32))) ((slot - 0x0300) % 32) 8
  else if 0x0400 ≤ slot ∧ slot < 0x0420 then leAt (digestBytes h.cfgDigest) (slot - 0x0400) 8
  else if slot = 0x0420 then h.measGen.toNat
  else if slot = 0x0900 then 2 ^ 32 * ps.farWindow.toNat
  else if slot = 0x0908 then ps.windowMiss.toNat
  else if slot = 0x0A00 then ps.errSummary.toNat
  else if slot = 0x0A08 then s.dev.corrStack.toNat
  else if slot = 0x0A10 then s.dev.corrSram.toNat
  else if slot = 0x0A18 then s.dev.corrPath.toNat
  else if slot = 0x0A20 then s.dev.resent.toNat
  else if slot = 0x0A28 then s.dev.dataLoss.toNat
  else 0

/-- Their reset values, which they read until boot step 5, and on a hub that serves only the registers R505 lists (log 118). -/
def resetRegister (s : State) (slot : Nat) : Nat :=
  if slot = 0x0100 then 1 + 2 ^ 4 + 2 ^ 6 + 2 ^ 26 * s.dev.role.val
  else if slot = 0x0118 then field s.pwr.cfgCap 0 16
  else if slot = 0x0120 then 2 ^ 16 * 16 + 2 ^ 24 * field s.pwr.corePhases 0 7
  else 0

def firstRegion (s : State) (p : Port) (slot : Nat) : Nat :=
  let h := s.hub p.hub
  match romRegister s p slot with
  | some v => v
  | none => if h.inRom || h.phase == .out || h.svc == .out || h.svc == .mismatch then resetRegister s slot else liveRegister s p slot

/-! The other regions (R513, R515). -/

/-- The event ring registers. HUB.EVT_COUNTS HELD has 16 bits: while more events wait it reads 0xFFFF (DESIGN CHOICE, log 143:
R344 lets more wait than the field can say, and R513 states no value for it then). -/
def eventRegister (ps : PortState) (slot : Nat) : Nat :=
  if slot = 0x20000 then ps.evtBase.toNat
  else if slot = 0x20008 then (if ps.evtSet then ps.evtLog2 + 2 ^ 5 else 0)
  else if slot = 0x20010 then ps.evtHead
  else if slot = 0x20018 then ps.evtTail + (if ps.evtPhase then 2 ^ 16 else 0)
  else if slot = 0x20020 then (if ps.evtIntr then 1 else 0)
  else if slot = 0x20028 then ps.evtDiscarded.toNat + 2 ^ 32 * min ps.held.length 0xFFFF
  else 0

/-- The MSI-X table and the pending bits. -/
def msixRegister (ps : PortState) (slot : Nat) : Nat :=
  let e := ps.vector ((slot - 0x30000) / 16)
  if 0x30000 ≤ slot ∧ slot < 0x30100 then
    (if slot % 16 = 0 then e.addr.toNat else e.data.toNat + (if e.masked then 2 ^ 32 else 0))
  else if slot = 0x30800 then ps.msixPending.toNat
  else 0

/-- The 8 bytes of a slot. Queue doorbells and reserved offsets read zero; in CONFIG_WAIT so does all but the first region (R316,
R317). While the port requires IDE and has no stream, the first region reads as always and the others read zero (DESIGN CHOICE, log
142: R447 speaks of BAR0 writes and BAR2 reads, not of BAR0 reads). -/
def bar0Slot (s : State) (p : Port) (slot : Nat) : Nat :=
  if slot < 0x10000 then firstRegion s p slot
  else if !regionsLive s p then 0
  else if 0x20000 ≤ slot ∧ slot < 0x21000 then eventRegister (s.port p) slot
  else if 0x30000 ≤ slot ∧ slot < 0x31000 then msixRegister (s.port p) slot
  else 0

/-- A response page (R320); zeros where none has been written (log 118). -/
def responsePage (s : State) (p : Port) (m : Nat) : List Byte :=
  match (getMailbox s p m).resp with
  | none => zeros 4096
  | some r => padTo 4096 (leBytes 2 r.cmd ++ leBytes 2 r.body.length ++ leBytes 4 r.token.toNat ++ leBytes 2 r.status ++
      leBytes 2 r.detail ++ zeros 20 ++ r.body)

/-- The bytes a read of BAR0 returns: a mailbox page at any length and alignment within it, a register in 4 or 8 aligned bytes,
zeros otherwise (R10, R316, R501). A 4-byte read of a GCOUNT half is GCOUNT_LOW_READ or GCOUNT_HIGH_READ. -/
def bar0Read (s : State) (p : Port) (offset length : Nat) : List Byte :=
  if 0x80000 ≤ offset ∧ offset < 0x100000 then
    let m := (offset - 0x80000) / 8192
    let off := (offset - 0x80000) % 8192
    if off + length ≤ 4096 then memReadN (s.port p).reqPages (4096 * m + off) length
    else if 4096 ≤ off ∧ off + length ≤ 8192 then ((responsePage s p m).drop (off - 4096)).take length
    else zeros length
  else if (length = 4 ∨ length = 8) ∧ offset % length = 0 then
    ((leBytes 8 (bar0Slot s p (offset - offset % 8))).drop (offset % 8)).take length
  else zeros length

/-! The sideband (R498, R499). -/

/-- The 7-bit address of a hub's sideband target. -/
def sidebandAddress (s : State) : Nat := 0x5C + s.dev.sbAddr.val

/-- A sideband read of 4 bytes; write-only and reserved fields read zero. -/
def sidebandRead (s : State) (hub : Hub) (offset : Nat) : Nat :=
  let h := s.hub hub
  if offset = 0x00 then
    portDstate s hub.port + (if s.dev.lead = some hub then 2 ^ 2 else 0) + 2 ^ 3 * h.thermLevel + (if h.cfgDone then 2 ^ 6 else 0) +
      (if h.thermAlert then 2 ^ 7 else 0)
  else if offset = 0x04 then field s.pwr.powerW 0 16
  else if offset = 0x0C then h.cfgPtr
  else if offset = 0x10 then field h.cfgStatus 0 16 + 2 ^ 16 * field h.cfgDetail 0 16
  else 0

/-- SB_ALERT_Hh_N is low. -/
def sbAlertLow (s : State) (hub : Hub) : Bool :=
  portDstate s hub.port == 0 || (s.hub hub).cfgDone || (s.hub hub).thermAlert

end Sys2Proof.Machine
end

