-- ==== Sys2Proof/Machine/Pins.lean ====
section
/-! DEFINITION. The state of each ball group as the pins follow the machine (R408, R444, R480 to R483, R495, R499). -/

namespace Sys2Proof.Machine

open Sys2Proof

/-- The groups of the table Pin states. -/
inductive BallGroup where
  | peTransmit (p : Port) | peReceive (p : Port) | wkTransmit (k : Fin 12) | wkReceive (k : Fin 12) | sideband (h : Hub)
  | sbAlert (h : Hub) | pmbus (h : Hub) | thermTrip | debugOut (h : Hub) | otherInput
deriving DecidableEq, Repr

/-- What the table gives a group: `link` a trained link, `limited` one with configuration space and mailboxes only,
`observe` driven as DEBUG allows. -/
inductive BallState where
  | highZ | unterminated | terminated | idle | limited | link | released | served | low | observe | sampled
deriving DecidableEq, Repr

/-- The columns of the table Pin states. -/
inductive PinColumn where
  | unpowered | reset | configWait | service
deriving DecidableEq, Repr

/-- Neither hub gives service: both lost, or out after a fault (R408, R483). -/
def bothOut (s : State) : Bool := s.h0.phase == .out && s.h1.phase == .out

/-- The column a hub's balls follow. A hub that boots has started no output: the CONFIG_WAIT column; a hub out of service holds
those of a hub in reset (log 123). -/
def pinColumn (s : State) (h : Hub) : PinColumn :=
  let x := s.hub h
  if bothOut s then .reset
  else match x.phase with
    | .porHeld | .hrstHeld | .out => .reset
    | .railHold => if x.railsOk then .reset else .unpowered
    | .obtain | .verify | .configWait | .locked => .configWait
    | .joined => .service

/-- A Worgon port is in use: its role is not UNUSED and its hub drives it; a worker trains its ports already in boot (R350, R440). -/
def wkLive (s : State) (k : Fin 12) : Bool :=
  let x := s.hub (worgonHub k.val)
  (s.worgon k.val).role != 0 &&
    (x.phase == .joined || (s.dev.role.val == 2 && (x.phase == .obtain || x.phase == .verify || x.phase == .locked)))

/-- DEBUG of a hub is not CLOSED (R443). -/
def debugOpen (h : HubState) : Bool := field h.protCtrl.toNat 2 2 != 0

def ballState (s : State) (g : BallGroup) : BallState :=
  match g with
  | .peTransmit p => match pinColumn s p.hub with
    | .unpowered | .reset => .highZ
    | .configWait => if s.dev.role.val = 2 then .highZ else .limited
    | .service => if s.dev.role.val = 2 then .highZ else if s.dev.role.val = 3 then .limited else .link
  | .peReceive p => match pinColumn s p.hub with
    | .unpowered | .reset => .unterminated
    | .configWait => .terminated
    | .service => if s.dev.role.val = 2 then .unterminated else .terminated
  | .wkTransmit k => match pinColumn s (worgonHub k.val) with
    | .unpowered | .reset => .highZ
    | .configWait | .service => if wkLive s k then .link else .idle
  | .wkReceive k => match pinColumn s (worgonHub k.val) with
    | .unpowered | .reset => .unterminated
    | .configWait | .service => if wkLive s k then .terminated else .unterminated
  | .sideband h => match pinColumn s h with
    | .unpowered => .released
    | .reset => if (s.hub h).phase = .porHeld then .released else .served
    | .configWait | .service => .served
  | .sbAlert h => match pinColumn s h with
    | .unpowered => .released
    | .reset => if (s.hub h).phase = .porHeld then .released else if sbAlertLow s h then .low else .released
    | .configWait | .service => if sbAlertLow s h then .low else .released
  | .pmbus h => match pinColumn s h with
    | .unpowered | .reset => .released
    | .configWait | .service => .served
  | .thermTrip =>
    if s.h0.phase = .porHeld ∧ s.h1.phase = .porHeld then .released else if s.dev.thermTrip then .low else .released
  | .debugOut h => match pinColumn s h with
    | .unpowered | .reset => .highZ
    | .configWait | .service => if debugOpen (s.hub h) then .observe else .highZ
  | .otherInput => .sampled

end Sys2Proof.Machine
end

