-- ==== Sys2Proof/Tests/Slice0.lean ====
section
/-! SUPPORT. The model's own tests: the well-formedness checks, a state and operands that meet the hypotheses of each
statement, a few worked examples of the manual. -/

namespace Sys2Proof.Tests

open Sys2Proof Sys2Proof.Machine

/-! States and requests. -/

/-- A request on mailbox 0 of port A. -/
def rqOf (body : List Byte) : MbxReq :=
  { port := .a, box := 0, notify := false, token := 7, resv := false, bodyLen := body.length, body := body }

/-- A body from the widths in bytes and the values of its fields. -/
def fields (l : List (Nat × Nat)) : List Byte := l.flatMap (fun f => leBytes f.1 f.2)

/-- The body of a load command: an image of n bytes at host address 0. -/
def loadBody (n : Nat) : List Byte := fields [(8, 0), (6, n), (2, 0)]

/-- Port A may send service commands; an image runs on both hubs. -/
def svc : State :=
  { bareState with
    h0 := { bareState.h0 with protCtrl := 1, image := some { iface := 1, stateFmt := 1, svn := 3, digest := 5 } }
    h1 := { bareState.h1 with image := some { iface := 1, stateFmt := 1, svn := 3, digest := 5 } } }

def job0 : Job := { id := 0, group := 8, octets := [0], rjob := none, progs := [], binds := [], peers := [] }

def queue0 : Queue :=
  { num := 0, job := 0, log2depth := 4, farRings := false, priority := 0, outLimit := 1, vector := 1, intr := true,
    sqBase := 0, cqBase := 4096, flagTimeout := 0, home := .port .a }

def entryOf (cmd : Nat) : QEntry :=
  { cmd := cmd, fence := false, early := false, notify := true, bound := false, entry := 0, progSlot := 0, userTag := 0,
    boundAddr := 0, counterAddr := 0x1000, flagAddr := 0x2000, flagValue := 5, bad := none }

def cmd0 (cmd : Nat) : Cmd := { sqIndex := 0, entry := entryOf cmd }

def chain0 : Chain := { id := 1, pairs := [], special := [], log2nMax := 10, serial := 1 }

def caddy0 : Caddy :=
  { index := 0, st := .library, tag := 9, chainId := 1, dnum := 1, log2n := 10, serial := 1, marked := false, keys := [],
    imageLen := 0, digest := 0, extents := [], streamed := 0, copying := false, loadPort := .a, loadBox := 3 }

def body0 : Body := { decodes := true, entries := [] }

def program0 : Program :=
  { index := 0, chainId := 1, serial := 1, marked := false, numBind := 0, minCores := 8, length := 0, digest := 0,
    entries := [], descs := [], press := [], rpairs := [], body := body0, image := [] }

/-- One octet of die C0 in service, with a spare core. -/
def cores0 : State :=
  { svc with
    dies := [(0, { powered := true, netGated := false })]
    phys := (List.range 8).map (fun k => (k, { st := .serving, logical := some k, power := .run })) }

/-- With one job, its queue, a chain, a caddy and a program. -/
def busy : State :=
  { svc with tab := { svc.tab with chains := [chain0], caddies := [caddy0], programs := [program0], jobs := [job0], queues := [queue0] } }

def withQueue (q : Queue) : State := { busy with tab := { busy.tab with queues := [q] } }

/-- A manager with device 2 live and device 3 lost. -/
def manager : State :=
  { busy with
    dev := { busy.dev with role := 1 }
    fab := { enumerated := true
             workers := [{ dev := 2, parent := 0, parentPort := 0, upPort := 0, depth := 1, twoUp := false },
                         { dev := 3, parent := 0, parentPort := 1, upPort := 0, depth := 1, twoUp := false, lost := true }] } }

/-- Bytes in host memory behind port A. -/
def withHost (s : State) (cells : List Host.Cell) : State := { s with pa := { s.pa with hostMem := cells } }

/-- A chain table of one pair under the primes 1,073,153 and 1,097,729. -/
def chainImage : List Byte :=
  padTo 64 (fields [(2, 1), (1, 1), (1, 0), (1, 12)]) ++ fields [(4, 1073153), (4, 1097729), (3, 10265), (1, 0), (4, 0)]

/-! The hypotheses of the statements are met. -/

theorem meets_StepRunsFrontCommand : ({ bareState with pending := [.pwrfail] } : State).pending = .pwrfail :: [] := rfl

theorem meets_EmptyQueueTicksTheClock : bareState.pending = [] ∧ slewNow bareState = false := by decide

theorem meets_DoorbellOnBusyOrDoneMailboxIgnored :
    let s := setMailbox bareState .a 0 { st := .busy }
    let u := setMailbox bareState .a 0 { st := .done }
    mbxRow (.getInfo (rqOf [])) = some (getInfoSpec, rqOf []) ∧ reaches s .a = true ∧ (getMailbox s .a 0).st = .busy ∧
      reaches u .a = true ∧ (getMailbox u .a 0).st = .done := by
  refine ⟨rfl, ?_⟩; decide

theorem meets_FailedCheckAnswersAndChangesNothingElse :
    let rq := rqOf (fields [(2, 0), (2, 1)])
    mbxRow (.coreInfo rq) = some (coreSpec 0x00C3 false, rq) ∧ reaches bareState .a = true ∧
      (getMailbox bareState .a 0).st = .free ∧ bareState.dev.mbxOrder = [] ∧ servesMailboxes bareState .a = true ∧
      takeoverDue bareState = false ∧
      checkRequest (takenBy bareState 0x00C3 rq) (coreSpec 0x00C3 false) rq = some (stBadField, 2) := by
  refine ⟨rfl, ?_⟩; decide

theorem meets_QueriesAnswerWithTheBodyTheTablesGive :
    accepts bareState (.getInfo (rqOf [])) = true ∧ accepts bareState (.svcStatus (rqOf [])) = true ∧
      accepts bareState (.coreInfo (rqOf (fields [(4, 575)]))) = true ∧
      (accepts busy (.jobStatus (rqOf (fields [(4, 0)]))) = true ∧ findJob busy 0 = some job0) ∧
      (accepts busy (.caddyQuery (rqOf (fields [(4, 0)]))) = true ∧ findCaddy busy 0 = some caddy0 ∧ caddy0.st ≠ .loading) := by
  decide

def entry0 : LogEntry := { kind := 1, boots := 0, seq := 4, gcount := 0, aonTime := 0, body := [], ecrc := 0 }

def logged : State := { bareState with record := { bareState.record with log := [entry0] } }

theorem meets_BlackBoxQueriesAnswerFromTheLog :
    (accepts logged (.bboxInfo (rqOf [])) = true ∧ logged.record.log = entry0 :: []) ∧
      (accepts bareState (.bboxInfo (rqOf [])) = true ∧ bareState.record.log = []) ∧
      (let rq := rqOf (fields [(8, 4), (8, 31)])
       accepts logged (.bboxRead rq) = true ∧ ((sortBy (·.seq) (logged.record.log ++ logged.record.held)).filter
         (fun e => decide (leAt (bodyOf rq) 0 8 ≤ e.seq))).take (leAt (bodyOf rq) 8 1) = [entry0]) ∧
      (let rq := rqOf (fields [(8, 5), (8, 1)])
       accepts logged (.bboxRead rq) = true ∧
         (logged.record.log ++ logged.record.held).all (fun e => decide (e.seq < leAt (bodyOf rq) 0 8)) = true) := by
  decide

def granted : State := { busy with far := { busy.far with owners := [(9151, 0)] } }

theorem meets_MemGrantAndReleaseMoveWholeRanges :
    let rq := rqOf (fields [(4, 0), (4, 9151), (4, 1), (4, 0)])
    (accepts busy (.memGrant rq) = true ∧ (findJob busy 0).isSome = true ∧
      ∀ e ∈ extentRange (bodyOf rq), tabGet? busy.far.owners e = none) ∧
    (accepts granted (.memRelease rq) = true ∧ (findJob granted 0).isSome = true ∧
      (∀ e ∈ extentRange (bodyOf rq), tabGet? granted.far.owners e = some 0) ∧
      releaseBusy granted 0 (extentRange (bodyOf rq)) = false) := by
  decide

theorem meets_CopiesMoveBytesBetweenHostAndFarMemory :
    let s := withHost { granted with far := { granted.far with owners := [(0, 0)] } } [(5, 9)]
    let rq := rqOf (fields [(8, 0), (8, 0), (4, 64), (4, 0)])
    (accepts s (.copyIn rq) = true ∧ copyPermitted s .a 0 64 = true ∧ reaches s .a = true ∧
      (s.port .a).hostReadable = true ∧ 0 + 64 ≤ 2 ^ 64) ∧
    (0 / 4096 = 0 ∧ 0 % 4096 + 64 ≤ 4096 ∧ (s.far.group (0 % 2)).onLost (0 / 2) = false ∧
      s.tab.queues.any (fun q => q.cmds.any (·.touches (0, 64, 0))) = false) ∧
    (accepts s (.copyOut rq) = true ∧ copyPermitted s .a 0 64 = true ∧ rq.notify = false) := by
  decide

theorem meets_EventRingAndRebuildShareAndSpdmComplete :
    accepts bareState (.eventRingSet (rqOf (fields [(8, 4096), (8, 16)]))) = true ∧
      accepts svc (.rebuildShare (rqOf (fields [(4, 2)]))) = true ∧
      (let s := { bareState with h0 := { bareState.h0 with phase := .obtain } }
       accepts s (.spdm (rqOf (fields [(4, 1), (1, 0)]))) = true ∧ (s.hub .h0).inRom = true ∧ (s.port .a).linkUp = true) ∧
      (accepts bareState (.spdm (rqOf (fields [(4, 1), (1, 0)]))) = true ∧ (bareState.hub .h0).inRom = false ∧
        (bareState.port .a).linkUp = true) := by
  decide

theorem meets_ChainLoadAndUnloadChangeTheChainTable :
    (let s := withHost bareState (memCells 0 chainImage)
     accepts s (.chainLoad (rqOf (loadBody 80))) = true ∧ hostRead s .a 0 80 = some chainImage ∧
       chainRefused s chainImage = none) ∧
    (accepts busy (.chainUnload (rqOf (fields [(4, 1)]))) = true ∧ busy.tab.chains.find? (fun c => c.id == 1) = some chain0 ∧
      chainReferenced busy chain0 = false) := by
  decide +kernel

theorem meets_CaddyLifeCompletes :
    (let s := withHost bareState [(0x18, 0x1E)]
     accepts s (.caddyLoad (rqOf (loadBody 0x1E))) = true ∧ (hostRead s .a 0 0x1E).isSome = true ∧
       leAt (memReadN s.pa.hostMem 0 0x1E) 0x18 6 = 0x1E ∧ lowestFree 1024 (s.tab.caddies.map (·.index)) = some 0) ∧
    (let c := { caddy0 with st := .loading, copying := true }
     let s := { busy with tab := { busy.tab with caddies := [c] } }
     s.tab.caddies.find? (fun c => c.index == 0) = some c ∧ c.st = .loading ∧ c.copying = true) ∧
    (accepts busy (.caddyUnload (rqOf (fields [(4, 0)]))) = true ∧ busy.tab.caddies.find? (fun c => c.index == 0) = some caddy0 ∧
      caddy0.st ≠ .loading ∧ busy.tab.jobs.any (fun j => j.binds.contains 0) = false) := by
  decide +kernel

theorem meets_ProgramLoadAnswersTheStrainersVerdict :
    (let s := withHost bareState [(0x28, 0x2C)]
     accepts s (.programLoad (rqOf (loadBody 0x2C)) body0) = true ∧ (hostRead s .a 0 0x2C).isSome = true ∧
       leAt (memReadN s.pa.hostMem 0 0x2C) 0x28 4 = 0x2C) ∧
    (accepts busy (.programUnload (rqOf (fields [(4, 0)]))) = true ∧
      busy.tab.programs.find? (fun p => p.index == 0) = some program0 ∧
      busy.tab.jobs.any (fun j => j.progs.contains 0) = false) := by
  decide +kernel

theorem meets_QueueDestroyInUseUnlessIdleOrCancelled :
    let rq := rqOf (fields [(4, 0)])
    (accepts busy (.queueDestroy rq) = true ∧ busy.tab.queues.find? (fun q => q.num == 0) = some queue0 ∧ queue0.st = .idle) ∧
    (let q := { queue0 with st := .stalled }
     accepts (withQueue q) (.queueDestroy rq) = true ∧ (withQueue q).tab.queues.find? (fun q => q.num == 0) = some q ∧
       ¬ (q.st = .idle ∨ q.st = .cancelled)) := by
  decide

theorem meets_QueueCommandsComplete :
    (let rq := rqOf (fields [(2, 0), (1, 4), (1, 0), (2, 256), (2, 15), (8, 0), (8, 4096), (8, 0)])
     accepts busy (.queueCreate rq) = true ∧ onFabric busy = false ∧
       (findJob busy 0).any (fun j => j.destroying.isNone) = true ∧
       bit (leAt (bodyOf rq) 2 1) 5 = false ∧ lowestFree 8192 (busy.tab.queues.map (·.num)) = some 1) ∧
    (accepts busy (.queueSet (rqOf (fields [(4, 0), (4, 256), (8, 0)]))) = true ∧ (findQueue busy 0).isSome = true) ∧
    accepts busy (.queueCancel (rqOf (fields [(4, 0)]))) = true ∧
    (let q := { queue0 with st := .stalled }
     accepts (withQueue q) (.queueResume (rqOf (fields [(4, 0)]))) = true ∧ findQueue (withQueue q) 0 = some q) ∧
    (let q := { queue0 with st := .cancelled }
     accepts (withQueue q) (.queueReset (rqOf (fields [(4, 0)]))) = true ∧ findQueue (withQueue q) 0 = some q) ∧
    (let rq := rqOf (fields [(8, 0), (8, 0), (8, 4096)])
     accepts busy (.queueRehome rq) = true ∧ findQueue busy 0 = some queue0 ∧ queue0.farRings = false ∧
       bit (leAt (bodyOf rq) 2 1) 0 = false) ∧
    (let q := { queue0 with farRings := true }
     let s := { withQueue q with far := { busy.far with owners := [(0, 0)] } }
     let rq := rqOf (fields [(2, 0), (6, 1), (8, 0), (8, 4096)])
     accepts s (.queueRehome rq) = true ∧ findQueue s 0 = some q ∧ bit (leAt (bodyOf rq) 2 1) 0 = true ∧
       ringsGranted s q.job q.log2depth (leAt (bodyOf rq) 8 8) (leAt (bodyOf rq) 0x10 8) = true) := by
  decide +kernel

/-- Eight cores, one program, a mailbox-sized JOB_CREATE. -/
def creating : State := { cores0 with tab := { cores0.tab with chains := [chain0], programs := [program0] } }

theorem meets_JobCreateGrantsAndJobDestroyFrees :
    (let rq := rqOf (padTo 0x58 (fields [(2, 8), (1, 0xFF), (1, 1)]))
     accepts creating (.jobCreate rq) = true ∧ jobRequestFault (bodyOf rq) = none ∧ jobRefused creating (bodyOf rq) = none ∧
       grantOctets (leAt (bodyOf rq) 0 2 / 8) (freeOctets creating) [] = some [0]) ∧
    (let rq := rqOf (fields [(4, 0)])
     let v := fun (s : State) => (queuesOf s 0).foldl (fun t n => drainQueue (cancelQueue t n) n) (takenBy s 0x0031 rq)
     let u := withQueue { queue0 with st := .running, cmds := [{ cmd0 4 with phase := .completed, compared := false }] }
     (accepts busy (.jobDestroy rq) = true ∧ findJob busy 0 = some job0 ∧ job0.destroying = none ∧
       queuesCancelled (v busy) 0 = true) ∧
     (accepts u (.jobDestroy rq) = true ∧ findJob u 0 = some job0 ∧ queuesCancelled (v u) 0 = false)) := by
  decide +kernel

theorem meets_CoreRetireMovesTheLogicalCoreToASpare :
    let rq := rqOf (fields [(4, 7)])
    let s := { cores0 with cores := [(7, { slots := [(0, default)] })] }
    (accepts s (.coreRetire rq) = true ∧ (s.physCore 7).logical = some 7 ∧ (s.physCore 7).st = .serving ∧
      (s.physCore 7).fencing = false ∧ s.dev.retiring.any (fun r => r.1 == 7) = false ∧ (spareOf s (7 / 72)).isSome = true ∧
      (s.core 7).slots ≠ []) ∧
    (accepts cores0 (.coreRetire rq) = true ∧ (cores0.physCore 7).logical = some 7 ∧ (cores0.physCore 7).st = .serving ∧
      (cores0.physCore 7).fencing = false ∧ cores0.dev.retiring = [] ∧ cores0.dev.late < 3 ∧ dieOfCore 7 = 7 / 72 ∧
      spareOf cores0 (7 / 72) = some 8 ∧ (cores0.core 7).slots = []) := by
  decide +kernel

theorem meets_SelfTestsAndDieCommandsComplete :
    (accepts cores0 (.coreTest (rqOf (fields [(4, 71)]))) = true ∧ (cores0.physCore 71).st = .spare ∧
      (cores0.die (71 / 72)).powered = true ∧ (cores0.die (71 / 72)).upBox = none) ∧
    (let s := cores0.updPhys 9 (fun c => { c with st := .retired })
     (s.die 0).powered = true ∧ (s.die 0).upBox = none ∧ testsOn s 0 = [] ∧ nextRetired s 0 = some 9) ∧
    (let s := cores0.updPhys 9 (fun c => { c with st := .testing })
     (testsOn s 0).head? = some 9 ∧ (s.die 0).upBox = none ∧ (s.die 0).testWait = []) ∧
    (accepts cores0 (.dieDown (rqOf (fields [(4, 0)]))) = true ∧
      cores0.tab.jobs.any (fun j => j.octets.any (fun o => o / 8 == 0)) = false ∧ (cores0.die 0).upBox = none ∧
      (cores0.die 0).powered = true ∧ cores0.dev.late < 3 ∧
      ¬ ({ cores0.dev with late := 3 } : DevState).late < 3) ∧
    (accepts cores0 (.dieUp (rqOf (fields [(4, 7)]))) = true ∧ (cores0.die 7).upBox = none ∧ (cores0.die 7).powered = false) := by
  decide +kernel

/-- A rejoin whose steps have passed, and an update at its step 2. -/
def rejoin0 : Rejoin := { image := [], fwStep := 0, port := .a, box := 0 }
def rejoined : State := { svc with h1 := { svc.h1 with phase := .locked, svc := .rejoining, rejoin := some rejoin0 } }
def update0 : FwUpdate := { host := 0, len := 4096, port := .a, box := 0, step := 2, first := .h1, portWasUp := false }
def updating : State := { svc with dev := { svc.dev with fw := some update0 } }

theorem meets_HubServiceCommandsComplete :
    (accepts svc (.hubSwap (rqOf [])) = true ∧ svc.h0.svc = .inService ∧ svc.h1.svc = .inService ∧ svc.dev.lead ≠ none ∧
      rejoinBusy svc = false) ∧
    (let rq := rqOf (fields [(8, 0), (4, 64), (4, 1)])
     accepts svc (.hubRejoin rq) = true ∧ bit (leAt (bodyOf rq) 0x0C 4) 0 = true ∧ svc.dev.lead ≠ some .h1 ∧
       rejoinBusy svc = false ∧ swapBusy svc = false ∧ svc.record.storeFull = false) ∧
    (accepts svc (.fwLoad (rqOf (loadBody 64))) = true ∧ svc.dev.lead = some .h0 ∧ protBusy svc = false ∧ swapBusy svc = false) ∧
    ((rejoined.hub .h1).rejoin = some rejoin0 ∧ rejoin0.failed = none ∧ (rejoined.hub .h1).phase = .locked) ∧
    (updating.dev.fw = some update0 ∧ update0.step = 2 ∧ update0.portWasUp = false ∧ updating.dev.slices = [] ∧
      sliceAllowed updating = true ∧ updating.dev.late = 0) ∧
    (let s := { updating with dev := { updating.dev with late := 1 } }
     s.dev.late ≠ 0 ∧ update0.abandons + 1 < 3 ∧ sliceAllowed s = true) := by
  decide +kernel

theorem meets_AttestationAndIdentityComplete :
    (accepts bareState (.attest (rqOf (padTo 40 []))) = true ∧ debugHalt (bareState.hub (signer bareState .a)) = false ∧
      bareState.record.writable = true ∧ bareState.record.nextIndex < 2 ^ 40 ∧ hostReachable bareState .a 0 10277 = true) ∧
    accepts bareState (.identityGet (rqOf (fields [(8, 0), (4, 1), (4, 2 ^ 32 - 1)]))) = true ∧
    (let key := leBytes 1 4 ++ leBytes 48 p384G.1 ++ leBytes 48 p384G.2
     let rq := rqOf (padTo 100 key)
     let s := { bareState with dev := { bareState.dev with dstate := 0 } }
     let u := { s with record := { s.record with integratorKey := key } }
     accepts s (.integratorEnroll rq) = true ∧ (pointOf ((bodyOf rq).take 97)).isSome = true ∧
       s.record.integratorKey.all (· == 0) = true ∧ s.record.writable = true ∧
       accepts u (.integratorEnroll rq) = true ∧ u.record.integratorKey.all (· == 0) = false) := by
  decide +kernel

theorem meets_ProtectionCommandsComplete :
    (let rq := rqOf (fields [(4, 1), (4, 1), (8, 0)])
     accepts svc (.protSet rq) = true ∧ changeRefused svc = false ∧
       (svc.h0.protLock ||| svc.h1.protLock) &&& BitVec.ofNat 32 (field (leAt (bodyOf rq) 4 4) 0 4) = 0) ∧
    (accepts svc (.svnCommit (rqOf [])) = true ∧ changeRefused svc = false ∧
      svc.h0.image.map (·.digest) = svc.h1.image.map (·.digest)) ∧
    (let s := { svc with h0 := { svc.h0 with protRegionBase := 4096 } }
     accepts s (.regionSet (rqOf (fields [(4, 9151), (4, 1), (4, 3)]))) = true ∧
       (s.hub s.leadOr0).protRegionBase ≠ 0) := by
  decide +kernel

/-- A device whose hub H0 obtains its image. -/
def obtaining : State := { bareState with h0 := { bareState.h0 with phase := .obtain, svc := .rejoining } }

def verifying (src : OfferSource) (box : Option Nat) (r : Option Rejoin) : State :=
  { obtaining with h0 := { obtaining.h0 with phase := .verify, offered := some ([], src), offerBox := box, rejoin := r } }

theorem meets_BootImagesAreOfferedAndVerified :
    (accepts obtaining (.bootImage (rqOf (fields [(8, 0), (4, 64), (4, 0)]))) = true ∧ (obtaining.hub .h0).phase = .obtain ∧
      (hostRead obtaining .a 0 64).isSome = true) ∧
    (let s := { obtaining with dev := { obtaining.dev with role := 2 } }
     let u := { s with fab := { s.fab with worgon := [(11, { role := 1, trained := true })] } }
     let v := { obtaining with h1 := { obtaining.h1 with image := some { iface := 1, stateFmt := 1, svn := 3, digest := sha3Digest [] } } }
     ((u.hub .h0).phase = .obtain ∧ (u.hub .h0).offered = none ∧ u.dev.role = 2 ∧ 11 < 12 ∧ (u.worgon 11).role = 1 ∧
       (u.worgon 11).up = true) ∧
     (v.hub .h0).phase = .obtain ∧ (v.hub .h0).offered = none ∧ (v.hub Hub.h0.other).image.map (·.digest) = some (sha3Digest [])) ∧
    (let s := verifying .ownPort (some 3) none
     (s.hub .h0).offered = some ([], .ownPort) ∧ (s.hub .h0).phase = .verify ∧ (s.hub .h0).rejoin = none ∧
       (s.hub .h0).offerBox = some 3) ∧
    (let s := verifying .parent none none
     (s.hub .h0).offered = some ([], .parent) ∧ OfferSource.parent ≠ .ownPort ∧ (s.hub .h0).rejoin = none) ∧
    ((verifying .ownPort none (some rejoin0)).hub .h0).rejoin = some rejoin0 := by
  decide +kernel

theorem meets_ConfigurationDeliveryCompletes :
    (let s := { bareState with h0 := { bareState.h0 with phase := .configWait } }
     (accepts s (.configLoad (rqOf (loadBody 256))) = true ∧ s.dev.role ≠ 3 ∧ (hostRead s .a 0 256).isSome = true) ∧
       (s.hub .h0).phase = .configWait ∧ (s.hub .h0).phase ≠ .porHeld ∧ (s.hub .h0).cfgPtr < 256) ∧
    (2 ^ 31 + 256) % 512 ≤ 256 ∧ 2 ^ 31 ≤ 2 ^ 31 + 256 ∧
    ((bareState.hub .h0).phase ≠ .porHeld ∧ (bareState.hub .h0).phase ≠ .configWait) := by
  decide +kernel

theorem meets_FabricCommandsComplete :
    (accepts manager (.fabEnum (rqOf []) []) = true ∧ manager.tab.jobs.any (fun j => j.link.isSome) = false ∧
      manager.fab.linked = []) ∧
    (accepts manager (.fabStatus (rqOf (fields [(4, 2)])) []) = true ∧ (liveWorker manager 2).isSome = true) ∧
    accepts manager (.fabEvents (rqOf (fields [(4, 2)])) []) = true ∧
    accepts manager (.fabDoorbell (rqOf (fields [(4, 2), (4, 0), (8, 0)]))) = true ∧
    (accepts manager (.fabSeal (rqOf (fields [(4, 3)]))) = true ∧
      manager.fab.workers.any (fun w => w.lost && w.dev == 3) = true) ∧
    (let rq := rqOf (fields [(8, 10000), (8, 1), (8, 2), (8, 0)])
     accepts manager (.fabLaunch rq []) = true ∧
       (launchEntries (bodyOf rq)).all (fun e => e.1 == 0 || (liveWorker manager e.1).isSome) = true ∧
       manager.now.toNat + 10000 ≤ leAt (bodyOf rq) 0 8) := by
  decide +kernel

/-- The count of the lead is n. -/
def later (s : State) (n : Nat) : State := { s with h0 := { s.h0 with gcount := BitVec.ofNat 64 n } }

/-- Worgon port 0 in a role, its link up. -/
def linked (s : State) (role : Nat) : State := { s with fab := { s.fab with worgon := [(0, { role := role, trained := true })] } }

def pairing0 : Pairing := { peerJob := 1, port := 0, fromSerial := some 0, own := [], theirs := [] }

/-- Job 0 compared with a peer on port 0. -/
def paired : State :=
  { (linked busy 3) with tab := { busy.tab with jobs := [{ job0 with pair := some pairing0 }] } }

theorem meets_ForwardedAndLinkedAndPairedJobs :
    (let rq := rqOf (fields [(8, 2), (8, 0), (8, 0), (8, 0), (2, 0x32), (2, 4), (4, 0), (8, 0), (8, 0), (8, 0), (4, 0)])
     let page := (bodyOf rq).drop 0x20
     accepts manager (.fabForward rq []) = true ∧ (liveWorker manager 2).isSome = true ∧
       embeddedRefusal (takenBy manager 0x0082 rq) .a (leAt page 0 2) ((page.drop 0x20).take (leAt page 2 2)) = none) ∧
    (let rq := rqOf (fields [(8, 2), (8, 0), (8, 0), (8, 0), (2, 0x80), (2, 0), (4, 0), (8, 0), (8, 0), (8, 0)])
     let page := (bodyOf rq).drop 0x20
     accepts manager (.fabForward rq []) = true ∧
       embeddedRefusal (takenBy manager 0x0082 rq) .a (leAt page 0 2) ((page.drop 0x20).take (leAt page 2 2)) =
         some (stBadCmd, 0)) ∧
    (let s := { manager with tab := { manager.tab with jobs := [{ job0 with rjob := some 5 }] } }
     let rq := rqOf (fields [(1, 0), (1, 1), (2, 0), (4, 0)])
     accepts s (.fabLink rq []) = true ∧ linkFault s [] 0 (linkEntries (bodyOf rq)) = none) ∧
    (let s := linked busy 3
     let rq := rqOf (fields [(2, 0), (2, 1), (4, 0)])
     accepts s (.fabPair rq) = true ∧ findJob s 0 = some job0 ∧ (s.worgon 0).role = 3 ∧ job0.pair = none) := by
  decide +kernel

theorem meets_FabricEventsComplete :
    (findJob paired 0 = some { job0 with pair := some pairing0 } ∧ (paired.worgon 0).up = true ∧
      ∀ x ∈ paired.tab.jobs, x.id = 0 → x = { job0 with pair := some pairing0 }) ∧
    (findJob (later paired 10000000) 0 = some { job0 with pair := some pairing0 } ∧
      10000000 ≤ (later paired 10000000).since ((later paired 10000000).worgon 0).lastValid) ∧
    (let s := later manager 10000000
     (liveWorker s 2).isSome = true ∧ s.dev.role = 1 ∧ (liveWorker s 2).all (silent s) = true) ∧
    (let s := { bareState with dev := { bareState.dev with role := 2 }, fab := { bareState.fab with devNumber := 4 } }
     s.dev.role = 2 ∧ s.fab.devNumber ≠ 0 ∧ s.fab.enumerated = false ∧ ({ s.fab with enumerated := true }).enumerated = true) ∧
    ((linked bareState 2).worgon 0).up = true := by
  decide +kernel

theorem meets_RegisterWritesHaveTheirEffect :
    let s := { bareState with pa := { bareState.pa with evtSet := true, evtLog2 := 6, evtTail := 63 } }
    RegionsRespond s .a ∧ Responds s .a ∧ (s.port .a).evtSet = true ∧ 63 < 2 ^ (s.port .a).evtLog2 ∧
      ringDist (2 ^ (s.port .a).evtLog2) (s.port .a).evtHead 63 ≤ ringDist (2 ^ (s.port .a).evtLog2) (s.port .a).evtHead (s.port .a).evtTail ∧
      (fields [(4, 1)]).length = 4 ∧ bit (leNat (fields [(4, 1)])) 0 = true ∧ (s.hub .h1).phase ≠ .porHeld ∧
      ¬ (((fields [(2, 1)]).length = 4 ∨ (fields [(2, 1)]).length = 8) ∧ 0x100000 % (fields [(2, 1)]).length = 0) := by
  unfold RegionsRespond Responds; decide +kernel

theorem meets_Bar2AndGcountReadsComplete :
    let s := { bareState with far := { bareState.far with owners := [(0, 0xFFFF)] } }
    RegionsRespond s .a ∧ (s.far.group (0 % 2)).onLost (0 / 2) = false ∧ 4095 % 4096 + (zeros 1).length ≤ 4096 ∧
      s.tab.queues.any (fun q => q.cmds.any (·.touches (4095, 1, 0))) = false ∧ (s.port .a).farWindow.toNat * 2 ^ 32 + 4095 = 4095 ∧ bar2Reaches s .a (4095 / 4096 * 4096) = true ∧
      bar2Reaches bareState .a (4095 / 4096 * 4096) = false ∧ (s.port .a).linkUp = true ∧ (s.port .a).gcShadow = none ∧
      (({ s with pa := { s.pa with gcShadow := some 3 } } : State).port .a).gcShadow = some 3 := by
  unfold RegionsRespond Responds; decide

theorem meets_ResetAndSupplyInputsAct :
    (let s := { State.reset with h0 := { State.reset.h0 with phase := .porHeld } }
     let u := { s with h1 := { s.h1 with phase := .porHeld } }
     (s.hub .h0).phase = .porHeld ∧ (s.hub .h1).phase ≠ .porHeld ∧ (u.hub .h0).phase = .porHeld ∧ (u.hub .h1).phase = .porHeld) ∧
    (({ bareState with h0 := { bareState.h0 with phase := .railHold } } : State).hub .h0).phase = .railHold ∧
    ((bareState.hub .h0).phase ≠ .porHeld ∧ (bareState.hub .h0).phase ≠ .railHold) ∧
    (let s := { later bareState 1000000 with dev := { bareState.dev with lead := none, noLeadSince := some 0 } }
     s.dev.lead = none ∧ s.dev.noLeadSince = some 0 ∧ 1000000 ≤ s.since 0) := by
  refine ⟨⟨rfl, ?_, rfl, rfl⟩, ?_⟩
  · intro h; cases h
  · decide +kernel

theorem meets_PortsAndHubFaultsAct :
    (bareState.port .a).linkUp = true ∧ (bareState.port .b).linkUp = false ∧ (bareState.hub .h1).counting = true ∧
      bareState.dev.role ≠ 2 ∧ (bareState.hub .h0).svc = .inService ∧
      (({ bareState with h0 := { bareState.h0 with protCtrl := 8 } } : State).hub .h0).protCtrl.toNat / 4 % 4 = 2 ∧
      (bareState.hub .h0).protCtrl.toNat / 4 % 4 ≠ 2 := by
  decide

/-- Both hubs have their configuration, at two times. -/
def joining (a b : Nat) : State :=
  { State.reset with
    h0 := { phase := .locked, lockedAt := some a, svc := .rejoining }
    h1 := { phase := .locked, lockedAt := some b, svc := .rejoining } }

theorem meets_JoinAndPowerUpAct :
    ((joining 10000000 0).dev.lead = none ∧ (joining 10000000 0).h0.phase = .locked ∧ h0InTime (joining 10000000 0) = true) ∧
    ((joining 10000001 0).h1.phase = .locked ∧ h0InTime (joining 10000001 0) = false) ∧
    (let s := { bareState with h1 := { phase := .locked } }
     s.dev.lead = some .h0 ∧ (s.hub .h1).phase = .locked ∧ (s.hub .h1).powerUp = true ∧ (s.hub .h1).rejoin = none) ∧
    (let s := { joining 0 0 with h0 := { phase := .configWait }, record := { aonTicks := 10000000 } }
     s.dev.lead = none ∧ s.h1.lockedAt = some 0 ∧ s.h1.phase = .locked ∧ s.h0.phase ≠ .locked ∧ 0 + 10000000 ≤ s.record.aonTicks) := by
  decide +kernel

def sliced (k : Slice) : State := { bareState with dev := { bareState.dev with slices := [k] } }

theorem meets_SlicesAreSpacedAndBounded :
    ((sliced { kind := .farSwitch 3 }).dev.slices = { kind := .farSwitch 3 } :: [] ∧
      (sliced { kind := .farSwitch 3 }).dev.lastSliceEnd = none ∧ ({ kind := .farSwitch 3 } : Slice).abandons + 1 < 3) ∧
    bareState.dev.slices = [] ∧
    (let s := { later bareState 4999 with dev := { bareState.dev with lastSliceEnd := some 0, slices := [{ kind := .farSwitch 3 }] } }
     s.dev.slices = { kind := .farSwitch 3 } :: [] ∧ s.dev.lastSliceEnd = some 0 ∧ s.since 0 < 5000) ∧
    (let s := { later bareState 5000 with dev := { bareState.dev with lastSliceEnd := some 0 } }
     s.dev.lastSliceEnd = some 0 ∧ 5000 ≤ s.since 0) ∧
    (let k : Slice := { kind := .swap, box := some 1, abandons := 2 }
     (sliced k).dev.slices = k :: [] ∧ 3 ≤ k.abandons + 1 ∧ k.kind = .swap ∧ k.box = some 1) ∧
    (let k : Slice := { kind := .die 7, abandons := 2 }
     3 ≤ k.abandons + 1 ∧ k.kind = .die 7 ∧ k.byCommand = false) ∧
    (let k : Slice := { kind := .takeBack .h1, abandons := 2 }
     3 ≤ k.abandons + 1 ∧ k.kind = .takeBack .h1 ∧ k.box = none) := by
  decide +kernel

theorem meets_PowerControllerStepsStayInRange :
    (bareState.dev.lead ≠ none ∧ 2 ≤ bareState.pwr.kCap ∧ bareState.pwr.kCap ≤ 16) ∧
    (let s := { later bareState 10000 with dies := [(7, { hot := true, kTherm := 2 })] }
     (s.die 7).hot = true ∧ 10000 ≤ s.since (s.die 7).thermSince ∧ 2 ≤ (s.die 7).kTherm ∧ (s.die 7).kTherm ≤ 16) ∧
    (let s := { later bareState 100000 with dies := [(0, { cool := true })] }
     (s.die 0).hot = false ∧ (s.die 0).cool = true ∧ 100000 ≤ s.since (s.die 0).thermSince) := by
  decide +kernel

theorem meets_WellFormedCommandsAnswerANextState :
    Instr.wf (.sqTail .a 8191 0) = true ∧ Instr.wf (.taskPlace 511) = true ∧ Instr.wf (.fadd64 ⟨1, 0x8FFFFFFFF8⟩ 1) = true := by
  decide

theorem meets_CommandsNamingNoUnitStop :
    sensorWf 0x13 = false ∧ BeatPath.wf (.network 8) = false ∧ farWordWf 4 = false ∧ farWordWf 0x9000000000 = false ∧
      farBlockWf 0x9000000 = false := by
  decide

theorem meets_QueueDoorbellsMoveTheRings :
    (busy.port .a).linkUp = true ∧ (busy.hub Port.a.hub).inRom = false ∧ portDstate busy .a ≠ 0 ∧ (busy.hub Port.a.hub).svc ≠ .out ∧ servesMailboxes busy .a = true ∧ ideBlocks busy .a = false ∧
      takeoverDue busy = false ∧ findQueue busy 0 = some queue0 ∧ queue0.st ≠ .cancelled ∧
      (bit (0x10000000F : W64).toNat 32 || bit (0x10000000F : W64).toNat 33) = true ∧
      doorbellBad queue0 (.port .a) 0x10000000F = false ∧
      (bit (0x100000010 : W64).toNat 32 || bit (0x100000010 : W64).toNat 33) = true ∧
      doorbellBad queue0 (.port .a) 0x100000010 = true ∧
      (let s := { busy with dev := { busy.dev with slices := [{ kind := .takeover .h0 }] } }
       takeoverDue s = true ∧ portDstate s .a ≠ 0 ∧ (s.hub Port.a.hub).inRom = false ∧ ideBlocks s .a = false ∧
         servesMailboxes s .a = true) := by
  decide +kernel

theorem meets_RecordDieAndRegulatorFaultsAct :
    bareState.record.writable = true ∧ ({ bareState.record with writable := false } : RecordDie).writable = false ∧
      bareState.dev.lead = some .h0 ∧ 64 ≠ bareState.pwr.phases := by
  decide

theorem meets_CorePowerStatesMove :
    (let s := { later cores0 100000 with phys := [(575, { power := .park })] }
     (s.physCore 575).power = .park ∧ (s.physCore 575).waking = .no ∧ (s.physCore 575).logical = none ∧
       100000 ≤ s.since (s.physCore 575).since) ∧
    (({ cores0 with phys := [(575, { waking := .pll })] } : State).physCore 575).waking = .pll ∧
    (let s := { cores0 with phys := [(0, { power := .sleep, waking := .ready })] }
     nextEntry s 0 = some 0 ∧ (recentTurns s (s.die 0).wakes).length < s.pwr.wakeRate) ∧
    (let s := { cores0 with pwr := { cores0.pwr with wakeRate := 0 } }
     s.pwr.wakeRate ≤ (recentTurns s (s.die 0).wakes).length) ∧
    (let s := { cores0 with phys := [(3, { power := .run, leaving := some .park })] }
     (physOf 0).find? (fun p => (s.physCore p).power == .run && (s.physCore p).leaving.isSome) = some 3 ∧
       (recentTurns s (s.die 0).sleeps).length < s.pwr.wakeRate) ∧
    (let s := later bareState 1000
     (∀ p ∈ physOf 0, (s.physCore p).power ≠ .run ∧ (s.physCore p).power ≠ .park) ∧ 1000 ≤ s.since (s.die 0).netIdleSince) ∧
    (let s := later bareState 100000
     100000 ≤ s.since (s.stack 15).lastRequest ∧ (s.far.group (15 / 8)).rebuilding = false ∧
       100000 ≤ s.since (s.stack 19).lastRequest ∧
       (∀ d < 8, ∀ e ∈ (s.die d).cache, e.pins ≠ [] → ∀ n ∈ s.near.pieces, n.stack ≠ 19 - 16)) := by
  decide +kernel

theorem meets_SensorSamplesSetLevels :
    (let s := { bareState with pwr := { bareState.pwr with tThrottle := 95 } }
     tabGet 0 s.pwr.levels 0x12 = 0 ∧ dieLevel s.pwr.tThrottle (signed 16 (16 * 40)) = 0) ∧
    (16 * 115 ≤ signed 16 (16 * 115) ∧ tabGet 0 bareState.pwr.levels 0x3F < 4) := by
  decide

theorem meets_LinkLanesAndPortsMove :
    (let s := linked bareState 2
     (s.worgon 0).up = true ∧ (s.worgon 0).active.contains 0 = true ∧ (s.worgon 0).spare.isSome = true ∧ (s.worgon 0).width = 8 ∧
       (s.worgon 0).active.contains 8 = false ∧ (s.worgon 0).spare = some 8) ∧
    (({ bareState with fab := { bareState.fab with worgon := [(0, { retraining := some 8 })] } } : State).worgon 0).retraining = some 8 ∧
    (let s := { bareState with fab := { bareState.fab with worgon := [(0, { role := 1 }), (1, { role := 1, trained := true })] } }
     let u := { s with fab := { s.fab with activeUp := some 1 } }
     (s.worgon 0).up = false ∧ (s.hub (worgonHub 0)).counting = true ∧ (s.worgon 0).role = 1 ∧ s.fab.activeUp = none ∧
       (u.worgon 0).up = false ∧ u.fab.activeUp = some 1 ∧ (1 : Nat) ≠ 0 ∧ (u.worgon 1).up = true) ∧
    (({ bareState with fab := { bareState.fab with worgon := [(11, { role := 3 })] } } : State).worgon 11).role = 3 := by
  decide +kernel

/-! A job with a program of one entry, and a queue with a command of it. -/

/-- A handle on 4 KiB of far memory. -/
def bind0 (h base : Nat) : HandleBind :=
  { handle := h, place := 3, owner := 0, mirror := false, accum := false, accOp := 0, peer := 0, buddyBase := 0, base := base,
    word := none, length := 4096 }

/-- One phase on one limb axis, one scalar instruction a tile. -/
def phase0 : Phase :=
  { keyAxis := false, limbAxis := true, special := false, level := some 1, block := none, item := none, blockFirst := false, galois := 0,
    folds := false, fp0 := 64, fpBlock := 0, fpItem := 0, fpBoth := 0, slots := 1, prefetchRegion := 0, reserved := 0,
    weightPrefetch := false, deps := none, inPlace := false, sregs := [], binds := [], slotStep := 0, code := [.fenceSlot] }

def code0 : BodyEntry :=
  { offset := 0, batch := [], binds := [bind0 0 0x10000, bind0 1 0x20000, bind0 2 0x30000], phases := [phase0], preset := 0, consts := [],
    chain := none, rowDims := [], reuse := false }

def desc0 (h : Nat) : Desc := { (default : Desc) with handle := h, tKind := 1, tLog2n := 12, tLevel := 1, hdr := true, tUntied := true }

def program1 (op minCores : Nat) : Program :=
  { program0 with
    minCores := minCores
    entries := [{ (default : Entry) with opcode := op, numDst := 1, numSrc := 2 }]
    descs := [desc0 0, desc0 1, desc0 2]
    body := { decodes := true, entries := [code0] } }

/-- The job's queue holds one command, its group's cores are in service, its first extent of far memory is granted. -/
def running (c : Cmd) : State :=
  { cores0 with
    far := { cores0.far with owners := [(0, 0)] }
    tab := { cores0.tab with
      chains := [chain0], programs := [program1 opAdd 8]
      jobs := [{ job0 with progs := [0] }]
      queues := [{ queue0 with st := .running, outLimit := 4, cmds := [c] }] } }


/-- With the program's least group and opcode as given. -/
def runningOp (op minCores : Nat) (c : Cmd) : State :=
  { running c with tab := { (running c).tab with programs := [program1 op minCores] } }

def job1 : Job := { job0 with progs := [0] }

theorem meets_OperationsDispatchCheckAndRun :
    let queue1 := { queue0 with st := .running, outLimit := 4, cmds := [cmd0 1] }
    let s := running (cmd0 1)
    let p := program1 opAdd 8
    let u := runningOp opAdd 16 (cmd0 1)
    let v := program1 opAdd 16
    (∃ f, opEffect (.add 0) = some (0, opAdd, f)) ∧ servedEntry s 0 = some (queue1, cmd0 1, job1) ∧ (entryOf 1).cmd = 1 ∧
      (entryOf 1).bad = none ∧ runTarget s job1 (entryOf 1) = some (p, p.entries.getD 0 default, code0) ∧
      (p.entries.getD 0 default).opcode = opAdd ∧
      bindingFails (dispatched s queue1 (cmd0 1) job1 p (p.entries.getD 0 default) code0).1 p
        (dispatched s queue1 (cmd0 1) job1 p (p.entries.getD 0 default) code0).2 = false ∧
      servedEntry u 0 = some (queue1, cmd0 1, job1) ∧ runTarget u job1 (entryOf 1) = some (v, v.entries.getD 0 default, code0) ∧
      bindingFails (dispatched u queue1 (cmd0 1) job1 v (v.entries.getD 0 default) code0).1 v
        (dispatched u queue1 (cmd0 1) job1 v (v.entries.getD 0 default) code0).2 = true := by
  refine ⟨⟨_, rfl⟩, ?_⟩; decide +kernel

theorem meets_FlagCommandsAndNopComplete :
    (servedEntry (running (cmd0 4)) 0).isSome = true ∧
    (servedEntry (running { cmd0 4 with entry := { entryOf 4 with bad := some 5 } }) 0).isSome = true ∧
    (let s := { running (cmd0 1) with tab := { (running (cmd0 1)).tab with jobs := [job0] } }
     (servedEntry s 0).isSome = true ∧ runTarget s job0 (entryOf 1) = none) ∧
    setReady (running { cmd0 2 with phase := .running }) 0 = true ∧
    (setReady (running (cmd0 2)) 0 = false ∧ (servedEntry (running (cmd0 2)) 0).isSome = true) ∧
    (servedEntry (running (cmd0 3)) 0).isSome = true := by
  decide +kernel

/-- A wait in force that polls, with the limit of a flag timeout. -/
def waiting (limit value : Nat) : State :=
  running { cmd0 3 with phase := .waiting, polling := true, waitLimit := limit, entry := { entryOf 3 with flagValue := BitVec.ofNat 64 value } }

theorem meets_WaitsEndOrTimeOut :
    (let s := { bareState with far := { bareState.far with watches := [{ stack := 15, number := 0, addr := 0, threshold := 0, queue := 8191, due := true }] } }
     (s.far.watches.find? (fun w => w.stack == 15 && w.number == 0 && w.due)).isSome = true) ∧
    ((waitOf (waiting 0 0) 0).isSome = true ∧ 0 ≤ (farWord (waiting 0 0).far 0x2000).toNat ∧
      ∀ d ∈ (waiting 0 0).far.deltas, d.block ≠ 0x2000 / 4096) ∧
    (∃ d ∈ [({ block := 2, addr := 0, data := [1] } : Delta)], d.block = 0x2000 / 4096) ∧
    (waitOf (running { cmd0 3 with phase := .waiting }) 0).any (fun x => !x.2.polling) = true ∧
    ((waitOf (waiting 0 1) 0).isSome = true ∧ (farWord (waiting 0 1).far 0x2000).toNat < 1) ∧
    ((waitOf (later (waiting 1 1) 1000000) 0).isSome = true ∧ (waitTicks 1).any (fun t => decide (t ≤ (later (waiting 1 1) 1000000).since 0)) = true) := by
  decide +kernel

def claim0 : Claim := { claimIndex := 0, opSerial := 0, claimer := 0, die := 0, phase := 0, pre := false, attempt := 0 }

def tile0 (status : Nat) : Tile :=
  { claim := claim0, key := 0, limb := 0, cell := 0, item := 0, items := 1, blk := 0, blks := 1, status := status }

/-- A running command with one tile. -/
def tiled (status : Nat) : State := running { cmd0 1 with phase := .running, tiles := [tile0 status] }

theorem meets_CommandsCommitCompleteAndPost :
    ((findCmd (tiled 3) 0 0).any tilesDone = true ∧ (runOfCmd (tiled 3) 0 0).isSome = true ∧
      (findCmd (tiled 3) 0 0).all (fun c => !c.committed) = true ∧ accumsOf (tiled 3) 0 0 = []) ∧
    ((findQueue (tiled 3) 0).isSome = true ∧ (findJob (tiled 3) 0).isSome = true ∧ unacked (tiled 3) 0 0 = [] ∧
      (findCmd (tiled 3) 0 0).any (fun c => !c.blocks.any (fun b => (tiled 3).far.deltas.any (fun d => d.block == b.1)) &&
        !compares job1 c) = true) ∧
    (let j := { job1 with pair := some pairing0 }
     (findCmd (tiled 3) 0 0).any (fun c => compares j c && !compareHeld (tiled 3) j c) = true) ∧
    (owedRecord (running { cmd0 4 with phase := .completed }) 0).isSome = true ∧
    (findCmd (tiled 0) 0 0).any (fun c => c.phase == .running) = true := by
  decide +kernel

theorem meets_BoundaryCommandPrefetches :
    (let c := { cmd0 1 with entry := { entryOf 1 with fence := true } }
     (findQueue (running c) 0).isSome = true ∧ (findQueue (running c) 0).bind boundaryOf = some c ∧ c.early = false ∧ c.pieces = [] ∧
       (findQueue (running c) 0).all (fun q => q.st != .stalled) = true ∧ (runTarget (running c) job1 c.entry).isSome = true) ∧
    (let c := { cmd0 1 with entry := { entryOf 1 with fence := true }, early := true }
     (findQueue (running c) 0).bind boundaryOf = some c ∧ c.early = true) := by
  decide +kernel

def task0 (code : List CoreInstr) : Task := { job := 0, queue := 0, claim := claim0, code := code, bound := [] }

/-- Core 7 runs a task with the code given. -/
def tasked (code : List CoreInstr) : State := { tiled 2 with cores := [(7, { slots := [(0, task0 code)] })] }

def accum0 : Accum := { handle := 5, queue := 0, serial := 0, lowest := 0, bind := bind0 5 0 }

theorem meets_TasksAreClaimedPlacedAndEnded :
    ((runningOn (tiled 0) 7 0 0).isSome = true ∧ takesTasks (tiled 0) 7 = true ∧
      (runningOn (tiled 0) 7 0 0).all (fun x => decide (0 < x.2.body.phases.length) && !reissueWaits x.1 (dieOfCore 7)) = true ∧
      ((tiled 0).core 7).held.any (fun h => h.1 == 0 && h.2.opSerial == 0) = false) ∧
    (tabGet? ((tasked []).core 7).slots 0 = some (task0 []) ∧ taskEnded ((tasked []).core 7) 0 (task0 []) = true) ∧
    (tabGet? ((tasked [.fenceSlot]).core 7).slots 0 = some (task0 [.fenceSlot]) ∧
      taskEnded ((tasked [.fenceSlot]).core 7) 0 (task0 [.fenceSlot]) = false) ∧
    (let s := { tiled 3 with cores := [(7, { accums := [accum0] })] }
     (s.core 7).accums = [accum0] ∧ accum0.handle = 5 ∧ takesFrom s accum0 claim0 = true ∧ accum0.waiting = [] ∧
       (tilesOf s accum0.queue accum0.serial).any (fun t => t.claim.claimIndex == 0 && t.status == 3) = true) := by
  decide +kernel

def fold0 : FoldOp := { src := 1, acc := 5, slot := 0, chain := 0 }

theorem meets_CoreInstructionsIssue :
    (∃ k, issueKind (.nttFwdInstruction 7) = some (7, k) ∧ k (.nttFwd default) = true ∧ k .fenceSlot = false) ∧
      issuing (tasked [.nttFwd default]) 7 = some (0, task0 [.nttFwd default], .nttFwd default) ∧
      issuing (tasked [.fenceSlot]) 7 = some (0, task0 [.fenceSlot], .fenceSlot) ∧
      issuing (tasked [.fold fold0]) 7 = some (0, task0 [.fold fold0], .fold fold0) := by
  refine ⟨⟨_, rfl, rfl, rfl⟩, ?_⟩; decide +kernel

theorem meets_EventsFencesAndScalarsIssue :
    issuing (tasked [.wait 3 0]) 7 = some (0, task0 [.wait 3 0], .wait 3 0) ∧
      issuing (tasked [.fenceKey]) 7 = some (0, task0 [.fenceKey], .fenceKey) ∧
      issuing (tasked [.signal 3]) 7 = some (0, task0 [.signal 3], .signal 3) ∧
      issuing (tasked [.scalar .loopEnd]) 7 = some (0, task0 [.scalar .loopEnd], .scalar .loopEnd) ∧
      (let s := later (tasked [.wait 3 1]) 10000000
       tabGet? (s.core 7).slots 0 = some (task0 [.wait 3 1]) ∧ nextInstr (task0 [.wait 3 1]) = some (.wait 3 1) ∧
         (eventCount (s.core 7) 3).toNat < 1 ∧ 10000000 ≤ s.since (task0 [.wait 3 1]).waitSince) ∧
      (let s := later (tasked [.wait 3 1]) 9999999
       s.since (task0 [.wait 3 1]).waitSince < 10000000) := by
  decide +kernel

def flight0 (i : CoreInstr) (target : Nat) (started : Bool) : InFlight :=
  { id := 4, slot := 0, target := target, started := started, reads := [], writes := [], instr := i, scalars := [], lvl2 := 2, claim := claim0 }

/-- A stream of four words from the base of a handle. -/
def words4 (h : Nat) : Desc :=
  { (default : Desc) with handle := h, dims := [{ extent := 4, src := 0, arg := 0, lvlStride := false, stride := 4, alloc := 4 }] }

def move0 (pq : Nat) : DmaOp :=
  { pq := pq, src := words4 0, dst := words4 2, slot0 := 0, batch0 := .fixed 1, batch1 := .fixed 1 }

/-- A check word that is not 0 and not c. -/
def otherThan (c : W32) : W32 := if c = 1 then 2 else 1

/-- Core 7 moves a block of its own scratchpad to far memory. The block is whole, and fails its check when `good` is false; the
command's done tile made it. -/
def moving (good : Bool) : State :=
  let p := program1 opAdd 8
  let code : CoreInstr := .dma { move0 0 with src := words4 2, dst := words4 0 }
  let phase : Phase := { phase0 with code := [code], binds := [{ bind0 0 0 with place := 0, base := 0 }] }
  let s := tiled 3
  let t : Tile := { tile0 3 with core := 7 }
  { s with
    tab := { s.tab with
      programs := [{ p with body := { p.body with entries := [{ code0 with phases := [phase] }] } }]
      queues := s.tab.queues.map (fun q => { q with cmds := q.cmds.map (fun c => { c with tiles := [t] }) }) }
    cores := [(7, { slots := [(0, task0 [])], flight := [flight0 (.dma (move0 0)) 3 true]
                    handles := [(0, { valid := true, length := 4096 })]
                    side := [(0, if good then crc32c (memReadN [] 0 4096) else otherThan (crc32c (memReadN [] 0 4096)))] })] }

def movingIssue (good : Bool) : Issue :=
  { core := 7, task := task0 [], sregs := [], lvl2 := 2, run := runOfTask (moving good) (task0 [])
    racy := false || racesNow (moving good) 7 (flight0 (.dma (move0 0)) 3 true) }


theorem moving_extents (good : Bool) : ((movingIssue good).of (.dma (move0 0))).shared (moving good) [words4 0] (words4 2) 0 (0,0) = [4,1,1,1,1,1] := by
  cases good <;> decide +kernel
theorem moving_items (good : Bool) : ((movingIssue good).of (.dma (move0 0))).items (.fixed 1) (.fixed 1) = [(0,0)] := by
  cases good <;> decide +kernel
theorem moving_view (good : Bool) : ((movingIssue good).of (.dma (move0 0))).view (moving good) 0 = { place := 0, core := 7, base := 0, length := 4096 } := by
  cases good <;> rfl
theorem moving_run (good : Bool) : ((instrRun (movingIssue good) (.dma (move0 0)) (moving good)).map (·.items)).getD [] = ([(0,0)].filterMap (dmaItem ((movingIssue good).of (.dma (move0 0))) (move0 0) (moving good))) := by
  have e : (move0 0).batch0 = .fixed 1 ∧ (move0 0).batch1 = .fixed 1 := ⟨rfl, rfl⟩
  simp only [instrRun, e, moving_items, Option.map, Option.getD]
theorem moving_blocks (good : Bool) : View.blocks { place := 0, core := 7, base := 0, length := 4096 } (storeDesc (words4 0)).width
    (elemOffsets (storeDesc (words4 0)) (((movingIssue good).of (.dma (move0 0))).lvlOf (moving good) false (storeDesc (words4 0)) (0, 0))
      (readExtents (storeDesc (words4 0)) (padded (storeDesc (words4 0)) [] 0 [4, 1, 1, 1, 1, 1])) 0 0) = [0] := by
  cases good <;> decide +kernel
theorem moving_sources (good : Bool) :
    (movingIssue good).lostSources (.dma (move0 0)) (moving good) =
      (([0] : List Nat).filter (scratchLost (moving good) 7)).map (fun b => (7, b)) := by
  rw [Issue.lostSources, moving_run]
  generalize hx : (movingIssue good).of (.dma (move0 0)) = x
  have h1 := moving_extents good; have h2 := moving_view good; have h3 := moving_blocks good
  rw [hx] at h1 h2 h3
  have e : (move0 0).src = words4 0 ∧ (move0 0).dst = words4 2 := ⟨rfl, rfl⟩
  have e0 : (words4 0).handle = 0 := rfl
  have e1 : (storeDesc (words4 0)).handle = 0 := rfl
  simp only [List.filterMap, dmaItem, e, h1]
  rw [if_neg (by decide)]
  simp only [Issue.access, e0, e1, h2, bne_self_eq_false, Bool.false_and, Bool.false_eq_true, if_false]
  simp only [List.flatMap_cons, List.flatMap_nil, List.append_nil, h3, Nat.zero_lt_succ, if_true]

theorem moving_lost (good : Bool) : scratchLost (moving good) 7 0 = !good := by
  have h (c : W32) : (c == otherThan c) = false ∧ (otherThan c != 0) = true := by
    unfold otherThan; split
    · subst_vars; decide
    · simp_all
  have e1 : tabGet 0 ((moving good).core 7).side 0 =
      if good then crc32c (memReadN [] 0 4096) else otherThan (crc32c (memReadN [] 0 4096)) := by
    have e : ((moving good).core 7).side = [(0, if good then crc32c (memReadN [] 0 4096) else otherThan (crc32c (memReadN [] 0 4096)))] := rfl
    rw [e]; generalize (if good then crc32c (memReadN [] 0 4096) else otherThan (crc32c (memReadN [] 0 4096))) = v; rfl
  have e2 : scratchCopy (moving good) 7 0 = none := by cases good <;> decide +kernel
  have e3 : tabGet? ((moving good).core 7).sideBad 0 = none := by cases good <;> decide +kernel
  have e4 : ((moving good).core 7).scratch = [] := by cases good <;> rfl
  simp only [scratchLost, scratchBlock, e1, e2, e3, e4, blockBytes, Nat.zero_mul, Option.isNone_none, Bool.true_and, Bool.and_true]
  generalize crc32c (memReadN [] 0 4096) = c
  cases good
  · simpa [h] using (h c).2
  · simp

theorem moving_makers (good : Bool) : ((movingIssue good).lostSources (.dma (move0 0)) (moving good)).flatMap (makersOf (moving good)) =
    if good then [] else [(0, 0, 0)] := by
  rw [moving_sources, List.filter_cons, moving_lost]
  cases good
  · decide +kernel
  · rfl
def fold1 : WaitingFold := { claim := claim0, data := [], dataOk := true, prime := 0, fromCore := 7, fromHandle := 1 }

theorem meets_InstructionsAndFoldsComplete :
    (∀ good, ((movingIssue good).lostSources (.dma (move0 0)) (moving good)).flatMap (makersOf (moving good)) =
      if good then [] else [(0, 0, 0)]) ∧
    (let c : CoreCtx := { slots := [(0, task0 [])], flight := [flight0 (.nttFwd default) 0 true] }
     c.flight.find? (fun f => f.id == 4 && f.started && f.target != 4) = some (flight0 (.nttFwd default) 0 true) ∧
       tabGet? c.slots 0 = some (task0 [])) ∧
    fenced (moving true) 7 = false ∧
    fenced ((moving true).updPhys 7 (fun c => { c with fencing := true })) 7 = true ∧
    ((moving true).core 7).flight.find? (fun f => f.id == 4 && f.started && f.target != 4) =
      some (flight0 (.dma (move0 0)) 3 true) ∧
    (let d : DmaOp := { (default : DmaOp) with pq := 15 }
     let c : CoreCtx := { slots := [(0, task0 [])], flight := [flight0 (.dma d) 3 false] }
     c.flight.find? (fun f => onQueue 15 f && !f.started) = some (flight0 (.dma d) 3 false) ∧
       queueTurn c = some 15 ∧ queueTurn c ≠ some 14) ∧
    (let a := { accum0 with waiting := [fold1] }
     let s := { tiled 2 with cores := [(7, { accums := [a] })] }
     (s.core 7).accums.findSome? (fun a => if a.handle = 5 then
       (a.waiting.find? (fun w => takesFrom s a w.claim && foldReady a w)).map (fun w => (a, w)) else none) = some (a, fold1)) := by
  refine ⟨moving_makers, ?_⟩; decide +kernel

/-- Every watch of one controller in use. -/
def watchedOut : State :=
  { bareState with far := { bareState.far with watches := (List.range 1024).map (fun n =>
      { stack := controllerOf bareState.far 0, number := n, addr := 8, threshold := 0, queue := 0 }) } }

theorem meets_MemorySideOperationsActOnWords :
    ((0 : BitVec 4).toNat = 0 ∧ 5 ≤ (15 : BitVec 4).toNat) ∧ farWordWf 0x8FFFFFFFF8 = true ∧ (bareState.far.group (0x8FFFFFFFF8 / 4096 % 2)).onLost (0x8FFFFFFFF8 / 4096 / 2) = false ∧
      farWordWf 0 = true ∧ watched bareState 0 0 = false ∧ freeWatch bareState (controllerOf bareState.far 0) = some 0 ∧
      watched watchedOut 0 0 = false ∧ freeWatch watchedOut (controllerOf watchedOut.far 0) = none ∧
      (running { cmd0 1 with phase := .running }).tab.queues.any (fun q => q.cmds.any (·.touches (0, 8, 0))) = false := by
  refine ⟨by decide, by decide, by decide, by decide, by decide, by decide +kernel, ?_, ?_, by decide +kernel⟩
  · simp [watched, watchedOut]
  · have h : (watchedOut.far.watches.filter (fun w => w.stack == controllerOf watchedOut.far 0)).map (·.number) = List.range 1024 := by
      rw [List.filter_eq_self.mpr]
      · simp only [watchedOut, List.map_map]
        exact List.map_id _
      · intro w hw
        simp only [watchedOut, List.mem_map] at hw
        obtain ⟨n, _, rfl⟩ := hw
        rfl
    rw [freeWatch, h, lowestFree, List.find?_eq_none]
    intro n hn
    have := List.mem_range.mp hn
    simpa [watchMax] using this

def tagged (t : BlockTag) : State := { bareState with far := { bareState.far with tags := [(0x8FFFFFF, t)] } }

theorem meets_FarBlocksAreReadWrittenAndScrubbed :
    (bareState.far.tag 0x8FFFFFF).st = .never ∧
    (let s := tagged { st := .checked, check := crc32c (bareState.far.stored 0x8FFFFFF) }
     (s.far.tag 0x8FFFFFF).st = .checked ∧ (s.far.group 1).onLost (0x8FFFFFF / 2) = false ∧
       crc32c (s.far.stored 0x8FFFFFF) = (s.far.tag 0x8FFFFFF).check) ∧
    (let s := tagged { st := .checked, check := crc32c (bareState.far.stored 0x8FFFFFF) + 1 }
     crc32c (s.far.stored 0x8FFFFFF) ≠ (s.far.tag 0x8FFFFFF).check) ∧
    (4095 + (zeros 1).length ≤ 4096 ∧ (bareState.far.group 1).parityKept (0x8FFFFFF / 2) = true) ∧
    (let d : Delta := { block := 0, addr := 0, data := [1] }
     ({ bareState.far with deltas := [d] } : FarTier).deltas[0]? = some d) ∧
    ((bareState.stack (stackOfBlock bareState.far 0)).selfRefresh = false ∧ (readWords bareState.far 0 [(511, 1)]).failed = 0) := by
  refine ⟨rfl, ⟨rfl, ?_, rfl⟩, ?_, ?_, rfl, rfl, ?_⟩
  · decide +kernel
  · have h : ∀ x : W32, x ≠ x + 1 := by
      intro x h
      have h1 := congrArg BitVec.toNat h
      have h2 := x.isLt
      rw [BitVec.toNat_add] at h1
      have h3 : (1 : W32).toNat = 1 := rfl
      omega
    exact h _
  · decide +kernel
  · decide +kernel

def piece0 : PieceId := { caddy := 0, key := 0, digit := 0, limb := 0 }
def item0 : SendItem := { piece := piece0, cls := 1, prio := 0, order := 0, need := 0, queue := 0, serial := 0 }
def cached (ready : Bool) : DieState := { cache := [{ piece := piece0, tag := 0, ready := ready }], keep := [piece0] }

theorem meets_KeyPiecesAreSentKeptAndReady :
    (let s := { bareState with key := { bareState.key with sendList := [item0] } }
     s.near.rootOut.contains .h0 = false ∧ firstItem (s.key.sendList.filter (fun i => rootOf s i.piece == .h0)) = some item0) ∧
    firstItem (bareState.key.sendList.filter (fun i => rootOf bareState i.piece == .h0)) = none ∧
    (let s := { busy with key := { busy.key with flight := [(7, piece0)] } }
     let e : KeyEntry := { kkind := 1, log2n := 2, digits := 1, limbs := 1, galois := 0, offset := 0, seed := [] }
     let u := { s with
       dies := [(7, { keep := [piece0] })], tab := { s.tab with caddies := [{ caddy0 with st := .resident, keys := [e] }] } }
     (s.key.flight.contains (7, piece0) = true ∧ (s.die 7).keep.contains piece0 = false) ∧
       u.key.flight.contains (7, piece0) = true ∧ (u.die 7).keep.contains piece0 = true ∧
       (u.die 7).cache.any (fun e => e.piece == piece0) = false ∧ (findCaddy u 0).any (fun c => c.keys[0]? == some e) = true ∧
       (findCaddy u 0).all (fun c => (keepPiece u 7 piece0 c e false).isSome) = true) ∧
    (({ bareState with dies := [(7, cached false)] } : State).die 7).cache.any (fun e => e.piece == piece0 && !e.ready) = true := by
  decide +kernel

def packet0 : AccPacket :=
  sealPacket { rjob := 63, srcDev := 0, srcDie := 7, aop := aopMerge, q := 0, dstAddr := 0, seq := 4095, pcheck := 0, claim := claim0,
               phcrc := 0, payload := [] }

def accepting : State := { busy with tab := { busy.tab with jobs := [{ job0 with rjob := some 63 }] } }

def sent0 : OutPacket := { stack := 0, packet := packet0, queue := 0, serial := 0 }

theorem meets_AccumulatePacketsAreTakenOnce :
    packetIntact { packet0 with pcheck := packet0.pcheck + 1 } = false ∧
    (packetIntact packet0 = true ∧ acceptingJob busy packet0 = none ∧ (acceptingJob accepting packet0).isSome = true) ∧
    (let w := windowOf accepting (packetStack accepting packet0.dstAddr) packet0
     w.isSealed = false ∧ accepting.fab.workers.any (fun x => x.dev == packet0.srcDev && x.lost) = false ∧
       (packet0.seq + 2 ^ 32 - w.floor.toNat) % 2 ^ 32 < 4096 ∧ w.map.getLsbD (packet0.seq % 4096) = false ∧ packet0.aop = aopMerge) ∧
    (let p := { packet0 with seq := 2 ^ 32 - 1 }
     2 ^ 31 ≤ (p.seq + 2 ^ 32 - (windowOf accepting 0 p).floor.toNat) % 2 ^ 32) ∧
    (let s := { bareState with dies := [(7, { sent := [sent0] })] }
     sentPacket s 7 63 0 4095 = some sent0 ∧ 2000000 ≤ (later s 2000000).since sent0.lastSent ∧
       (later s 1999999).since sent0.lastSent < 2000000) := by
  decide +kernel

theorem meets_PathsLanesAndCoresFail :
    (BeatPath.wf (.network 7) = true ∧ beatCorrection (.network 7) 3 = .uncorrectable ∧ pathStack (.network 7) = none ∧
      resends bareState (.network 7) < 8) ∧
    BeatPath.wf (.nearStack 3) = true ∧ beatCorrection (.sram 575) 3 = .uncorrectable ∧
    beatCorrection (.worgonLane 11) 0 = .uncorrectable ∧
    (let s := { bareState with dev := { bareState.dev with pathRetries := [(.farStack 15, 8, 0)] } }
     BeatPath.wf (.farStack 15) = true ∧ beatCorrection (.farStack 15) 3 = .uncorrectable ∧ 8 ≤ resends s (.farStack 15)) ∧
    ((cores0.physCore 7).st = .serving ∧ (cores0.physCore 7).fencing = false ∧
      lanesUsed (cores0.physCore 7) .mxa < laneSpares .mxa ∧ (cores0.physCore 7).logical = some 7) ∧
    ((cores0.physCore 71).st = .spare ∧ (cores0.physCore 71).fencing = false ∧
      lanesUsed (cores0.physCore 71) .ntt < laneSpares .ntt ∧ (cores0.physCore 71).logical = none) ∧
    laneSpares .mxa ≤ lanesUsed ({ mxaUsed := 4 } : PhysCore) .mxa ∧
    (let s := cores0.updPhys 7 (fun c => { c with fencing := true })
     (s.physCore 7).logical = some 7 ∧ (s.physCore 7).fencing = true) ∧
    (cores0.die 0).powered = true := by
  decide +kernel

theorem meets_StacksIslandsAndDiesAreLost :
    ((cores0.die 0).powered = true ∧ (cores0.die 0).lost = false ∧ (cores0.die 0).islandLost = false) ∧
    ({ islandLost := true } : DieState).islandLost = true ∧
    (let s := { bareState with far := { bareState.far with g1 := { st := .degraded, lost := [7] } } }
     (s.far.group (15 / 8)).lost.contains (15 % 8) = true ∧ (s.far.group (14 / 8)).lost.contains (14 % 8) = false ∧
       (s.far.group 1).rebuilding = true ∧ survivorSleeps s 1 = false ∧ (s.far.group 1).watermark + 6 < 75497472 ∧
       (s.far.group 0).rebuilding = false) ∧
    bareState.near.lost.contains 3 = false ∧
    (let s := { bareState with near := { bareState.near with toPlace := true, lost := [0, 1, 2, 3] } }
     let u := { bareState with near := { bareState.near with toPlace := true, trained := true } }
     s.near.toPlace = true ∧ nearStacks s = [] ∧ u.near.toPlace = true ∧ nearStacks u ≠ []) := by
  decide +kernel

theorem meets_StepKeepsMemoriesCanonical :
    memoriesWf (withHost bareState [(1, 3), (9, 1)]) = true ∧ ∃ t, step (withHost bareState [(1, 3), (9, 1)]) = .next t :=
  ⟨by decide, _, rfl⟩

theorem meets_QueuedCommandsRunInOrderWithoutAStop :
    ({ bareState with pending := [.taskPlace 511, .hubJoin] } : State).pending.all Instr.wf = true := by decide

theorem meets_CoefficientAutomorphismMovesAndNegates :
    3 % 2 = 1 ∧ 3 < 2 ^ (2 + 1) ∧ 3 * 3 % 2 ^ (2 + 1) = 1 % 2 ^ (2 + 1) ∧ ([1, 2, 3, 16] : List Nat).length = 2 ^ 2 ∧
      ∀ x ∈ ([1, 2, 3, 16] : List Nat), x < 17 := by decide

theorem meets_NotifyingRecordSendsOneMessage :
    let s := running { cmd0 4 with phase := .completed }
    let u := { s with tab := { s.tab with queues := s.tab.queues.map (fun q => { q with intr := false }) } }
    ((owedRecord s 0).any (fun x => x.1.intr && x.1.home == .port .a && x.2.entry.notify && x.2.compared) = true) ∧
      (owedRecord u 0).any (fun x => !x.1.intr && x.2.compared) = true ∧
      ((s.port .a).vector 1).masked = true ∧
      (({ linkUp := true, msixPending := 2 } : PortState).msixPending.getLsbD 1 = true) ∧
      (({ linkUp := true, msix := [(1, { addr := 64, data := 3, masked := false })] } : PortState).vector 1).masked = false := by
  decide +kernel

theorem meets_ElementWiseOperationsComputeModQ : ([97, 193] : List Nat)[1]? = some 193 ∧ 3 < 4 ∧ 0 < 193 := by decide

/-! Well-formedness: one ill-formed command for each check, which the check refuses. -/

theorem ill_formed_requests_and_numbers_refused :
    (Instr.getInfo { rqOf [] with box := 64 }).wf = false ∧
    (Instr.getInfo { rqOf [] with bodyLen := 2 ^ 16 }).wf = false ∧
    (Instr.programLoad { rqOf [] with box := 64 } body0).wf = false ∧
    (Instr.sqTail .a 8192 0).wf = false ∧ (Instr.cqHead .b 8192 0).wf = false ∧ (Instr.nop 8192).wf = false ∧
    (Instr.accumulatorCommit 8192 0).wf = false ∧ (Instr.commandAbort 8192 0 1).wf = false ∧
    (Instr.taskPlace 512).wf = false ∧ (Instr.claim 512 0 0 0).wf = false ∧ (Instr.claim 0 8192 0 0).wf = false ∧
    (Instr.coreFault 576).wf = false ∧ (Instr.laneFault 576 .mxa).wf = false ∧
    (Instr.linkLaneFail 0 9).wf = false ∧ (Instr.selfRefreshEntry 20).wf = false ∧ (Instr.workerLossTimeout 256).wf = false ∧
    (Instr.sensorSample 0x13 0).wf = false ∧ (Instr.sensorSample 0x24 0).wf = false ∧ (Instr.sensorSample 0x40 0).wf = false ∧
    (Instr.bar2Read .a (2 ^ 32 - 3) 4).wf = false ∧ (Instr.bar2Write .a (2 ^ 32) [0]).wf = false ∧
    (Instr.registerWrite (.bar0 .b) (2 ^ 21 - 1) [0, 0]).wf = false ∧ (Instr.registerWrite (.sideband .h0) 256 [0]).wf = false := by
  decide

theorem ill_formed_long_request_refused : (Instr.getInfo { rqOf [] with body := List.replicate 4065 0 }).wf = false := by
  decide +kernel

theorem ill_formed_tree_refused :
    (Instr.fabEnum (rqOf [])
      (List.replicate 256 { parent := 0, parentPort := 0, upPort := 0, twoUp := false, consistent := true })).wf = false := by
  decide +kernel

theorem ill_formed_paths_refused :
    (Instr.beatError ⟨(.network 8), 0⟩).wf = false ∧ (Instr.beatError ⟨(.bridge 3 3), 0⟩).wf = false ∧
    (Instr.beatError ⟨(.bridge 0 8), 0⟩).wf = false ∧ (Instr.beatError ⟨(.hubToDie 2 0), 0⟩).wf = false ∧
    (Instr.beatError ⟨(.hubToDie 0 8), 0⟩).wf = false ∧ (Instr.beatError ⟨(.farStack 16), 0⟩).wf = false ∧
    (Instr.beatError ⟨(.nearStack 4), 0⟩).wf = false ∧ (Instr.beatError ⟨(.worgonLane 12), 0⟩).wf = false := by
  decide

theorem ill_formed_packets_refused :
    (Instr.accumulatePacket { packet0 with rjob := 256 }).wf = false ∧
    (Instr.accumulatePacket { packet0 with srcDev := 256 }).wf = false ∧
    (Instr.accumulatePacket { packet0 with srcDie := 16 }).wf = false ∧
    (Instr.accumulatePacket { packet0 with aop := 16 }).wf = false ∧
    (Instr.mergeHdr { packet0 with seq := 2 ^ 32 }).wf = false := by
  decide +kernel

theorem ill_formed_long_packet_refused :
    (Instr.mergeHdr { packet0 with payload := List.replicate 4097 0 }).wf = false := by
  decide +kernel

theorem ill_formed_far_places_refused :
    (Instr.fadd64 ⟨1, 4⟩ 0).wf = false ∧ (Instr.set64 0x9000000000 0).wf = false ∧ (Instr.watch64 4 0 0).wf = false ∧
    (Instr.watch64 0 0 8192).wf = false ∧ (Instr.scrub 0xE800000 []).wf = false ∧ (Instr.scrub 0 [(3591, 1)]).wf = false ∧
    (Instr.farBlockRead 0 [(512, 1), (3591, 1)] none).wf = false ∧ (Instr.farBlockRead 0x9000000 [] none).wf = false ∧
    (Instr.farBlockWrite 0 4095 [0, 0]).wf = false ∧ (Instr.farBlockWrite 0x9000000 0 []).wf = false := by
  decide

theorem well_formed_at_the_boundaries :
    (Instr.getInfo { rqOf [] with box := 63 }).wf = true ∧ (Instr.claim 511 8191 0 0).wf = true ∧
    (Instr.coreFault 575).wf = true ∧ (Instr.linkLaneFail 11 8).wf = true ∧ (Instr.sensorSample 0x12 0).wf = true ∧
    (Instr.sensorSample 0x3F 0).wf = true ∧ (Instr.scrub 0x8FFFFFF [(512, 1)]).wf = true ∧
    (Instr.watch64 0x8FFFFFFFF8 0 0).wf = true ∧ (Instr.bar2Read .a (2 ^ 32 - 4) 4).wf = true ∧
    (Instr.registerWrite (.sideband .h1) 255 [0]).wf = true ∧ (Instr.registerWrite (.bar0 .b) (2 ^ 21 - 4) (zeros 4)).wf = true := by
  decide

/-! No row of the table gives bits: no word spells a command. -/

theorem decode_spells_no_command : decodeTableWord 0 0 = none ∧ decodeTableWord 32 0xFFFFFFFF = none := ⟨rfl, rfl⟩

/-! Worked examples of the manual. -/

/-- The worked example below R296: far address 0x0012_3456_7000 lies on F13 at row 1,363,481, its parity on F9. -/
theorem test_far_address_map :
    let b := 0x001234567000 / 4096
    b = 19088743 ∧ b % 2 = 1 ∧ b / 2 = 9544371 ∧
      oldPlace 9544371 = { reformed := false, row := 1363481, stack := 5, parity := 1 } := by
  decide

/-- The table Galois elements and index maps at N = 2^16 below R112. -/
theorem test_galois_table :
    rotationElement 65536 1 = 5 ∧ rotationElement 65536 3 = 125 ∧
      galoisIndex 16 5 0 = 16384 ∧ galoisIndex 16 5 1 = 16385 ∧ galoisIndex 16 125 0 = 31744 ∧ galoisIndex 16 125 1 = 31745 ∧
      galoisIndex 16 131071 0 = 65535 ∧ galoisIndex 16 131071 1 = 65534 := by
  decide +kernel

/-- The worked example below R140: the tree gives 2.0 where a sum from left to right gives 1.0. -/
theorem test_reduce_tree :
    treeSum fp32.add [0x3F800000, 0x4B800000, 0x3F800000, 0xCB800000, 0x3F800000] = some 0x40000000 := by
  decide +kernel

/-- The worked example below R368: the offset is 98 ticks and the delay 15; at enumeration the count becomes t3 + 15. -/
theorem test_gcount_stamps :
    syncOffset 1000000 1000113 1000140 1000057 = 98 ∧ syncDelay 1000000 1000113 1000140 1000057 = 15 ∧
      (match execGcountSync 1000000 1000113 1000140 1000057
          { bareState with dev := { bareState.dev with role := 2 }, fab := { bareState.fab with devNumber := 5 } } with
        | .next t => t.h0.gcount == 1000155
        | _ => false) = true := by
  decide +kernel

/-- The worked example below R507: the high read returns the half latched by the low read, 7 ticks before. -/
theorem test_gcount_shadow :
    (match execGcountLowRead .a { bareState with h0 := { bareState.h0 with gcount := 0x3FFFFFFFE } } with
      | .next t =>
        (t.port .a).lastRead == leBytes 4 0xFFFFFFFE &&
          (match execGcountHighRead .a { t with h0 := { t.h0 with gcount := 0x400000005 } } with
            | .next u => (u.port .a).lastRead == leBytes 4 3 && (u.port .a).gcShadow == none
            | _ => false)
      | _ => false) = true := by
  decide +kernel

/-- The worked example of chapter 02: the first bytes of the header of a CE-6 activation. -/
theorem test_header_bytes :
    hdrOf [0x43, 0x4C, 1, 1, 0x10, 0x18, 0, 3, 0xD1, 0x44, 0x20, 0x9B, 0x3E, 0x0C, 0x17, 0x5A, 7, 0, 2, 0x0F, 0, 0x32, 0, 0] =
      { kind := 1, log2n := 16, level := 24, state := hValid, cause := cNone, domain := 1, bcmode := 1,
        tag := 0x5A170C3E9B2044D1, chain := 7, layout := 2, slotsLog2 := 15, scale := 12800 } := by
  decide +kernel

/-- The CRC of R304's parameters over the ASCII digits 1 to 9, the check value that CRC-32C is published with. -/
theorem test_crc32c : crc32c [0x31, 0x32, 0x33, 0x34, 0x35, 0x36, 0x37, 0x38, 0x39] = 0xE3069283 := by
  decide +kernel

/-- R313: Gen1 to Gen6, widths 8, 4, 2 and 1; requests of at most 4,096 bytes. -/
theorem test_link_rates_and_read_limit :
    (Instr.portUp ⟨.a, 1, 1⟩).wf = true ∧ (Instr.portUp ⟨.b, 6, 8⟩).wf = true ∧ (Instr.portUp ⟨.a, 7, 8⟩).wf = false ∧
    (Instr.portUp ⟨.a, 0, 4⟩).wf = false ∧ (Instr.portUp ⟨.a, 6, 3⟩).wf = false ∧ trainsTo 6 2 = true ∧ trainsTo 5 4 = true ∧
    trainsTo 6 16 = false ∧ ¬ 4096 < 4096 ∧ 0 + 4097 ≤ 2 ^ 32 ∧ 4096 < 4097 ∧ pcieFeatures.maxRead = 4096 ∧
    (State.reset.port .a).linkLanes = 0 := by
  decide

end Sys2Proof.Tests
end

section
/-! SUPPORT. The mailbox commands of the chain table: what CHAIN_LOAD and CHAIN_UNLOAD read and change of a state that
has taken their request. -/

namespace Sys2Proof.Machine

open Sys2Proof

/-! A request taken in its mailbox, and a change of the tables or of the device state. -/

theorem takenBy_updTab (s : State) (c : Nat) (rq : MbxReq) (f : Tables → Tables) :
    (takenBy s c rq).updTab f = takenBy (s.updTab f) c rq := by
  simpa [State.updTab] using takenBy_with_tab s c rq (f s.tab)

theorem takenBy_updDev (s : State) (c : Nat) (rq : MbxReq) (f : DevState → DevState) :
    (takenBy s c rq).updDev f = takenBy (s.updDev f) c rq := by
  simpa [State.updDev] using takenBy_with_dev s c rq (f s.dev)

/-- An accepted request whose handler answers at once: the response in the state the handler leaves. -/
theorem mailbox_accepted_done {s u : State} {spec : CmdSpec} {rq : MbxReq} {handler : State → List Byte → Reply}
    {st d : Nat} {body : List Byte} (h : accepted s spec rq = true)
    (hd : handler (takenBy s spec.code rq) (bodyOf rq) = .done (takenBy u spec.code rq) st d body) :
    mailbox s spec rq handler = .next (respondAs u spec.code rq st d body) := by
  rw [mailbox_accepted handler h, hd, ← respondAs_takenBy u spec.code]

/-! The chain table (R26, R28, R204). -/

@[simp] theorem takenBy_chainRefused (s : State) (c : Nat) (rq : MbxReq) (b : List Byte) :
    chainRefused (takenBy s c rq) b = chainRefused s b := by
  simp [chainRefused]

@[simp] theorem takenBy_chainReferenced (s : State) (c : Nat) (rq : MbxReq) (x : Chain) :
    chainReferenced (takenBy s c rq) x = chainReferenced s x := by
  simp [chainReferenced]

theorem takenBy_unloadChain (s : State) (c : Nat) (rq : MbxReq) (x : Chain) :
    unloadChain (takenBy s c rq) x = takenBy (unloadChain s x) c rq :=
  takenBy_updTab s c rq _

/-- The chain of an image joins the table under the next load serial, and the serial advances (R204). -/
def addChain (s : State) (b : List Byte) : State :=
  (s.updTab (fun v => { v with chains := insertBy (·.id) (chainOf b s.dev.loadSerial) v.chains })).updDev
    (fun d => { d with loadSerial := nextLoadSerial s.dev.loadSerial })

/-- CHAIN_LOAD of an image that the host memory gives and no check refuses. -/
theorem execChainLoad_loads {s : State} {rq : MbxReq} {b : List Byte} (h : accepted s (loadSpec 0x0020) rq = true)
    (hb : hostImage s rq.port (bodyOf rq) = some b) (hr : chainRefused s b = none) :
    execChainLoad rq s = .next (respondAs (addChain s b) 0x0020 rq stOk 0
      (leBytes 2 (leAt b 0 2) ++ leBytes 2 0 ++ leBytes 4 s.dev.loadSerial)) := by
  refine mailbox_accepted_done h ?_
  simp [hb, hr, Reply.okWith, takenBy_updTab, takenBy_updDev, addChain, loadSpec]

/-- CHAIN_UNLOAD of a loaded chain that no live job references. -/
theorem execChainUnload_unloads {s : State} {rq : MbxReq} {c : Chain} (h : accepted s (nameSpec 0x0021) rq = true)
    (hc : findChain s (leAt (bodyOf rq) 0 2) = some c) (hr : chainReferenced s c = false) :
    execChainUnload rq s = .next (respondAs (unloadChain s c) 0x0021 rq stOk 0 []) := by
  refine mailbox_accepted_done h ?_
  simp [hc, hr, Reply.ok, takenBy_unloadChain]

end Sys2Proof.Machine
end

section
/-! The chain commands of the mailbox. -/

namespace Sys2Proof

open Sys2Proof.Machine

/-- Settles O10: both commands are accepted with their mailbox BUSY, their handler reads nothing of the mailbox, and the
response overwrites it, so the state differs from the one before in the tables, the serial and the answer alone. -/
theorem chainLoadAndUnloadChangeTheChainTable : Obligations.ChainLoadAndUnloadChangeTheChainTable := by
  refine ⟨fun rq s b ha hb hr => ?_, fun rq s c ha hc hr => ?_⟩
  · rw [exec_chainLoad]
    exact execChainLoad_loads (accepts_spec rfl ha) hb hr
  · rw [exec_chainUnload]
    exact execChainUnload_unloads (accepts_spec rfl ha) hc hr

end Sys2Proof
end

section
/-! SUPPORT. A core's issuer and what it has in flight (R57 to R67, R79 to R81, R242, R389): what a row comes to where the
core's next instruction is of its kind, and what the completion of an instruction, the start of a transfer and the taking of
a fold come to. -/

namespace Sys2Proof.Machine

open Sys2Proof

theorem numCores_not_le {core : Nat} (h : core < 512) : ¬ numCores ≤ core := Nat.not_le.mpr h

/-- Two updates of a core agree where they make the same of the core as it stands. -/
theorem State.updCore_congr {s : State} {core : Nat} {f g : CoreCtx → CoreCtx} (h : f (s.core core) = g (s.core core)) :
    s.updCore core f = s.updCore core g := by
  rw [State.updCore, State.updCore, h]

/-! Issue (R57 to R59, R64). -/

theorem issuing_eq_some_iff {s : State} {core slot : Nat} {t : Task} {i : CoreInstr} :
    issuing s core = some (slot, t, i) ↔ (core < 512 ∧ issues s core = true) ∧ issueSlot s core = some slot ∧
      tabGet? (s.core core).slots slot = some t ∧ nextInstr t = some i := by
  by_cases hg : core < 512 ∧ issues s core = true
  · rw [issuing, if_pos hg]
    simp only [Option.bind_eq_some_iff, Option.map_eq_some_iff, Prod.mk.injEq, hg, true_and, and_self]
    constructor
    · rintro ⟨_, hslot, _, ht, _, hi, rfl, rfl, rfl⟩
      exact ⟨hslot, ht, hi⟩
    · rintro ⟨hslot, ht, hi⟩
      exact ⟨slot, hslot, t, ht, i, hi, rfl, rfl, rfl⟩
  · rw [issuing, if_neg hg]
    simp only [hg, false_and, reduceCtorEq]

theorem issueRow_of_issuing {s : State} {core slot : Nat} {t : Task} {i : CoreInstr} (kind : CoreInstr → Bool)
    (go : State → Nat → Task → CoreInstr → State) (h : issuing s core = some (slot, t, i)) :
    issueRow core kind go s = .next (if kind i then go s slot t i else s) := by
  obtain ⟨⟨hcore, hruns⟩, hslot, ht, hi⟩ := issuing_eq_some_iff.mp h
  simp only [issueRow, if_neg (numCores_not_le hcore), hruns, hslot, ht, hi, Bool.not_true, Bool.false_eq_true, if_false]

/-- The rows that issue to an engine or to the movers differ in their kind of instruction alone. -/
theorem exec_of_issueKind {i : Instr} {core : Nat} {kind : CoreInstr → Bool} (h : issueKind i = some (core, kind)) (s : State) :
    exec i s = issueRow core kind (issueEngine core) s := by
  unfold issueKind at h
  split at h <;> cases h <;> rfl

theorem exec_issues {i : Instr} {core slot : Nat} {kind : CoreInstr → Bool} {s : State} {t : Task} {x : CoreInstr}
    (hk : issueKind i = some (core, kind)) (h : issuing s core = some (slot, t, x)) :
    exec i s = .next (if kind x then issueEngine core s slot t x else s) := by
  rw [exec_of_issueKind hk, issueRow_of_issuing _ _ h]

/-- A row of the event unit that lets its task pass and does nothing else (R61, R66). -/
theorem issueRow_advance {s : State} {core slot : Nat} {t : Task} {i : CoreInstr} {kind : CoreInstr → Bool}
    (h : issuing s core = some (slot, t, i)) (hk : kind i = true) :
    issueRow core kind (fun s => issueLocal core (fun t _ => advance s.now t) s) s =
      .next (s.updCore core (fun c => updTask { c with running := slot } slot (advance s.now))) := by
  rw [issueRow_of_issuing _ _ h, if_pos hk]
  rfl

/-- The time a WAIT is given is 100 ms, and one tick is 10 ns (R12, R67). -/
theorem execEventTimeout_of_wait {core slot e v : Nat} {s : State} {t : Task} (hcore : core < 512)
    (ht : tabGet? (s.core core).slots slot = some t) (hi : nextInstr t = some (.wait e v)) :
    execEventTimeout core slot s = .next (if v ≤ (eventCount (s.core core) e).toNat ∨ s.since t.waitSince < 10000000 then s
      else abortCmd (postBoth s { code := 0x0009, job := t.job, queue := t.queue, arg0 := core, arg1 := e })
        t.queue t.claim.opSerial stEventTimeout 0) := by
  simp only [execEventTimeout, if_neg (numCores_not_le hcore), ht, hi, Bool.or_eq_true, decide_eq_true_eq]
  rfl

/-! Completion (R59, R387, R389). -/

theorem isEmpty_eraseDups {α : Type} [BEq α] (l : List α) : l.eraseDups.isEmpty = l.isEmpty := by
  cases l <;> simp [List.eraseDups_cons]

/-- A started instruction completes with the operands of its task, unless a tile has a source of it to make again. -/
theorem execInstructionComplete_started {core id : Nat} {s : State} {f : InFlight} {t : Task} {x : Issue} (hcore : core < 512)
    (hfence : fenced s core = false)
    (hflight : (s.core core).flight.find? (fun f => f.id == id && f.started && f.target != 4) = some f)
    (ht : tabGet? (s.core core).slots f.slot = some t)
    (hx : x = { core := core, task := t, sregs := f.scalars, lvl2 := f.lvl2, run := runOfTask s t,
                racy := f.racy || racesNow s core f }) :
    execInstructionComplete core id s = .next
      (if (x.lostSources f.instr s).flatMap (makersOf s) = [] then
        (readPieces (instrEffect x f.instr (markRacy s core f)) x f).updCore core (fun c =>
          startEngines { c with flight := c.flight.filter (fun g => g.id != id) })
       else failTiles s ((x.lostSources f.instr s).flatMap (makersOf s)).eraseDups 3) := by
  subst hx
  rw [execInstructionComplete, if_neg (numCores_not_le hcore), if_neg (by simp [hfence])]
  simp only [hflight, ht, isEmpty_eraseDups]
  cases (Issue.lostSources _ f.instr s).flatMap (makersOf s) <;> rfl

theorem execInstructionComplete_fenced {core : Nat} {s : State} (id : Nat) (hcore : core < 512) (h : fenced s core = true) :
    execInstructionComplete core id s = .next s := by
  rw [execInstructionComplete, if_neg (numCores_not_le hcore), if_pos h]

/-! Transfers (R241, R242). -/

theorem execDmaTransferStart_starts {core pq : Nat} {s : State} {f : InFlight} (hcore : core < 512) (hfence : fenced s core = false)
    (hturn : queueTurn (s.core core) = some pq)
    (hwait : (s.core core).flight.find? (fun f => onQueue pq f && !f.started) = some f) :
    execDmaTransferStart core pq s = .next (s.updCore core (fun c => { c with
      robin := (pq + 1) % 16
      flight := updWhere (fun g => g.id == f.id) (fun g => { g with started := true }) c.flight })) := by
  simp only [execDmaTransferStart, if_neg (numCores_not_le hcore), hturn, hfence, hwait, bne_self_eq_false, Bool.or_self,
    Bool.false_eq_true, if_false]

theorem execDmaTransferStart_waits {core pq : Nat} {s : State} (hcore : core < 512)
    (h : queueTurn (s.core core) ≠ some pq ∨ fenced s core = true) : execDmaTransferStart core pq s = .next s := by
  have hb : (queueTurn (s.core core) != some pq || fenced s core) = true := by simpa using h
  rw [execDmaTransferStart, if_neg (numCores_not_le hcore)]
  exact congrArg _ (if_pos hb)

/-! Folds (R79 to R81). -/

/-- The three ends of a fold that is taken: its log bit stands already, its words are whole, or they fail their check. -/
theorem applyFold_eq (s : State) (core : Nat) (a : Accum) (w : WaitingFold) :
    applyFold s core a w =
      (let mine := fun (x : Accum) => x.queue == a.queue && x.serial == a.serial && x.bind == a.bind
       let u := (s.updCore core (fun c => { c with accums := (updWhere mine
         (fun x => { x with waiting := x.waiting.filter (· != w) }) c.accums) })).updCore w.fromCore (releaseFold w)
       if logged a (logBit a w.claim) then u
       else if w.dataOk then (addFold u core a w).updCore core (fun c => { c with accums := updWhere mine (logFold w) c.accums })
       else failTile (noteFault u 3 core) a.queue a.serial w.claim.claimIndex 3) := by
  unfold applyFold
  cases w.dataOk <;> rfl

/-- A notice marks the only buffer of its core where that waits for no fold and the tile it names is done (R81). -/
theorem execPassNotice_marks {core : Nat} {x : Claim} {s : State} {a : Accum} (hcore : core < 512)
    (hacc : (s.core core).accums = [a]) (htakes : takesFrom s a x = true) (hwait : a.waiting = [])
    (hdone : (tilesOf s a.queue a.serial).any (fun t => t.claim.claimIndex == x.claimIndex && t.status == 3) = true) :
    execPassNotice core a.handle x s = .next (s.updCore core (fun c => { c with accums := [markLog a x] })) := by
  rw [execPassNotice, if_neg (numCores_not_le hcore)]
  refine congrArg Host.Outcome.next (State.updCore_congr ?_)
  simp only [updWhere, hacc, List.map_cons, List.map_nil, htakes, hwait, hdone, beq_self_eq_true, List.any_nil, Bool.not_false,
    Bool.and_self, if_true]

end Sys2Proof.Machine
end

section
/-! SUPPORT. What fails on paths and cores (R88, R304, R386, R389): words and beats in error, lanes, the start of a fence. -/

namespace Sys2Proof.Machine

open Sys2Proof

/-! Words and beats in error (R304, R386). -/

theorem pathWf_eq_wf (p : BeatPath) : pathWf p = p.wf := by
  cases p <;> rfl

/-- The columns of the word code are distinct and none is 0, so the syndrome of one bit names that bit (R304). -/
theorem decodeSyndrome_single_bit (i : Fin 72) : decodeSyndrome (syndrome (1#72 <<< i.val)) = .corrected i.val := by
  revert i
  decide +kernel

theorem beatCorrection_single_bit {p : BeatPath} {i : Nat} (hp : ∀ x, p ≠ .worgonLane x) (hi : i < 72) :
    beatCorrection p (1#72 <<< i) = .corrected i := by
  cases p
  case worgonLane x => exact absurd rfl (hp x)
  all_goals exact decodeSyndrome_single_bit ⟨i, hi⟩

theorem execBeatError_corrected {p : BeatPath} {e : BitVec 72} {k : Nat} (s : State) (hp : p.wf = true)
    (h : beatCorrection p e = .corrected k) : execBeatError ⟨p, e⟩ s = .next (countCorrected s p) := by
  simp only [execBeatError, pathWf_eq_wf, hp, h, Bool.not_true, Bool.false_eq_true, if_false]

theorem execBeatError_resends {p : BeatPath} {e : BitVec 72} (s : State) (hp : p.wf = true) (hs : ∀ x, p ≠ .sram x)
    (h : beatCorrection p e = .uncorrectable) : execBeatError ⟨p, e⟩ s = .next (resendBeat s p) := by
  cases p
  case sram x => exact absurd rfl (hs x)
  all_goals simp only [execBeatError, pathWf_eq_wf, hp, h, Bool.not_true, Bool.false_eq_true, if_false]

/-- A beat whose path has re-sent already, or is none of a stack, is sent again without more. -/
theorem resendBeat_again {s : State} {p : BeatPath} (hp : pathStack p = none ∨ resends s p ≠ 0) (hn : resends s p < 8) :
    resendBeat s p = countResent (setErr (setResends s p (resends s p + 1)) 1) 1 := by
  rw [resendBeat, if_pos hn]
  rcases hp with hp | hp
  · rw [hp, ite_self]
  · rw [if_neg hp]

/-! Fences and lanes (R88, R389). -/

theorem execBeatError_sram {x : Nat} {e : BitVec 72} {s : State} (hx : x < 576)
    (h : beatCorrection (.sram x) e = .uncorrectable) (hst : (s.physCore x).st = .serving) (hf : (s.physCore x).fencing = false) :
    execBeatError ⟨.sram x, e⟩ s = .next (startFence s x) := by
  simp [execBeatError, pathWf, hx, h, hst, hf]

theorem execCoreFault_serving {p : Nat} {s : State} (hp : p < 576) (hst : (s.physCore p).st = .serving)
    (hf : (s.physCore p).fencing = false) : execCoreFault p s = .next (startFence s p) := by
  simp [execCoreFault, Nat.not_le.mpr hp, hst, hf]

theorem execLaneFault_exhausted {p : Nat} {e : Engine} {s : State} (hp : p < 576) (hst : (s.physCore p).st = .serving)
    (hf : (s.physCore p).fencing = false) (hl : laneSpares e ≤ lanesUsed (s.physCore p) e) :
    execLaneFault p e s = .next (startFence s p) := by
  simp [execLaneFault, Nat.not_le.mpr hp, hst, hf, Nat.not_lt.mpr hl]

/-- A spare lane of a core's engine replaces one that failed: the entries of the record and the life count (R88). -/
def spareLane (s : State) (p : Nat) (e : Engine) : State :=
  noteRepair (updLife (noteFault (s.updPhys p (useLane e)) 4 p) (fun x => { x with lanesSpared := lifeInc x.lanesSpared })) 1 p 0

theorem execLaneFault_spared {p : Nat} {e : Engine} {s : State} (hp : p < 576)
    (hst : (s.physCore p).st ≠ .retired ∧ (s.physCore p).st ≠ .failed) (hf : (s.physCore p).fencing = false)
    (hl : lanesUsed (s.physCore p) e < laneSpares e) :
    execLaneFault p e s = .next ((s.physCore p).logical.elim (spareLane s p e) (fun l =>
      failTiles (spareLane s p e) (tilesOnEngine ((spareLane s p e).core l) (engineTarget e)) 4)) := by
  simp only [execLaneFault, if_neg (Nat.not_le.mpr hp), beq_eq_false_iff_ne.mpr hst.1, beq_eq_false_iff_ne.mpr hst.2, hf, hl,
    decide_true, Bool.or_self, Bool.false_eq_true, if_true, if_false]
  cases (s.physCore p).logical <;> rfl

end Sys2Proof.Machine
end

section
/-! The family of the core (03_core.md): commands and tasks, the instructions of a core, and what fails on it. -/

namespace Sys2Proof

open Sys2Proof.Machine

/-- Settles O43: each row's guards are what the clause assumes, so that the branch with its effect is taken. -/
theorem commandsCommitCompleteAndPost : Obligations.CommandsCommitCompleteAndPost := by
  refine ⟨fun n m s c p r hc hr hdone hnew hwait => ?_, fun n m s q c j hq hc hj hdone haccs hacks hparity hcompare => ?_,
    fun n s q c h _ => ?_, fun n m k s c hc hphase hlo hhi => ?_⟩
  · simp only [exec_accumulatorCommit, execAccumulatorCommit, hc, hr, hdone, hnew, hwait, Bool.not_false, Bool.and_self, if_true]
  · simp only [exec_commandComplete, execCommandComplete, hq, hc, hj, hdone, haccs, hacks, hparity, hcompare, List.isEmpty_nil,
      Bool.not_false, Bool.and_self, if_true]
  · simp only [exec_completionRecordPost, execCompletionRecordPost, h]
  · simp only [exec_commandAbort, execCommandAbort, hc, hphase, hlo, hhi, beq_self_eq_true, decide_true, Bool.and_self, if_true]

/-- Settles O45: a claim, a placement and the end of a task run the branch their guards open; the notice by
`execPassNotice_marks`. -/
theorem tasksAreClaimedPlacedAndEnded : Obligations.TasksAreClaimedPlacedAndEnded := by
  refine ⟨fun core n m k s c r hcore hrun htakes hk hreissue hheld => ?_, fun core s hcore htakes => ?_,
    fun core slot s t hcore ht hend => ?_, fun core slot s t hcore ht hend => ?_,
    fun core h x s a hcore hacc hh htakes hwait hdone => ?_⟩
  · have hopen : ¬ (!takesTasks s core || decide (r.body.phases.length ≤ k) || reissueWaits c (dieOfCore core) ||
        (s.core core).held.any (fun h => h.1 == n && h.2.opSerial == m)) = true := by
      simp only [htakes, decide_eq_false (Nat.not_le.mpr hk), hreissue, hheld, Bool.not_true, Bool.or_self, Bool.false_eq_true,
        not_false_eq_true]
    rewrite [exec_claim, execClaim, if_neg (numCores_not_le hcore), hrun]
    exact congrArg Host.Outcome.next (if_neg hopen)
  · rewrite [exec_taskPlace, execTaskPlace, if_neg (numCores_not_le hcore), htakes]
    rfl
  · rewrite [exec_taskComplete, execTaskComplete, if_neg (numCores_not_le hcore), ht]
    simp only [hend, Bool.not_true, Bool.false_eq_true, if_false]
  · rewrite [exec_taskComplete, execTaskComplete, if_neg (numCores_not_le hcore), ht]
    simp only [hend, Bool.not_false, if_true]
  · rw [exec_passNotice, ← hh, execPassNotice_marks hcore hacc htakes hwait hdone]

/-- Settles O46: the rows of the engines and movers are one row but for their kind; a FOLD is no key switch and issues to its
target 4. -/
theorem coreInstructionsIssue : Obligations.CoreInstructionsIssue := by
  refine ⟨fun i core kind s slot t x hk h hx => ?_, fun i core kind s slot t x hk h hx => ?_, fun core slot s t o h => ?_⟩
  · rw [exec_issues hk h, if_pos hx]
    rfl
  · rw [exec_issues hk h, if_neg (Bool.eq_false_iff.mp hx)]
  · rw [exec_fold, execFold, issueRow_of_issuing _ _ h]
    rfl

/-- Settles O47: the issuer's own rows touch the task of their core; a WAIT is timed out by `execEventTimeout_of_wait`. -/
theorem eventsFencesAndScalarsIssue : Obligations.EventsFencesAndScalarsIssue := by
  refine ⟨fun core slot s t e v h => ?_, fun core slot s t h => ?_, fun core slot s t h => ?_, fun core slot s t e h => ?_,
    fun core slot s t o h => ?_, fun core slot s t e v hcore ht hi hcount hsince => ?_, fun core slot s t e v hcore ht hi hnot => ?_⟩
  · rw [exec_wait, execWait, issueRow_advance h rfl]
  · rw [exec_fenceSlot, execFenceSlot, issueRow_advance h rfl]
  · rw [exec_fenceKey, execFenceKey, issueRow_advance h rfl]
  · rw [exec_signal, execSignal, issueRow_of_issuing _ _ h]
    rfl
  · rw [exec_scalarInstruction, execScalarInstruction, issueRow_of_issuing _ _ h]
    rfl
  · rw [exec_eventTimeout, execEventTimeout_of_wait hcore ht hi, if_neg (by omega)]
  · rw [exec_eventTimeout, execEventTimeout_of_wait hcore ht hi, if_pos hnot]

/-- Settles O48: completion, transfers and folds by the lemmas about their rows. -/
theorem instructionsAndFoldsComplete : Obligations.InstructionsAndFoldsComplete := by
  refine ⟨fun core id s f t x hcore hfence hflight ht hx => ⟨fun hwhole => ?_, fun hlost => ?_⟩,
    fun core pq s f hcore hfence hturn hwait => ?_, fun core pq s hcore h => ?_, fun core id s hcore h => ?_,
    fun core h s a w hcore hnext => ?_⟩
  · rw [exec_instructionComplete, execInstructionComplete_started hcore hfence hflight ht hx, if_pos hwhole]
  · rw [exec_instructionComplete, execInstructionComplete_started hcore hfence hflight ht hx, if_neg hlost]
  · rw [exec_dmaTransferStart, execDmaTransferStart_starts hcore hfence hturn hwait]
  · rw [exec_dmaTransferStart, execDmaTransferStart_waits hcore h]
  · rw [exec_instructionComplete, execInstructionComplete_fenced id hcore h]
  · rw [exec_foldApply, execFoldApply, if_neg (numCores_not_le hcore), hnext, ← applyFold_eq]

/-- Settles O53: one bit in error is corrected by the word code, more re-send a beat or fence a core; a lane takes a spare or
fences its core; the end of a fence and the restart of a die controller run the branch their guards open. -/
theorem pathsLanesAndCoresFail : Obligations.PathsLanesAndCoresFail := by
  refine ⟨fun p e s hp hs he hr hn => ?_, fun p i s hp hl hi => ?_, fun x e s hx he hst hf => ?_, fun p e s hp hs he hn => ?_,
    fun p e s l hp hst hf hl hlog => ?_, fun p e s hp hst hf hl hlog => ?_, fun p e s hp hst hf => ⟨fun hl => ?_, ?_⟩,
    fun p s core hp hlog hf => ?_, fun d s hd => ?_⟩
  · rw [exec_beatError, execBeatError_resends s hp hs he, resendBeat_again hr hn]
  · rw [exec_beatError, execBeatError_corrected s hp (beatCorrection_single_bit hl hi)]
    rfl
  · rw [exec_beatError, execBeatError_sram hx he hst hf]
    rfl
  · rewrite [exec_beatError, execBeatError_resends s hp hs he, resendBeat, if_neg (Nat.not_lt.mpr hn)]
    rfl
  · rw [exec_laneFault, execLaneFault_spared hp (by simp [hst]) hf hl, hlog]
    rfl
  · have hlive : (s.physCore p).st ≠ .retired ∧ (s.physCore p).st ≠ .failed := by
      rcases hst with hst | hst <;> simp [hst]
    rw [exec_laneFault, execLaneFault_spared hp hlive hf hl, hlog]
    rfl
  · rw [exec_laneFault, execLaneFault_exhausted hp hst hf hl]
    rfl
  · rw [exec_coreFault, execCoreFault_serving hp hst hf]
    rfl
  · simp only [exec_coreFenceDone, execCoreFenceDone, if_neg (Nat.not_le.mpr hp), hlog, hf, Bool.not_true, Bool.false_eq_true, if_false]
  · rw [exec_dieCtrlRestart, execDieCtrlRestart, if_pos hd]

end Sys2Proof
end

section
/-! SUPPORT. The inverse of a Galois element and the words of a COEFF automorphism (R110). -/

namespace Sys2Proof.Machine

open Sys2Proof

/-! The inverse modulo 2^k. -/

/-- One Newton step of `invPow2` towards the inverse of g. -/
def newtonInvStep (k g x : Nat) : Nat := x * (2 ^ (k + 6) + 2 - g * x % 2 ^ k) % 2 ^ k

theorem invPow2_eq_foldl (k g : Nat) : invPow2 k g = (List.range 6).foldl (fun x _ => newtonInvStep k g x) (g % 2 ^ k) := rfl

/-- The error 1 - g x of x as an inverse of g vanishes modulo 2^j as far as the k bits of the arithmetic show it. -/
def InvertsTo (k g j x : Nat) : Prop := ∃ c d : Int, 1 - (g : Int) * x = 2 ^ j * c + 2 ^ k * d

theorem natCast_mod_two_pow (a k : Nat) : ∃ d : Int, ((a % 2 ^ k : Nat) : Int) = a - 2 ^ k * d :=
  ⟨a / 2 ^ k, by
    rw [Int.natCast_emod, Int.natCast_pow]
    exact Int.emod_def a (2 ^ k)⟩

theorem natCast_newtonInvStep (k g x : Nat) : ∃ d : Int, (newtonInvStep k g x : Int) = x * (2 - g * x) + 2 ^ k * d := by
  have hle : g * x % 2 ^ k ≤ 2 ^ (k + 6) + 2 := by
    have hlt : g * x % 2 ^ k < 2 ^ k := Nat.mod_lt _ (Nat.two_pow_pos k)
    have hmono : 2 ^ k ≤ 2 ^ (k + 6) := Nat.pow_le_pow_right Nat.two_pos (Nat.le_add_right k 6)
    omega
  obtain ⟨d, hd⟩ := natCast_mod_two_pow (x * (2 ^ (k + 6) + 2 - g * x % 2 ^ k)) k
  obtain ⟨e, he⟩ := natCast_mod_two_pow (g * x) k
  rw [Int.natCast_mul, Int.natCast_sub hle, Int.natCast_add, Int.natCast_pow, Int.pow_add, he, Int.natCast_mul] at hd
  refine ⟨x * (2 ^ 6 + e) - d, ?_⟩
  rw [newtonInvStep, hd]
  grind only

/-- Each Newton step squares the error 1 - g x, which doubles the bits in which x inverts g. -/
theorem newtonInvStep_doubles {k g j x : Nat} (h : InvertsTo k g j x) : InvertsTo k g (2 * j) (newtonInvStep k g x) := by
  obtain ⟨c, d, hcd⟩ := h
  obtain ⟨e, he⟩ := natCast_newtonInvStep k g x
  have hsquare : 1 - (g : Int) * newtonInvStep k g x = (1 - g * x) * (1 - g * x) - 2 ^ k * (g * e) := by
    rw [he]
    grind only
  refine ⟨c * c, 2 ^ j * c * d * 2 + 2 ^ k * d * d - g * e, ?_⟩
  rw [hsquare, hcd, Nat.two_mul, Int.pow_add]
  grind only

theorem foldl_newtonInvStep_doubles {α : Type} {k g : Nat} (l : List α) {j x : Nat} (h : InvertsTo k g j x) :
    InvertsTo k g (2 ^ l.length * j) (l.foldl (fun y _ => newtonInvStep k g y) x) := by
  induction l generalizing j x with
  | nil => rwa [List.length_nil, Nat.pow_zero, Nat.one_mul]
  | cons _ l ih =>
    rw [List.length_cons, Nat.pow_succ, Nat.mul_assoc]
    exact ih (newtonInvStep_doubles h)

/-- An odd g inverts itself in the lowest bit. -/
theorem invertsTo_one_self {k g : Nat} (hg : g % 2 = 1) : InvertsTo k g 1 (g % 2 ^ k) := by
  obtain ⟨c, rfl⟩ : ∃ c, g = 2 * c + 1 := ⟨g / 2, by omega⟩
  obtain ⟨d, hd⟩ := natCast_mod_two_pow (2 * c + 1) k
  refine ⟨-(2 * c * c + 2 * c), (2 * c + 1) * d, ?_⟩
  rw [hd, Int.natCast_add, Int.natCast_mul]
  grind only

/-- Six steps from one bit give 64, so `invPow2` inverts every odd g for k up to 64. -/
theorem mul_invPow2_mod {k g : Nat} (hg : g % 2 = 1) (hk : k ≤ 64) : g * invPow2 k g % 2 ^ k = 1 % 2 ^ k := by
  have hfold : InvertsTo k g 64 (invPow2 k g) := foldl_newtonInvStep_doubles (List.range 6) (invertsTo_one_self hg)
  obtain ⟨c, d, hcd⟩ := hfold
  have hdvd : (2 : Int) ^ k ∣ 1 - g * invPow2 k g := by
    refine ⟨2 ^ (64 - k) * c + d, ?_⟩
    rw [hcd, Int.mul_add, ← Int.mul_assoc, ← Int.pow_add, Nat.add_sub_of_le hk]
  have hmod : (1 : Int) % 2 ^ k = g * invPow2 k g % 2 ^ k :=
    Int.emod_eq_emod_iff_emod_sub_eq_zero.mpr (Int.emod_eq_zero_of_dvd hdvd)
  exact_mod_cast hmod.symm

theorem mul_mod_of_mod_eq_one {a n : Nat} (b : Nat) (h : a % n = 1 % n) : a * b % n = b % n := by
  rw [← Nat.mod_mul_mod, h, Nat.mod_mul_mod, Nat.one_mul]

/-- Inverses modulo 2^k are unique, so any inverse of g gives the index that `invPow2` gives. -/
theorem invPow2_mul_mod {k g ginv : Nat} (t : Nat) (hg : g % 2 = 1) (hk : k ≤ 64) (hinv : ginv * g % 2 ^ k = 1 % 2 ^ k) :
    invPow2 k g * t % 2 ^ k = ginv * t % 2 ^ k :=
  calc invPow2 k g * t % 2 ^ k
      = ginv * g * (invPow2 k g * t) % 2 ^ k := (mul_mod_of_mod_eq_one _ hinv).symm
    _ = g * invPow2 k g * (ginv * t) % 2 ^ k := congrArg (· % 2 ^ k) (by grind only)
    _ = ginv * t % 2 ^ k := mul_mod_of_mod_eq_one _ (mul_invPow2_mod hg hk)

/-! The words of the result (R110, R111). -/

theorem galoisCoeff_length {m : Nat} (q g : Nat) {a : Limb} (ha : a.length = 2 ^ m) : (galoisCoeff m q g a).length = 2 ^ m := by
  by_cases hg : g = 1
  · rw [galoisCoeff, if_pos hg, ha]
  · rw [galoisCoeff, if_neg hg, List.length_map, List.length_range]

theorem galoisCoeff_one (m q : Nat) (a : Limb) : galoisCoeff m q 1 a = a := if_pos rfl

theorem galoisCoeff_getD {m q g t : Nat} {a : Limb} (hg : g ≠ 1) (ht : t < 2 ^ m) :
    (galoisCoeff m q g a).getD t 0 =
      (let u := invPow2 (m + 1) g * t % 2 ^ (m + 1)
       if u < 2 ^ m then a.getD u 0 else (q - a.getD (u - 2 ^ m) 0 % q) % q) := by
  rw [galoisCoeff, if_neg hg, List.getD_eq_getElem?_getD, List.getElem?_map, List.getElem?_range ht]
  rfl

theorem getD_mod_of_reduced {q : Nat} {a : Limb} (hq : 0 < q) (ha : ∀ x ∈ a, x < q) (u : Nat) :
    a.getD u 0 % q = a.getD u 0 := by
  refine Nat.mod_eq_of_lt ?_
  rw [List.getD_eq_getElem?_getD]
  cases hu : a[u]? with
  | none => exact hq
  | some x => exact ha x (List.mem_of_getElem? hu)

end Sys2Proof.Machine
end

section
/-! The family of the transforms (04_transforms.md). -/

namespace Sys2Proof

open Sys2Proof.Machine

/-- Settles O58: the element 1 delivers the limb itself, every other element the word that its inverse names. -/
theorem coefficientAutomorphismMovesAndNegates : Obligations.CoefficientAutomorphismMovesAndNegates := by
  intro m q g ginv a hm hodd _ hinv hq hlen hred
  refine ⟨galoisCoeff_length q g hlen, fun t ht => ?_⟩
  by_cases hg : g = 1
  · subst hg
    rw [Nat.mul_one] at hinv
    have hu : ginv * t % 2 ^ (m + 1) = t :=
      (mul_mod_of_mod_eq_one t hinv).trans
        (Nat.mod_eq_of_lt (Nat.lt_trans ht (Nat.pow_lt_pow_succ Nat.one_lt_two)))
    simp only [galoisCoeff_one, hu, ht, if_true]
  · simp only [galoisCoeff_getD hg ht, invPow2_mul_mod t hodd (show m + 1 ≤ 64 by omega) hinv, getD_mod_of_reduced hq hred]

end Sys2Proof
end

section
/-! SUPPORT. The words of the element-wise results (R131, R208): what stands at one component, limb and position of a payload
that ADD, SUB, NEG, MUL.PT or MUL.CT builds. -/

namespace Sys2Proof.Machine

open Sys2Proof

/-! Limbs of a source are full: no position below the extent is cut off by a pairing (R50, R187). -/

@[simp] theorem fitLimb_length (n : Nat) (l : Limb) : (fitLimb n l).length = n := by
  simp only [fitLimb, List.length_append, List.length_take, List.length_replicate]
  omega

@[simp] theorem Poly.limb_length (p : Poly) (j i n : Nat) : (Poly.limb p j i n).length = n := fitLimb_length n _

/-! The limbs of a payload that is built component by component. -/

theorem buildPoly_limb {c i j q : Nat} {qs : List Nat} (f : Nat → Nat → Nat → Limb) (hq : qs[i]? = some q) (hj : j < c) :
    ((buildPoly c qs f).getD j []).getD i [] = f j i q := by
  have hcomp : (buildPoly c qs f).getD j [] = qs.zipIdx.map (fun q => f j q.2 q.1) := by
    rw [buildPoly, List.getD_eq_getElem?_getD, List.getElem?_map, List.getElem?_range hj]
    rfl
  rw [hcomp, List.getD_eq_getElem?_getD, List.getElem?_map, List.getElem?_zipIdx, hq]
  simp only [Option.map_some, Option.getD_some, Nat.zero_add]

section
variable {c i j q : Nat} {qs : List Nat} (n : Nat) (os : List Obj)

theorem zipPoly_limb (f : Nat → Limb → Limb → Limb) (hq : qs[i]? = some q) (hj : j < c) :
    ((zipPoly f c qs n os).getD j []).getD i [] = f q (Poly.limb (src os 0) j i n) (Poly.limb (src os 1) j i n) :=
  buildPoly_limb _ hq hj

theorem negPoly_limb (hq : qs[i]? = some q) (hj : j < c) :
    ((negPoly c qs n os).getD j []).getD i [] = limbNeg q (Poly.limb (src os 0) j i n) :=
  buildPoly_limb _ hq hj

theorem mulPtPoly_limb (hq : qs[i]? = some q) (hj : j < c) :
    ((mulPtPoly c qs n os).getD j []).getD i [] = limbMul q (Poly.limb (src os 0) j i n) (Poly.limb (src os 1) 0 i n) :=
  buildPoly_limb _ hq hj

theorem mulCtPoly_limb_zero (hq : qs[i]? = some q) (hc : 0 < c) :
    ((mulCtPoly c qs n os).getD 0 []).getD i [] = limbMul q (Poly.limb (src os 0) 0 i n) (Poly.limb (src os 1) 0 i n) :=
  buildPoly_limb _ hq hc

theorem mulCtPoly_limb_one (hq : qs[i]? = some q) (hc : 1 < c) :
    ((mulCtPoly c qs n os).getD 1 []).getD i [] =
      limbAdd q (limbMul q (Poly.limb (src os 0) 0 i n) (Poly.limb (src os 1) 1 i n))
        (limbMul q (Poly.limb (src os 0) 1 i n) (Poly.limb (src os 1) 0 i n)) :=
  buildPoly_limb _ hq hc

theorem mulCtPoly_limb_two (hq : qs[i]? = some q) (hc : 2 < c) :
    ((mulCtPoly c qs n os).getD 2 []).getD i [] = limbMul q (Poly.limb (src os 0) 1 i n) (Poly.limb (src os 1) 1 i n) :=
  buildPoly_limb _ hq hc

end

/-! The words of a limb operation. -/

section
variable {t : Nat} {a b : Limb}

theorem limbZip_getD (f : Nat → Nat → Nat) (ha : t < a.length) (hb : t < b.length) :
    (limbZip f a b).getD t 0 = f (a.getD t 0) (b.getD t 0) := by
  simp only [limbZip, List.getD_eq_getElem?_getD, List.getElem?_zipWith, List.getElem?_eq_getElem ha,
    List.getElem?_eq_getElem hb, Option.getD_some]

@[simp] theorem limbMul_length (q : Nat) (a b : Limb) : (limbMul q a b).length = min a.length b.length := List.length_zipWith

theorem limbAdd_getD (q : Nat) (ha : t < a.length) (hb : t < b.length) :
    (limbAdd q a b).getD t 0 = (a.getD t 0 + b.getD t 0) % q := limbZip_getD _ ha hb

theorem limbSub_getD (q : Nat) (ha : t < a.length) (hb : t < b.length) :
    (limbSub q a b).getD t 0 = (a.getD t 0 + (q - b.getD t 0 % q)) % q := limbZip_getD _ ha hb

theorem limbMul_getD (q : Nat) (ha : t < a.length) (hb : t < b.length) :
    (limbMul q a b).getD t 0 = a.getD t 0 * b.getD t 0 % q := limbZip_getD _ ha hb

theorem limbNeg_getD (q : Nat) (ha : t < a.length) : (limbNeg q a).getD t 0 = (q - a.getD t 0 % q) % q := by
  simp only [limbNeg, List.getD_eq_getElem?_getD, List.getElem?_map, List.getElem?_eq_getElem ha, Option.map_some,
    Option.getD_some]

end

/-! q less the residue is the additive inverse modulo q, whether or not the operand is reduced (R131). -/

theorem add_complement_mod {q : Nat} (x y : Nat) (hq : 0 < q) : ((x + (q - y % q)) % q + y) % q = x % q := by
  have hlt : y % q < q := Nat.mod_lt y hq
  have hsplit : q * (y / q) + y % q = y := Nat.div_add_mod y q
  calc ((x + (q - y % q)) % q + y) % q
      = (x + (q - y % q) + y) % q := Nat.mod_add_mod _ _ _
    _ = (x + q * (y / q) + q) % q := congrArg (· % q) (by omega)
    _ = x % q := by rw [Nat.add_mod_right, Nat.add_mul_mod_self_left]

theorem complement_mod_add_mod {q : Nat} (y : Nat) (hq : 0 < q) : ((q - y % q) % q + y) % q = 0 := by
  simpa only [Nat.zero_add, Nat.zero_mod] using add_complement_mod 0 y hq

end Sys2Proof.Machine
end

section
/-! The family of the matrix and vector engines (05_matrix_vector.md). -/

namespace Sys2Proof

open Sys2Proof.Machine

/-- Settles O60: each operation's limb is the limb operation on the sources' limbs, and these are full, so that every word is
the word operation on the sources' words. -/
theorem elementWiseOperationsComputeModQ : Obligations.ElementWiseOperationsComputeModQ := by
  intro c n qs os i t q hq ht
  have full : ∀ k j, t < (Poly.limb (src os k) j i n).length := fun k j => (Poly.limb_length _ j i n).symm ▸ ht
  have fullMul : ∀ k j k' j', t < (limbMul q (Poly.limb (src os k) j i n) (Poly.limb (src os k') j' i n)).length :=
    fun k j k' j' => (limbMul_length q _ _).symm ▸ Nat.lt_min.mpr ⟨full k j, full k' j'⟩
  dsimp only
  refine ⟨fun j hj => ?add, fun j hj hpos => ?sub, fun j hj hpos => ?neg, fun j hj => ?mulPt, ?ct0, ?ct1, ?ct2⟩
  case add =>
    rw [zipPoly_limb n os limbAdd hq hj, limbAdd_getD q (full 0 j) (full 1 j)]
  case sub =>
    rw [zipPoly_limb n os limbSub hq hj, limbSub_getD q (full 0 j) (full 1 j)]
    exact ⟨Nat.mod_lt _ hpos, add_complement_mod _ _ hpos⟩
  case neg =>
    rw [negPoly_limb n os hq hj, limbNeg_getD q (full 0 j)]
    exact ⟨Nat.mod_lt _ hpos, complement_mod_add_mod _ hpos⟩
  case mulPt =>
    rw [mulPtPoly_limb n os hq hj, limbMul_getD q (full 0 j) (full 1 0)]
  case ct0 =>
    rw [mulCtPoly_limb_zero (c := 3) n os hq (by decide), limbMul_getD q (full 0 0) (full 1 0)]
  case ct1 =>
    rw [mulCtPoly_limb_one (c := 3) n os hq (by decide), limbAdd_getD q (fullMul 0 0 1 1) (fullMul 0 1 1 0),
      limbMul_getD q (full 0 0) (full 1 1), limbMul_getD q (full 0 1) (full 1 0), ← Nat.add_mod]
  case ct2 =>
    rw [mulCtPoly_limb_two (c := 3) n os hq (by decide), limbMul_getD q (full 0 1) (full 1 1)]

end Sys2Proof
end

section
/-! SUPPORT. The life of a caddy (R154 to R160): what CADDY_LOAD and CADDY_UNLOAD come to in a state that has taken their
request. -/

namespace Sys2Proof.Machine

open Sys2Proof

/-- An accepted request whose handler leaves its mailbox BUSY. -/
theorem mailbox_accepted_stay {s u : State} {spec : CmdSpec} {rq : MbxReq} {handler : State → List Byte → Reply}
    (h : accepted s spec rq = true) (hd : handler (takenBy s spec.code rq) (bodyOf rq) = .stay u) :
    mailbox s spec rq handler = .next u := by
  rw [mailbox_accepted handler h, hd]

/-! Load (R154 to R157). -/

@[simp] theorem takenBy_tagInUse (s : State) (c : Nat) (rq : MbxReq) (tag : Nat) (d : Digest) :
    tagInUse (takenBy s c rq) tag d = tagInUse s tag d := by
  simp only [tagInUse, takenBy_tab, takenBy_fab]

@[simp] theorem takenBy_freeLibraryExtents (s : State) (c : Nat) (rq : MbxReq) :
    freeLibraryExtents (takenBy s c rq) = freeLibraryExtents s := by
  simp only [freeLibraryExtents, takenBy_tab, takenBy_far]

@[simp] theorem takenBy_caddyCheck (s : State) (c : Nat) (rq : MbxReq) (b : List Byte) :
    caddyCheck (takenBy s c rq) b = caddyCheck s b := by
  simp only [caddyCheck, takenBy_findChain, takenBy_tagInUse, takenBy_tab, takenBy_freeLibraryExtents]

@[simp] theorem takenBy_caddyOf (s : State) (c : Nat) (rq rq' : MbxReq) (b : List Byte) (i : Nat) :
    caddyOf (takenBy s c rq) rq' b i = caddyOf s rq' b i := by
  simp only [caddyOf, takenBy_findChain, takenBy_freeLibraryExtents]

/-- CADDY_LOAD of an image of the length it names, with an index free: the first failing check answers, or the image is stored
and its caddy LOADING. -/
theorem execCaddyLoad_checked {s : State} {rq : MbxReq} {b : List Byte} {i : Nat} (h : accepted s (loadSpec 0x0022) rq = true)
    (hb : hostImage s rq.port (bodyOf rq) = some b) (hmin : 0x1E ≤ b.length) (hlen : leAt b 0x18 6 = b.length)
    (hi : lowestFree 1024 (s.tab.caddies.map (·.index)) = some i) :
    execCaddyLoad rq s = .next (match caddyCheck s b with
      | some n => respondAs s 0x0022 rq (caddyFailure n).1 (caddyFailure n).2 []
      | none => (storeImage (takenBy s 0x0022 rq) (caddyOf s rq b i).extents b).updTab
          (fun v => { v with caddies := insertBy (·.index) (caddyOf s rq b i) v.caddies })) := by
  have hshape : ¬ (decide (b.length < 0x1E) || leAt b 0x18 6 != b.length) = true := by
    simp [hlen, Nat.not_lt.mpr hmin]
  cases hc : caddyCheck s b with
  | some n =>
    refine mailbox_accepted_done (u := s) h ?_
    simp only [takenBy_hostImage, hb, if_neg hshape, takenBy_caddyCheck, hc, Reply.fail]
  | none =>
    refine mailbox_accepted_stay h ?_
    simp only [takenBy_hostImage, hb, if_neg hshape, takenBy_caddyCheck, hc, takenBy_tab, hi, takenBy_caddyOf, loadSpec]

/-! Residence and unload (R157 to R160). -/

theorem execCaddyLoadDone_loading {caddy : Nat} {s : State} {c : Caddy} (hc : findCaddy s caddy = some c)
    (hst : c.st = .loading) :
    execCaddyLoadDone caddy s = .next (respondTo (updCaddy s caddy (fun c => { c with st := .library })) c.loadPort c.loadBox
      stOk 0 (leBytes 2 caddy ++ leBytes 2 0)) := by
  simp only [execCaddyLoadDone, hc, hst, if_true]

theorem execCaddyResident_copied {caddy : Nat} {s : State} {c : Caddy} (hc : findCaddy s caddy = some c)
    (hcopy : c.copying = true) :
    execCaddyResident caddy s =
      .next (updCaddy (placePieces s c) caddy (fun c => { c with st := .resident, copying := false })) := by
  simp only [execCaddyResident, hc, hcopy, if_true]

@[simp] theorem takenBy_loadedCaddy (s : State) (c : Nat) (rq : MbxReq) (i : Nat) :
    loadedCaddy (takenBy s c rq) i = loadedCaddy s i := by
  simp only [loadedCaddy, takenBy_findCaddy]

@[simp] theorem takenBy_caddyBound (s : State) (c : Nat) (rq : MbxReq) (i : Nat) :
    caddyBound (takenBy s c rq) i = caddyBound s i := by
  simp only [caddyBound, takenBy_tab]

/-- A caddy is gone: its near pieces, its cache entries on every die, and the caddy (R160). -/
def unloadCaddy (s : State) (i : Nat) : State :=
  (dropNear (dropCached s i) i).updTab (fun v => { v with caddies := v.caddies.filter (fun x => x.index != i) })

theorem takenBy_unloadCaddy (s : State) (c : Nat) (rq : MbxReq) (i : Nat) :
    unloadCaddy (takenBy s c rq) i = takenBy (unloadCaddy s i) c rq := by
  cases hp : rq.port <;>
    simp [unloadCaddy, dropNear, dropCached, State.updNear, State.updTab, takenBy, setMailbox, State.updPort, State.setPort,
      State.port, hp]

/-- CADDY_UNLOAD of a caddy that is loaded and that no live job binds. -/
theorem execCaddyUnload_unloads {s : State} {rq : MbxReq} {c : Caddy} (h : accepted s (nameSpec 0x0023) rq = true)
    (hc : loadedCaddy s (leAt (bodyOf rq) 0 2) = some c) (hfree : caddyBound s c.index = false) :
    execCaddyUnload rq s = .next (respondAs (unloadCaddy s c.index) 0x0023 rq stOk 0 []) := by
  refine mailbox_accepted_done h ?_
  simp only [takenBy_loadedCaddy, hc, takenBy_caddyBound, hfree, Bool.false_eq_true, if_false, Reply.ok]
  exact congrArg (Reply.done · stOk 0 []) (takenBy_unloadCaddy s _ rq c.index)

end Sys2Proof.Machine
end

section
/-! SUPPORT. Key pieces on their way (R166 to R169, R248): what a root that sends, and a die where a piece is ready, change. -/

namespace Sys2Proof.Machine

open Sys2Proof

/-! Sending (R231, R248). -/

/-- Waking stacks leaves every die powered and in service as it was, so the broadcast reaches the same dies. -/
theorem Woken.listening {s t : State} (h : Woken s t) : listening t = listening s := by
  have hdie (d : Nat) : (t.die d).powered = (s.die d).powered ∧ (t.die d).lost = (s.die d).lost :=
    by
    rw [← h.die d]
    exact ⟨rfl, rfl⟩
  simp only [Machine.listening, hdie]

theorem execPieceSend_sends {hub : Hub} {s : State} {i : SendItem} (hroot : s.near.rootOut.contains hub = false)
    (hi : firstItem (s.key.sendList.filter (fun i => rootOf s i.piece == hub)) = some i) :
    execPieceSend hub s = .next ((touchPiece s i.piece).updKey (fun k => { k with
      sendList := k.sendList.filter (fun x => x.piece != i.piece)
      flight := k.flight ++ (listening s).map (fun d => (d, i.piece)) })) := by
  simp only [execPieceSend, hroot, hi, (touchPiece_woken s i.piece).listening, Bool.false_eq_true, if_false]

theorem execPieceSend_idle {hub : Hub} {s : State}
    (hi : firstItem (s.key.sendList.filter (fun i => rootOf s i.piece == hub)) = none) : execPieceSend hub s = .next s := by
  simp only [execPieceSend, hi, ite_self]

/-! Arrival (R166 to R169). -/

/-- A piece has landed on a die: it is no longer on its way there. -/
def pieceLanded (s : State) (d : Nat) (p : PieceId) : State := s.updKey (fun k => { k with flight := k.flight.erase (d, p) })

theorem execPieceArrive_discards {d : Fin 8} {p : PieceId} {s : State} (hsent : s.key.flight.contains (d.val, p) = true)
    (hkeep : (s.die d.val).keep.contains p = false) : execPieceArrive d p s = .next (pieceLanded s d p) := by
  simp only [execPieceArrive, hsent, hkeep, Bool.not_true, Bool.not_false, Bool.false_and, Bool.true_or, Bool.false_eq_true,
    if_false, if_true, pieceLanded]

theorem execPieceArrive_keeps_piece {d : Fin 8} {p : PieceId} {s t : State} {c : Caddy} {e : KeyEntry}
    (hsent : s.key.flight.contains (d.val, p) = true) (hkeep : (s.die d.val).keep.contains p = true)
    (hnew : (s.die d.val).cache.any (fun e => e.piece == p) = false) (hc : findCaddy s p.caddy = some c)
    (he : c.keys[p.key]? = some e) (ht : keepPiece s d.val p c e false = some t) :
    execPieceArrive d p s = .next (pieceLanded t d p) := by
  simp only [execPieceArrive, hsent, hkeep, hnew, hc, he, ht, Bool.not_true, Bool.or_self, Bool.false_and, Bool.false_eq_true,
    if_false, pieceLanded]

/-! Expansion (R150 to R152, R167). -/

/-- A core whose tasks wait for a piece no more. -/
def gotPiece (p : PieceId) (c : CoreCtx) : CoreCtx :=
  { c with slots := c.slots.map (fun t => (t.1, { t.2 with keysPending := t.2.keysPending.filter (· != p) })) }

/-- PIECE_READY at core i of a die: its tasks have the piece where one of them waits for it. -/
def gotOnCore (p : PieceId) (d : Nat) (s : State) (i : Nat) : State :=
  if (s.core (64 * d + i)).slots.any (fun t => t.2.keysPending.contains p) then s.updCore (64 * d + i) (gotPiece p) else s

theorem gotPiece_slots_fst (p : PieceId) (c : CoreCtx) : (gotPiece p c).slots.map (·.1) = c.slots.map (·.1) := by
  simp only [gotPiece, List.map_map, Function.comp_def]

theorem gotPiece_waits_no_more {p : PieceId} {c : CoreCtx} {x : Nat × Task} (hx : x ∈ (gotPiece p c).slots) :
    x.2.keysPending.contains p = false := by
  obtain ⟨t, -, rfl⟩ := List.mem_map.mp hx
  simp

theorem gotPiece_of_no_wait {p : PieceId} {c : CoreCtx} (h : c.slots.any (fun t => t.2.keysPending.contains p) = false) :
    gotPiece p c = c := by
  have hslot : ∀ t ∈ c.slots, (t.1, { t.2 with keysPending := t.2.keysPending.filter (· != p) }) = t := by
    intro t ht
    have hpend : t.2.keysPending.filter (· != p) = t.2.keysPending := by
      refine List.filter_eq_self.mpr fun q hq => bne_iff_ne.mpr ?_
      rintro rfl
      exact List.any_eq_false.mp h t ht (List.contains_iff_mem.mpr hq)
    rw [hpend]
  rw [gotPiece, List.map_congr_left hslot, List.map_id']

theorem gotPiece_gotPiece (p : PieceId) (c : CoreCtx) : gotPiece p (gotPiece p c) = gotPiece p c :=
  gotPiece_of_no_wait (List.any_eq_false.mpr fun _ hx => Bool.eq_false_iff.mp (gotPiece_waits_no_more hx))

/-- Where no task waits for the piece there is none to take it from, so the row does the same to every core it visits. -/
theorem gotOnCore_core (p : PieceId) (d : Nat) (s : State) (i c : Nat) :
    (gotOnCore p d s i).core c = if 64 * d + i = c then gotPiece p (s.core c) else s.core c := by
  by_cases hw : (s.core (64 * d + i)).slots.any (fun t => t.2.keysPending.contains p) = true
  · rw [gotOnCore, if_pos hw, State.updCore_core]
    split
    · next hc => rw [hc]
    · rfl
  · rw [gotOnCore, if_neg hw]
    split
    · next hc => rw [← hc, gotPiece_of_no_wait (Bool.eq_false_iff.mpr hw)]
    · rfl

theorem foldl_gotOnCore_core (p : PieceId) (d c : Nat) (l : List Nat) (s : State) :
    (l.foldl (gotOnCore p d) s).core c = if c ∈ l.map (64 * d + ·) then gotPiece p (s.core c) else s.core c := by
  induction l generalizing s with
  | nil => rfl
  | cons i l ih =>
    rw [List.foldl_cons, ih, gotOnCore_core]
    by_cases hi : 64 * d + i = c
    · simp only [List.map_cons, List.mem_cons, hi, if_true, true_or, gotPiece_gotPiece, ite_self]
    · simp only [List.map_cons, List.mem_cons, hi, Ne.symm hi, if_false, false_or]

theorem foldl_gotOnCore_same (p : PieceId) (d : Nat) (l : List Nat) (s : State) :
    ∃ cs, l.foldl (gotOnCore p d) s = { s with cores := cs } := by
  induction l generalizing s with
  | nil => exact ⟨s.cores, rfl⟩
  | cons i l ih =>
    obtain ⟨cs, hcs⟩ := ih (gotOnCore p d s i)
    refine ⟨cs, ?_⟩
    rw [List.foldl_cons, hcs, gotOnCore]
    split <;> rfl

theorem mem_coresOfDie {d c : Nat} : c ∈ (List.range 64).map (64 * d + ·) ↔ c / 64 = d := by
  simp only [List.mem_map, List.mem_range]
  constructor
  · rintro ⟨i, hi, rfl⟩
    omega
  · intro h
    exact ⟨c % 64, by omega, by omega⟩

/-- The filling entry stands ready on its die with its expanded half. -/
def standReady (s : State) (d : Nat) (p : PieceId) : State :=
  s.updDie d (fun x => { x with
    cache := updWhere (fun e => e.piece == p) (fun e => { e with ready := true, aHalf := expandedHalf s p }) x.cache })

theorem standReady_cache (s : State) (d : Nat) (p : PieceId) :
    ((standReady s d p).die d).cache = updWhere (fun e => e.piece == p)
      (fun e => { e with ready := true, aHalf := expandedHalf s p }) (s.die d).cache := by
  rw [standReady, State.updDie_die, if_pos rfl]

theorem execPieceReady_fills {d : Fin 8} {p : PieceId} {s : State}
    (h : (s.die d.val).cache.any (fun e => e.piece == p && !e.ready) = true) :
    execPieceReady d p s = .next ((List.range 64).foldl (gotOnCore p d.val) (standReady s d.val p)) := by
  simp only [execPieceReady, h, Bool.not_true, Bool.false_eq_true, if_false]
  rfl

end Sys2Proof.Machine
end

section
/-! SUPPORT. Rebuild of a group and re-placement of near pieces (R161, R310, R311). -/

namespace Sys2Proof.Machine

open Sys2Proof

/-! Rebuild (R310, R311). -/

@[simp] theorem FarTier.setGroup_group (f : FarTier) (g : Nat) (v : FarGroup) : (f.setGroup g v).group g = v := by
  unfold FarTier.group FarTier.setGroup
  split <;> rfl
@[simp] theorem FarTier.setGroup_tags (f : FarTier) (g : Nat) (v : FarGroup) : (f.setGroup g v).tags = f.tags := by
  unfold FarTier.setGroup
  split <;> rfl
@[simp] theorem FarTier.setGroup_deltas (f : FarTier) (g : Nat) (v : FarGroup) : (f.setGroup g v).deltas = f.deltas := by
  unfold FarTier.setGroup
  split <;> rfl
@[simp] theorem FarTier.addParity_tags (f : FarTier) (a : Nat) (d : List Byte) : (f.addParity a d).tags = f.tags := rfl
@[simp] theorem FarTier.addParity_deltas (f : FarTier) (a : Nat) (d : List Byte) : (f.addParity a d).deltas = f.deltas := rfl

theorem FarTier.foldl_addParity_eq (l : List Delta) (f : FarTier) :
    ∃ p ts, l.foldl (fun f d => f.addParity d.addr d.data) f = { f with parity := p, parityTags := ts } := by
  induction l generalizing f with
  | nil => exact ⟨f.parity, f.parityTags, rfl⟩
  | cons d l ih =>
    obtain ⟨p, ts, h⟩ := ih (f.addParity d.addr d.data)
    exact ⟨p, ts, h⟩

/-- Accepting every delta changes the parity and its tags alone. -/
theorem FarTier.settled_eq (f : FarTier) : ∃ p ts, f.settled = { f with deltas := [], parity := p, parityTags := ts } :=
  FarTier.foldl_addParity_eq f.deltas { f with deltas := [] }

section
variable (grp : Nat) (f : FarTier)

theorem moveBlock_group (c : Nat) : (moveBlock grp f c).group grp = { f.group grp with watermark := c + 1 } :=
  FarTier.setGroup_group _ grp _

theorem moveBlock_tags (c : Nat) : (moveBlock grp f c).tags = f.tags := by
  simp only [moveBlock, FarTier.addParity_tags, FarTier.setGroup_tags, apply_ite FarTier.tags, ite_self]

theorem moveBlock_deltas (c : Nat) : (moveBlock grp f c).deltas = f.deltas := by
  simp only [moveBlock, FarTier.addParity_deltas, FarTier.setGroup_deltas, apply_ite FarTier.deltas, ite_self]

/-- What is left of a tier, but for its memories, once blocks of a group have moved: the watermark of the group stands behind
the last of them. -/
theorem foldl_moveBlock (l : List Nat) :
    (l.foldl (moveBlock grp) f).group grp =
        { f.group grp with watermark := l.foldl (fun _ c => c + 1) (f.group grp).watermark } ∧
      (l.foldl (moveBlock grp) f).tags = f.tags ∧ (l.foldl (moveBlock grp) f).deltas = f.deltas := by
  induction l generalizing f with
  | nil => exact ⟨rfl, rfl, rfl⟩
  | cons c l ih =>
    have h := ih (moveBlock grp f c)
    rwa [moveBlock_group, moveBlock_tags, moveBlock_deltas] at h

end

/-- The six blocks of the row at the watermark of a group (R309, R310). -/
def rowAt (w : Nat) : List Nat := (List.range 6).map (fun i => w + i)

/-- A tier with every delta accepted and the row at a group's watermark moved. -/
def rowMoved (grp : Nat) (f : FarTier) : FarTier :=
  (rowAt (f.group grp).watermark).foldl (moveBlock grp) (retest f.settled 0 farBytes)

theorem rowMoved_facts (grp : Nat) (f : FarTier) :
    (rowMoved grp f).group grp = { f.group grp with watermark := (f.group grp).watermark + 6 } ∧
      (rowMoved grp f).tags = f.tags ∧ (rowMoved grp f).deltas = [] := by
  obtain ⟨p, ts, hf⟩ := f.settled_eq
  have h := foldl_moveBlock grp (retest f.settled 0 farBytes) (rowAt (f.group grp).watermark)
  rw [hf] at h
  rw [rowMoved, hf]
  exact h

/-- A row that lies below the end of its group moves whole. -/
theorem filter_rowAt {w : Nat} (h : w + 6 ≤ groupBlocks) :
    ((List.range 6).map (fun i => w + i)).filter (fun c => decide (c < groupBlocks)) = rowAt w := by
  refine List.filter_eq_self.mpr fun c hc => ?_
  obtain ⟨i, hi, rfl⟩ := List.mem_map.mp hc
  exact decide_eq_true (Nat.lt_of_lt_of_le (Nat.add_lt_add_left (List.mem_range.mp hi) w) h)

/-- A row before the last of its group moves, and the rebuild goes on. -/
theorem execRebuildRowMove_moves {g : Fin 2} {s : State} (hr : (s.far.group g.val).rebuilding = true)
    (hawake : survivorSleeps s g.val = false) (hw : (s.far.group g.val).watermark + 6 < groupBlocks) :
    execRebuildRowMove g s = .next (s.updFar (rowMoved g.val)) := by
  have hmove : s.updFar (fun f => (rowAt (s.far.group g.val).watermark).foldl (moveBlock g.val) (retest f.settled 0 farBytes)) =
      s.updFar (rowMoved g.val) := by
    rw [State.updFar, State.updFar, rowMoved]
  obtain ⟨hgroup, -, -⟩ := rowMoved_facts g.val s.far
  simp only [execRebuildRowMove, hr, hawake, filter_rowAt (Nat.le_of_lt hw), hmove, State.updFar_far, hgroup, Nat.not_le.mpr hw,
    Bool.not_true, Bool.or_self, Bool.false_eq_true, if_false]

theorem execRebuildRowMove_idle {g : Fin 2} {s : State} (hr : (s.far.group g.val).rebuilding = false) :
    execRebuildRowMove g s = .next s := by
  simp only [execRebuildRowMove, hr, Bool.not_false, Bool.true_or, if_true]

/-! Near stacks (R161). -/

theorem execNearReplacementDone_without_stacks {s : State} (hp : s.near.toPlace = true) (hn : nearStacks s = []) :
    execNearReplacementDone s = .next (s.updNear (fun n => { n with toPlace := false, rootBack := [] })) := by
  simp only [execNearReplacementDone, hp, hn, List.isEmpty_nil, Bool.not_true, Bool.false_eq_true, if_true, if_false]

theorem execNearReplacementDone_places {s : State} (hp : s.near.toPlace = true) (hn : nearStacks s ≠ []) :
    execNearReplacementDone s = .next
      (let u := roomFor (nearStacks s)
         (sortBy (·.streamed) (s.tab.caddies.filter (fun c => c.st == .resident && !caddyBound s c.index))) s
       u.updNear (fun n => { n with toPlace := false, rootBack := [], pieces := (placeAll u (nearStacks s)
         (u.tab.caddies.filter (fun c => c.st == .resident))) })) := by
  have hsome : (nearStacks s).isEmpty = false := List.isEmpty_eq_false_iff.mpr hn
  simp only [execNearReplacementDone, hp, hsome, Bool.not_true, Bool.false_eq_true, if_false]

end Sys2Proof.Machine
end

section
/-! The family of the keys (06_keys.md): caddies, the pieces on their way to the dies, and what is lost and repaired. -/

namespace Sys2Proof

open Sys2Proof.Machine

/-- Settles O11: the load and the unload reach their handler with the mailbox BUSY, which nothing they read sees; the two rows
that end a copy find their caddy. -/
theorem caddyLifeCompletes : Obligations.CaddyLifeCompletes := by
  refine ⟨fun rq s b i ha hb hmin hlen hi => ⟨rfl, rfl, ?_⟩, fun caddy s c hc hst => ?_, fun caddy s c hc hcopy => ?_,
    fun rq s c ha hc hst hfree => ?_⟩
  · exact execCaddyLoad_checked (accepts_spec rfl ha) hb hmin hlen hi
  · exact execCaddyLoadDone_loading hc hst
  · exact execCaddyResident_copied hc hcopy
  · have hloaded : loadedCaddy s (leAt (bodyOf rq) 0 2) = some c := by
      rw [loadedCaddy, findCaddy, hc, Option.filter_some, if_pos (bne_iff_ne.mpr hst)]
    exact execCaddyUnload_unloads (accepts_spec rfl ha) hloaded hfree

/-- Settles O51: sending wakes stacks, which leaves the dies the broadcast reaches; arrival and readiness run the branch their
guards open, and readiness takes the piece from every waiting task of its die, core by core. -/
theorem keyPiecesAreSentKeptAndReady : Obligations.KeyPiecesAreSentKeptAndReady := by
  refine ⟨fun h s i hroot hi => ?_, fun h s hi => execPieceSend_idle hi,
    fun d p s hsent hkeep => execPieceArrive_discards hsent hkeep,
    fun d p s t c e hsent hkeep hnew hc he ht => execPieceArrive_keeps_piece hsent hkeep hnew hc he ht, fun d p s hfill => ?_⟩
  · have hwoken := touchPiece_woken s i.piece
    obtain ⟨ct, ds, hsame⟩ := hwoken.same
    refine ⟨_, execPieceSend_sends hroot hi, ?_, ?_, ?_, hwoken.die, ?_⟩
    all_goals simp only [hsame, State.updKey_key, State.updKey_tab, State.updKey_cores, State.updKey_near, State.updKey_far,
      and_self]
  · obtain ⟨cs, hcs⟩ := foldl_gotOnCore_same p d.val (List.range 64) (standReady s d.val p)
    have hcore := fun c => foldl_gotOnCore_core p d.val c (List.range 64) (standReady s d.val p)
    simp only [mem_coresOfDie] at hcore
    refine ⟨_, execPieceReady_fills hfill, ?_, fun c x hc hx => ?_, fun c => ?_, fun c hc => ?_, ?_⟩
    · rw [hcs]
      exact standReady_cache s d.val p
    · rw [hcore, if_pos hc] at hx
      exact gotPiece_waits_no_more hx
    · rw [hcore]
      split
      · exact gotPiece_slots_fst p (s.core c)
      · rfl
    · rw [hcore, if_neg hc]
      rfl
    · rw [hcs]
      exact ⟨rfl, rfl, rfl, rfl⟩

/-- Settles O54: a loss asks for its slice where its part still stands, a row of a rebuilding group moves by `rowMoved_facts`,
and the near pieces are placed anew where a stack is in service. -/
theorem stacksIslandsAndDiesAreLost : Obligations.StacksIslandsAndDiesAreLost := by
  refine ⟨fun d s hon hin => ?_, fun d s h => ?_, fun d s h => ?_, fun k s h => ?_, fun k s h => ?_, fun k s h => ?_,
    fun g s hr hawake hw => ?_, fun g s hr => execRebuildRowMove_idle hr,
    fun s hp hn => execNearReplacementDone_without_stacks hp hn, fun s hp hn => execNearReplacementDone_places hp hn⟩
  · rw [exec_dieLost, execDieLost, hon, hin]
    rfl
  · rw [exec_islandLost, execIslandLost, if_neg (Bool.eq_false_iff.mp h)]
  · rw [exec_islandLost, execIslandLost, if_pos h]
  · rw [exec_farStackLost, execFarStackLost, if_neg (Bool.eq_false_iff.mp h)]
  · rw [exec_farStackLost, execFarStackLost, if_pos h]
  · rw [exec_nearStackLost, execNearStackLost, if_neg (Bool.eq_false_iff.mp h)]
  · obtain ⟨hgroup, htags, hdeltas⟩ := rowMoved_facts g.val s.far
    refine ⟨_, execRebuildRowMove_moves hr hawake hw, ?_⟩
    simp only [State.updFar_far, hgroup, htags, hdeltas, State.updFar_tab, State.updFar_cores, State.updFar_dies, and_self]

end Sys2Proof
end

section
/-! SUPPORT. The program store (R202 to R204, R217): what PROGRAM_LOAD and PROGRAM_UNLOAD come to in a state that has taken
their request. -/

namespace Sys2Proof.Machine

open Sys2Proof

/-! What the load reads of a state that has taken its request. -/

section
variable (s : State) (c : Nat) (rq : MbxReq) (b : List Byte) (body : Body)

@[simp] theorem takenBy_runningIface : runningIface (takenBy s c rq) = runningIface s := by
  simp only [runningIface, takenBy_leadOr0, takenBy_hub]

@[simp] theorem takenBy_storeFull (len : Nat) : storeFull (takenBy s c rq) len = storeFull s len := by
  simp only [storeFull, takenBy_tab]

@[simp] theorem takenBy_newProgramIndex : newProgramIndex (takenBy s c rq) = newProgramIndex s := by
  simp only [newProgramIndex, takenBy_tab]

@[simp] theorem takenBy_programOf : programOf (takenBy s c rq) b body = programOf s b body := by
  simp only [programOf, takenBy_newProgramIndex, takenBy_findChain]

@[simp] theorem takenBy_decodedBody : decodedBody (takenBy s c rq) b body = decodedBody s b body := by
  simp only [decodedBody, takenBy_tab]

theorem takenBy_noteDecoded : noteDecoded (takenBy s c rq) b body = takenBy (noteDecoded s b body) c rq := by
  simp only [noteDecoded, takenBy_tab, takenBy_updTab]
  split <;> rfl

theorem takenBy_storeProgram : storeProgram (takenBy s c rq) b body = takenBy (storeProgram s b body) c rq := by
  simp only [storeProgram, takenBy_programOf, takenBy_updTab]

/-- Keeping a decoding (log 97) changes the list of decodings alone. -/
theorem noteDecoded_same : ∃ l, noteDecoded s b body = s.updTab (fun t => { t with decoded := l }) := by
  rw [noteDecoded]
  split
  · exact ⟨s.tab.decoded, rfl⟩
  · exact ⟨_, rfl⟩

/-- The program stored does not depend on the decoding kept before it. -/
theorem storeProgram_noteDecoded (d : Body) :
    storeProgram (noteDecoded s b d) b body = { noteDecoded s b d with
      tab := { (noteDecoded s b d).tab with programs := insertBy (·.index) (programOf s b body) s.tab.programs } } := by
  obtain ⟨l, hl⟩ := noteDecoded_same s b d
  rw [hl]
  rfl

end

/-! The verdict (R202, R203, R217, R325). -/

theorem image_has_stated_length {b : List Byte} {least o k : Nat} (hmin : least ≤ b.length) (hlen : leAt b o k = b.length) :
    (decide (b.length < least) || leAt b o k != b.length) = false := by
  rw [hlen, bne_self_eq_false, Bool.or_false, decide_eq_false (Nat.not_lt.mpr hmin)]

/-- The strainer's verdict on a container whose body decodes as given, in a state. -/
def verdict (s : State) (b : List Byte) (code : Body) : Option Rejection :=
  strain s.tab.chains (runningIface s) (storeFull s b.length) b code

section
variable {s : State} {rq : MbxReq} {b : List Byte} (body : Body) (h : accepted s (loadSpec 0x0028) rq = true)
  (hb : hostImage s rq.port (bodyOf rq) = some b) (hmin : 0x2C ≤ b.length) (hlen : leAt b 0x28 4 = b.length)
include h hb hmin hlen

/-- PROGRAM_LOAD of an image of the length it names, which the strainer accepts. -/
theorem execProgramLoad_accepts (hv : verdict s b (decodedBody s b body) = none) :
    execProgramLoad rq body s = .next (respondAs
      (storeProgram (noteDecoded s b (decodedBody s b body)) b (decodedBody s b body)) 0x0028 rq stOk 0
      (loadBody (newProgramIndex s) 0xFFFF 0xFFFF)) := by
  refine mailbox_accepted_done h ?_
  rw [verdict] at hv
  simp only [takenBy_hostImage, hb, image_has_stated_length hmin hlen, takenBy_decodedBody, takenBy_tab, takenBy_runningIface,
    takenBy_storeFull, hv, takenBy_noteDecoded, takenBy_storeProgram, takenBy_newProgramIndex, Bool.false_eq_true, if_false,
    Reply.okWith, loadSpec]

/-- PROGRAM_LOAD of such an image, which the strainer rejects: the decoding of its body is all that is kept. -/
theorem execProgramLoad_rejects {r : Rejection} (hv : verdict s b (decodedBody s b body) = some r) :
    execProgramLoad rq body s = .next (
      if r.code = 0x10 then respondAs (noteDecoded s b (decodedBody s b body)) 0x0028 rq stNoRoom 5 []
      else respondAs (noteDecoded s b (decodedBody s b body)) 0x0028 rq stStrainer r.code (loadBody 0xFFFF r.entry r.desc)) := by
  rw [verdict] at hv
  by_cases hcode : r.code = 0x10
  all_goals
    simp only [hcode, if_true, if_false]
    refine mailbox_accepted_done h ?_
    simp only [takenBy_hostImage, hb, image_has_stated_length hmin hlen, takenBy_decodedBody, takenBy_tab, takenBy_runningIface,
      takenBy_storeFull, hv, takenBy_noteDecoded, hcode, Bool.false_eq_true, if_true, if_false, Reply.fail, loadSpec]

end

/-- PROGRAM_UNLOAD of a loaded program that no live job names (R204). -/
theorem execProgramUnload_unloads {s : State} {rq : MbxReq} {p : Program} (h : accepted s (nameSpec 0x0029) rq = true)
    (hp : findProgram s (leAt (bodyOf rq) 0 2) = some p) (hfree : s.tab.jobs.any (fun j => j.progs.contains p.index) = false) :
    execProgramUnload rq s = .next (respondAs
      (s.updTab (fun v => { v with programs := v.programs.filter (fun x => x.index != p.index) })) 0x0029 rq stOk 0 []) := by
  refine mailbox_accepted_done h ?_
  simp only [takenBy_findProgram, hp, takenBy_tab, hfree, takenBy_updTab, Bool.false_eq_true, if_false, Reply.ok, nameSpec]

end Sys2Proof.Machine
end

section
/-! SUPPORT. The entry that the queue engine serves (R214, R333 to R335): what the row of an operation, of a flag command or
of NOP comes to where the served entry is of its kind. -/

namespace Sys2Proof.Machine

open Sys2Proof

/-! Operations (R208, R227, R233). -/

/-- The rows of the operations differ in their opcode and their effect alone. -/
theorem exec_of_opEffect {i : Instr} {n op : Nat} {f : OpRun → State → State} (h : opEffect i = some (n, op, f)) (s : State) :
    exec i s = runObj n op f s := by
  unfold opEffect at h
  split at h <;> cases h <;> rfl

section
variable {s : State} {n : Nat} {q : Queue} {c : Cmd} {j : Job} (hq : servedEntry s n = some (q, c, j))
include hq

/-- A RUN of the row's opcode that the queue engine serves: its bindings are checked in the state in which it has begun, then its
plan is formed, and a command with a tile has its effect. -/
theorem runOp_dispatches {p : Program} {e : Entry} {b : BodyEntry} (effect : OpRun → State → State)
    (hcmd : c.entry.cmd = cmdRun) (hgood : c.entry.bad = none) (ht : runTarget s j c.entry = some (p, e, b)) :
    runOp n e.opcode effect s = .next
      (if bindingFails (dispatched s q c j p e b).1 p (dispatched s q c j p e b).2 then
        abortCmd (dispatched s q c j p e b).1 n j.nextSerial.toNat stBinding 0
      else
        let u := launch (dispatched s q c j p e b).1 q (dispatched s q c j p e b).2
        if (tilesOf u n j.nextSerial.toNat).isEmpty then u else effect (dispatched s q c j p e b).2 u) := by
  simp only [runOp, hq, hcmd, hgood, ht, bne_self_eq_false, Option.isSome_none, Bool.or_self, Bool.false_eq_true, if_false]
  rfl

/-! NOP, bad entries, entries that name nothing (R334, R335). -/

theorem execNop_completes (hcmd : c.entry.cmd = cmdNop) (hgood : c.entry.bad = none) :
    execNop n s = .next (finish (beginCmd s q j) n j.nextSerial.toNat stOk 0) := by
  simp only [execNop, hq, hgood, hcmd, if_true]

theorem execNop_bad_entry {o : Nat} (hbad : c.entry.bad = some o) :
    execNop n s = .next (finish (beginCmd s q j) n j.nextSerial.toNat stBadEntry o) := by
  simp only [execNop, hq, hbad]

theorem execNop_names_nothing (hcmd : c.entry.cmd = cmdRun) (hgood : c.entry.bad = none)
    (ht : runTarget s j c.entry = none) :
    execNop n s = .next (abortCmd (beginCmd s q j) n j.nextSerial.toNat stBinding 0) := by
  have hnop : ¬ c.entry.cmd = cmdNop := hcmd ▸ by decide
  have hnothing : namesNothing s j c = true := by
    rw [namesNothing, hcmd, ht]
    rfl
  simp only [execNop, hq, hgood, if_neg hnop, hnothing, if_true]

/-! Flags (R214, R301, R334). -/

/-- A flag command of the row's kind dispatches; its flag is checked before anything is done with it. -/
theorem dispatchFlag_dispatches {kind : Nat} (go : State → Queue → Cmd → Nat → State) (hcmd : c.entry.cmd = kind)
    (hgood : c.entry.bad = none) :
    dispatchFlag s n kind go = if grantedRange (beginCmd s q j) j c.entry.flagAddr 8 then
      go (beginCmd s q j) q c j.nextSerial.toNat else abortCmd (beginCmd s q j) n j.nextSerial.toNat stBinding 0 := by
  simp only [dispatchFlag, hq, hcmd, hgood, bne_self_eq_false, Option.isSome_none, Bool.or_self, Bool.false_eq_true, if_false]
  cases grantedRange (beginCmd s q j) j c.entry.flagAddr 8 <;> rfl

theorem execFlagSet_dispatches (hr : setReady s n = false) (hcmd : c.entry.cmd = cmdFlagSet) (hgood : c.entry.bad = none) :
    execFlagSet n s = .next (if grantedRange (beginCmd s q j) j c.entry.flagAddr 8 then performSet (beginCmd s q j) n
      else abortCmd (beginCmd s q j) n j.nextSerial.toNat stBinding 0) := by
  rw [execFlagSet, if_neg (Bool.eq_false_iff.mp hr), dispatchFlag_dispatches hq _ hcmd hgood]

theorem execFlagWait_dispatches (hcmd : c.entry.cmd = cmdFlagWait) (hgood : c.entry.bad = none) :
    execFlagWait n s = .next (if grantedRange (beginCmd s q j) j c.entry.flagAddr 8 then
        registerWait (beginCmd s q j) n j.nextSerial.toNat c.entry.flagAddr c.entry.flagValue
      else abortCmd (beginCmd s q j) n j.nextSerial.toNat stBinding 0) := by
  rw [execFlagWait, dispatchFlag_dispatches hq _ hcmd hgood]

end

theorem execFlagSet_performs {s : State} {n : Nat} (hr : setReady s n = true) : execFlagSet n s = .next (performSet s n) := by
  rw [execFlagSet, if_pos hr]

end Sys2Proof.Machine
end

section
/-! SUPPORT. Waits in force (R214, R215, R300, R301, R339): the answer of a watch, the poll of a word, the timeout. -/

namespace Sys2Proof.Machine

open Sys2Proof

theorem FarTier.reached_eq_true_iff {f : FarTier} {addr : Nat} {t : W64} :
    f.reached addr t = true ↔ t.toNat ≤ (farWord f addr).toNat ∧ ∀ d ∈ f.deltas, d.block ≠ addr / blockBytes := by
  simp only [FarTier.reached, Bool.and_eq_true, decide_eq_true_eq, Bool.not_eq_true', List.any_eq_false, beq_iff_eq, ne_eq]

theorem FarTier.reached_eq_false_iff {f : FarTier} {addr : Nat} {t : W64} :
    f.reached addr t = false ↔ (farWord f addr).toNat < t.toNat ∨ ∃ d ∈ f.deltas, d.block = addr / blockBytes := by
  simp only [FarTier.reached, Bool.and_eq_false_iff, decide_eq_false_iff_not, Nat.not_le, Bool.not_eq_false', List.any_eq_true,
    beq_iff_eq]

theorem execWatchAnswer_due {k : Fin 16} {n : Nat} {s : State} {w : Watch}
    (hw : s.far.watches.find? (fun w => w.stack == k.val && w.number == n && w.due) = some w) :
    execWatchAnswer k n s = .next (endWait s w.queue) := by
  rw [execWatchAnswer, hw]

section
variable {n : Nat} {s : State} {q : Queue} {c : Cmd} (hw : waitOf s n = some (q, c))
include hw

theorem execWatchPoll_polling (hp : c.polling = true) :
    execWatchPoll n s = .next (if s.far.reached c.entry.flagAddr c.entry.flagValue then
      endWait (touchFar s c.entry.flagAddr) n else touchFar s c.entry.flagAddr) := by
  simp only [execWatchPoll, hw, hp, Bool.not_true, Bool.false_eq_true, if_false]

theorem execWatchPoll_watched (hp : c.polling = false) : execWatchPoll n s = .next s := by
  simp only [execWatchPoll, hw, hp, Bool.not_false, if_true]

theorem execFlagWaitTimeout_stalls {t : Nat} (ht : waitTicks c.waitLimit = some t) (hst : q.st = .running)
    (hlong : t ≤ s.since c.waitSince) :
    execFlagWaitTimeout n s = .next (postBoth (releaseBoundary (updQueue s n (fun q => { q with st := .stalled })) n)
      { code := 0x0006, job := q.job, queue := n, arg1 := c.entry.flagAddr }) := by
  have hdue : (q.st == .running && decide (t ≤ s.since c.waitSince)) = true := by
    rw [hst, decide_eq_true hlong]
    rfl
  simp only [execFlagWaitTimeout, hw, ht, hdue, if_true]

theorem execFlagWaitTimeout_unlimited (hl : c.waitLimit = 0) : execFlagWaitTimeout n s = .next s := by
  have ht : waitTicks c.waitLimit = none := by rw [waitTicks, if_pos hl]
  simp only [execFlagWaitTimeout, hw, ht]

end

end Sys2Proof.Machine
end

section
/-! The family of the programs (08_programs.md): the program store, the dispatch of operations and flag commands, the waits. -/

namespace Sys2Proof

open Sys2Proof.Machine

/-- Settles O12: the verdict depends on nothing that the request's mailbox or the decoding kept for its body (log 97) changes,
so each outcome is that of the state before; the decoding stays kept on a rejection too. -/
theorem programLoadAnswersTheStrainersVerdict : Obligations.ProgramLoadAnswersTheStrainersVerdict := by
  refine ⟨fun rq body s b ha hb hmin hlen => ?_, fun rq s p ha hp hfree => ?_⟩
  · rw [exec_programLoad]
    dsimp only
    cases hv : strain s.tab.chains (runningIface s) (storeFull s b.length) b (decodedBody s b body) with
    | none =>
      rw [execProgramLoad_accepts body (accepts_spec rfl ha) hb hmin hlen hv, storeProgram_noteDecoded]
      rfl
    | some r => exact execProgramLoad_rejects body (accepts_spec rfl ha) hb hmin hlen hv
  · exact execProgramUnload_unloads (accepts_spec rfl ha) hp hfree

/-- Settles O40: every operation is the one dispatch of its opcode and its effect; its whole effect is had at dispatch, once
for the command (log 43). -/
theorem operationsDispatchCheckAndRun : Obligations.OperationsDispatchCheckAndRun := by
  intro i n op f s q c j p e b hi hq hcmd hgood ht hop
  subst hop
  rw [exec_of_opEffect hi, runObj, runOp_dispatches hq _ hcmd hgood ht]
  exact ⟨fun hfails => by rw [if_pos hfails], fun hholds => by rw [if_neg (Bool.eq_false_iff.mp hholds)]⟩

/-- Settles O41: NOP answers by what the served entry is; a flag command is checked as it dispatches, and FLAG.SET dispatches
only where none that waits has its turn. -/
theorem flagCommandsAndNopComplete : Obligations.FlagCommandsAndNopComplete := by
  refine ⟨fun n s q c j hq hcmd hgood => ?nop, fun n o s q c j hq hbad => ?badEntry, fun n s q c j hq hcmd hgood ht => ?nothing,
    fun n s hr => ?ready, fun n s q c j hr hq hcmd hgood => ?set, fun n s q c j hq hcmd hgood => ?wait⟩
  case nop => exact execNop_completes hq hcmd hgood
  case badEntry => exact execNop_bad_entry hq hbad
  case nothing => exact execNop_names_nothing hq hcmd hgood ht
  case ready => exact execFlagSet_performs hr
  case set => exact execFlagSet_dispatches hq hr hcmd hgood
  case wait => exact execFlagWait_dispatches hq hcmd hgood

/-- Settles O42: a poll ends its wait exactly where the word is reached, which is a large enough value and no delta of its block
on its way. -/
theorem waitsEndOrTimeOut : Obligations.WaitsEndOrTimeOut := by
  refine ⟨fun k n s w hw => execWatchAnswer_due hw, fun n s q c hw hp hle hd => ?reached, fun n s q c hw hp hnot => ?notReached,
    fun n s q c hw hp => execWatchPoll_watched hw hp, fun n t s q c hw ht hst hlong => execFlagWaitTimeout_stalls hw ht hst hlong,
    fun n s q c hw hl => execFlagWaitTimeout_unlimited hw hl⟩
  case reached =>
    have hr : s.far.reached c.entry.flagAddr c.entry.flagValue = true := FarTier.reached_eq_true_iff.mpr ⟨hle, hd⟩
    rw [exec_watchPoll, execWatchPoll_polling hw hp, if_pos hr]
  case notReached =>
    have hr : s.far.reached c.entry.flagAddr c.entry.flagValue = false := FarTier.reached_eq_false_iff.mpr hnot
    rw [exec_watchPoll, execWatchPoll_polling hw hp, if_neg (Bool.eq_false_iff.mp hr)]

end Sys2Proof
end

section
/-! SUPPORT. The boundary command of a queue (R244 to R247): where BOUNDARY_COMMAND prefetches for it and where it leaves it
alone. -/

namespace Sys2Proof.Machine

open Sys2Proof

section
variable {n : Nat} {s : State} {q : Queue} {c : Cmd} (hq : findQueue s n = some q) (hb : boundaryOf q = some c)
include hq hb

theorem execBoundaryCommand_prefetches {j : Job} {p : Program} {e : Entry} {b : BodyEntry} (hj : findJob s q.job = some j)
    (hearly : c.early = false) (hpieces : c.pieces = []) (hst : q.st ≠ .stalled) (ht : runTarget s j c.entry = some (p, e, b)) :
    execBoundaryCommand n s = .next (prefetchBoundary s q j c p e b) := by
  have hstarts : (c.early || !c.pieces.isEmpty || q.st == .stalled) = false := by
    rw [hearly, hpieces, beq_false_of_ne hst]
    rfl
  simp only [execBoundaryCommand, hq, hb, hj, hstarts, Bool.false_eq_true, if_false, ht]

theorem execBoundaryCommand_leaves_held (hheld : c.early = true ∨ c.pieces ≠ []) : execBoundaryCommand n s = .next s := by
  have hholds : (c.early || !c.pieces.isEmpty || q.st == .stalled) = true := by
    rcases hheld with hearly | hpieces
    · rw [hearly, Bool.true_or, Bool.true_or]
    · rw [Bool.eq_false_iff.mpr (mt List.isEmpty_iff.mp hpieces), Bool.not_false, Bool.or_true, Bool.true_or]
  cases hj : findJob s q.job with
  | none => simp only [execBoundaryCommand, hq, hb, hj]
  | some j => simp only [execBoundaryCommand, hq, hb, hj, hholds, if_true]

end

end Sys2Proof.Machine
end

section
/-! The family of the scheduling (09_scheduling.md): the run-ahead window's boundary command. -/

namespace Sys2Proof

open Sys2Proof.Machine

/-- Settles O44: a boundary command that holds nothing is prefetched for, from a reading of its bound block and bitmap made here
and under the boundary serial until it dispatches (logs 65 and 144); one that holds something is left as it is. -/
theorem boundaryCommandPrefetches : Obligations.BoundaryCommandPrefetches := by
  refine ⟨fun n s q c j p e b hq hb hj hearly hpieces hst ht => ?prefetched, fun n s q c hq hb hheld => ?held⟩
  case prefetched =>
    rw [exec_boundaryCommand, execBoundaryCommand_prefetches hq hb hj hearly hpieces hst ht, prefetchBoundary]
  case held => rw [exec_boundaryCommand, execBoundaryCommand_leaves_held hq hb hheld]

end Sys2Proof
end

section
/-! SUPPORT. Remote accumulate packets (R284, R285, R393): what an answer changes, each outcome of a packet at its controller,
and what an answer or a timeout comes to at the source. -/

namespace Sys2Proof.Machine

open Sys2Proof

/-! The answer of a packet (R285): it changes the answers and the links alone. -/

@[simp] theorem answerPacket_far (s : State) (k : Nat) (p : AccPacket) (o : AccOutcome) : (answerPacket s k p o).far = s.far := by
  simp only [answerPacket]; split <;> simp
@[simp] theorem answerPacket_tab (s : State) (k : Nat) (p : AccPacket) (o : AccOutcome) : (answerPacket s k p o).tab = s.tab := by
  simp only [answerPacket]; split <;> simp
@[simp] theorem answerPacket_pa (s : State) (k : Nat) (p : AccPacket) (o : AccOutcome) : (answerPacket s k p o).pa = s.pa := by
  simp only [answerPacket]; split <;> simp
@[simp] theorem answerPacket_pb (s : State) (k : Nat) (p : AccPacket) (o : AccOutcome) : (answerPacket s k p o).pb = s.pb := by
  simp only [answerPacket]; split <;> simp

theorem answerPacket_answers (s : State) (k : Nat) (p : AccPacket) (o : AccOutcome) :
    (answerPacket s k p o).fab.answers = s.fab.answers ++
      [(p.srcDev, { rjob := p.rjob, srcDie := p.srcDie, seq := p.seq, stack := k, outcome := o })] := by
  simp only [answerPacket]; split <;> simp

/-! The outcomes of a packet at its controller (R284), in the order of the controller's tests. -/

section
variable {s : State} {p : AccPacket}

theorem receivePacket_resend (hbad : packetIntact p = false) :
    receivePacket s p = answerPacket s (packetStack s p.dstAddr) p .resend := by
  rw [receivePacket, hbad]; rfl

variable (hok : packetIntact p = true)
include hok

theorem receivePacket_no_job (hj : acceptingJob s p = none) :
    receivePacket s p = answerPacket (postRejected s 0xFFFF p) (packetStack s p.dstAddr) p .rejected := by
  rw [receivePacket, hok, hj]; rfl

variable {j : Job} (hj : acceptingJob s p = some j) (hopen : (windowOf s (packetStack s p.dstAddr) p).isSealed = false)
  (hlive : s.fab.workers.any (fun x => x.dev == p.srcDev && x.lost) = false)
include hj hopen hlive

theorem receivePacket_duplicate
    (hseen : 2 ^ 31 ≤ (p.seq + 2 ^ 32 - (windowOf s (packetStack s p.dstAddr) p).floor.toNat) % 2 ^ 32 ∨
      bitSet (windowOf s (packetStack s p.dstAddr) p).map (p.seq % 4096) = true) :
    receivePacket s p = answerPacket s (packetStack s p.dstAddr) p .duplicate := by
  simp only [receivePacket, hok, hj, hopen, hlive, if_pos hseen, Bool.not_true, Bool.or_self, Bool.false_eq_true, if_false]

theorem receivePacket_takes
    (hwithin : (p.seq + 2 ^ 32 - (windowOf s (packetStack s p.dstAddr) p).floor.toNat) % 2 ^ 32 < 4096)
    (hnew : bitSet (windowOf s (packetStack s p.dstAddr) p).map (p.seq % 4096) = false) :
    receivePacket s p = takePacket s (packetStack s p.dstAddr) j p (windowOf s (packetStack s p.dstAddr) p) := by
  have hseen : ¬(2 ^ 31 ≤ (p.seq + 2 ^ 32 - (windowOf s (packetStack s p.dstAddr) p).floor.toNat) % 2 ^ 32 ∨
      bitSet (windowOf s (packetStack s p.dstAddr) p).map (p.seq % 4096) = true) := by
    rintro (hbelow | hmarked)
    · omega
    · exact Bool.eq_false_iff.mp hnew hmarked
  simp only [receivePacket, hok, hj, hopen, hlive, if_neg hseen, if_neg (Nat.not_le.mpr hwithin), Bool.not_true,
    Bool.or_self, Bool.false_eq_true, if_false]

end

theorem execMergeHdr_merge {p : AccPacket} (hmerge : p.aop = aopMerge) (s : State) :
    execMergeHdr p s = .next (receivePacket s p) := by
  rw [execMergeHdr, if_pos hmerge]

/-! At the source (R285, R393): the packet that an answer or a timeout names. -/

section
variable {a : AccAnswer} {s : State} {p : OutPacket} (hp : sentPacket s a.srcDie a.rjob a.stack a.seq = some p)
include hp

theorem execAccumulateAnswer_taken (ho : a.outcome = .applied ∨ a.outcome = .duplicate) :
    execAccumulateAnswer a s = .next (ackPacket s a.srcDie p false) := by
  rcases ho with ho | ho <;> simp only [execAccumulateAnswer, hp, ho]

theorem execAccumulateAnswer_rejected (ho : a.outcome = .rejected) :
    execAccumulateAnswer a s = .next (ackPacket s a.srcDie p true) := by
  simp only [execAccumulateAnswer, hp, ho]

theorem execAccumulateAnswer_resend (ho : a.outcome = .resend) :
    execAccumulateAnswer a s = .next (resendPacket s a.srcDie p) := by
  simp only [execAccumulateAnswer, hp, ho]

end

theorem execPacketResendTimeout_names {d : Fin 8} {r k q : Nat} {s : State} {p : OutPacket}
    (hp : sentPacket s d.val r k q = some p) :
    execPacketResendTimeout d r k q s =
      .next (if 2000000 ≤ s.since p.lastSent then resendPacket s d.val p else s) := by
  simp only [execPacketResendTimeout, hp]
  rfl

end Sys2Proof.Machine
end

section
/-! The family of the training (11_training.md): remote accumulates. -/

namespace Sys2Proof

open Sys2Proof.Machine

/-- Settles O52, by the controller's tests in the order of R284: the first that fails gives the outcome, and a packet that passes
them all is taken; at the source, by the outcome of the answer and by the 20 ms of R393. -/
theorem accumulatePacketsAreTakenOnce : Obligations.AccumulatePacketsAreTakenOnce := by
  refine ⟨fun p s hbad => ?corrupt, fun p s hok hj => ?noJob, fun p s j hok hj hopen hlive hseen => ?duplicate,
    fun p s j hok hj hopen hlive hwithin hnew => ?taken, fun a s p hp => ?answer, fun d r k q s p hp => ?timeout⟩
  case corrupt => rw [exec_accumulatePacket, execAccumulatePacket, receivePacket_resend hbad]
  case noJob => rw [exec_accumulatePacket, execAccumulatePacket, receivePacket_no_job hok hj]
  case duplicate =>
    refine ⟨answerPacket s (packetStack s p.dstAddr) p .duplicate, ?_, answerPacket_far .., answerPacket_tab ..,
      answerPacket_pa .., answerPacket_pb .., answerPacket_answers ..⟩
    rw [exec_accumulatePacket, execAccumulatePacket, receivePacket_duplicate hok hj hopen hlive hseen]
  case taken =>
    have htakes := receivePacket_takes hok hj hopen hlive hwithin hnew
    refine ⟨?_, fun hmerge => ?_⟩
    · rw [exec_accumulatePacket, execAccumulatePacket, htakes]
    · rw [exec_mergeHdr, execMergeHdr_merge hmerge, htakes]
  case answer =>
    rw [exec_accumulateAnswer]
    exact ⟨execAccumulateAnswer_taken hp, execAccumulateAnswer_rejected hp, execAccumulateAnswer_resend hp⟩
  case timeout =>
    rw [exec_packetResendTimeout, execPacketResendTimeout_names hp]
    exact ⟨fun hdue => by rw [if_pos hdue], fun hearly => by rw [if_neg (Nat.not_le.mpr hearly)]⟩

end Sys2Proof
end

section
/-! SUPPORT. Memory-side operations (R298, R300, R301): what each comes to at a word of the far tier, and what stands in the far
tier once the word is written. -/

namespace Sys2Proof.Machine

open Sys2Proof

theorem isFarWord_eq_farWordWf (a : Nat) : isFarWord a = farWordWf a := rfl

/-! Each operation by its value (R300). -/

section
variable {a : Nat} (v : W64) (s : State)

section
variable (ha : farWordWf a = true)
include ha

theorem execFadd64_adds : execFadd64 ⟨1, a⟩ v s = .next (fadd64 s a v) := by
  simp [execFadd64, memoryOperation, isFarWord_eq_farWordWf, ha]

theorem execSet64_sets : execSet64 a v s = .next (setWord (touchFar (raceWord s a false) a) a v) := by
  simp [execSet64, memoryOperation, isFarWord_eq_farWordWf, ha]

theorem execWatch64_watches (q : Nat) : execWatch64 a v q s = .next (watch64 s a v q) := by
  simp [execWatch64, memoryOperation, isFarWord_eq_farWordWf, ha]

theorem execFadd64_reserved {k : BitVec 4} (hk : k.toNat = 0 ∨ 5 ≤ k.toNat) :
    execFadd64 ⟨k, a⟩ v s = .next (reservedOperation s k.toNat a) := by
  simp only [execFadd64, memoryOperation, isFarWord_eq_farWordWf, ha, Bool.not_true, Bool.false_eq_true, if_false]
  split
  · omega
  · omega
  · omega
  · omega
  · rfl

end

theorem memoryOperation_no_word (code q : Nat) (ha : farWordWf a = false) : memoryOperation code a v q s = .fault .noMemory := by
  simp [memoryOperation, isFarWord_eq_farWordWf, ha]

end

/-! What is read of a block (R297, R298): its bytes, its tag, and whether its stack is lost. -/

theorem FarTier.stored_congr {f g : FarTier} (hm : g.mem = f.mem) (b : Nat) : g.stored b = f.stored b := by
  rw [FarTier.stored, hm, FarTier.stored]

theorem FarTier.tag_congr {f g : FarTier} (ht : g.tags = f.tags) (b : Nat) : g.tag b = f.tag b := by
  rw [FarTier.tag, ht, FarTier.tag]

/-- A block on a stack in service is read as it is stored. -/
theorem mergeBase_in_service {f : FarTier} {b : Nat} (hl : (f.group (b % 2)).onLost (b / 2) = false) :
    mergeBase f b = if (f.tag b).st = .never then zeros blockBytes else f.stored b := by
  simp only [mergeBase, FarTier.bytes, hl, Bool.not_false, if_true, Option.getD_some]

section
variable {f g : FarTier} (hm : g.mem = f.mem) (ht : g.tags = f.tags) (hg : ∀ i, g.group i = f.group i)
include hm ht hg

theorem mergeBase_congr {b : Nat} (hl : (f.group (b % 2)).onLost (b / 2) = false) : mergeBase g b = mergeBase f b := by
  rw [mergeBase_in_service hl, mergeBase_in_service (by rw [hg]; exact hl), FarTier.tag_congr ht, FarTier.stored_congr hm]

theorem farWord_congr {a : Nat} (hl : (f.group (a / 4096 % 2)).onLost (a / 4096 / 2) = false) : farWord g a = farWord f a := by
  rw [farWord, farWord, blockBytes, mergeBase_congr hm ht hg hl]

end

/-- Waking stacks changes nothing that is read of a block. -/
theorem Woken.blocks {s t : State} (h : Woken s t) :
    t.far.mem = s.far.mem ∧ t.far.tags = s.far.tags ∧ ∀ g, t.far.group g = s.far.group g := by
  obtain ⟨_, _, rfl⟩ := h.same
  exact ⟨rfl, rfl, fun _ => rfl⟩

/-! A word written (R298, R300). -/

/-- Where no running command meets the word, no command becomes undefined. -/
theorem raceWord_untouched {s : State} {a : Nat} (adds : Bool)
    (h : s.tab.queues.any (fun q => q.cmds.any (·.touches (a, 8, 0))) = false) : (raceWord s a adds).tab = s.tab := by
  refine raceWhere_none ?_
  simp only [List.any_eq_false, Bool.not_eq_true] at h ⊢
  exact fun q hq c hc => by rw [h q hq c hc, Bool.false_and]

/-- From s to t a word of the far tier takes the value v, in a request that `adds` to it or stores it: its block and the tag, no
other block, no more of the device than the stacks that woke and the commands that raced. -/
structure WordWritten (s t : State) (a : Nat) (v : W64) (adds : Bool) : Prop where
  inService : (t.far.group (a / 4096 % 2)).onLost (a / 4096 / 2) = false
  word : farWord t.far a = v
  prior : t.far.prior = s.far.prior
  stored : t.far.stored (a / 4096) = splice (mergeBase s.far (a / 4096)) (a % 4096) (leBytes 8 v.toNat)
  tag : t.far.tag (a / 4096) = { st := .checked, check := crc32c (t.far.stored (a / 4096)) }
  others : ∀ b, b ≠ a / 4096 → t.far.stored b = s.far.stored b ∧ t.far.tag b = s.far.tag b
  tab : t.tab = (raceWord s a adds).tab
  cores : t.cores = s.cores
  die : ∀ d, { t.die d with netGated := (s.die d).netGated, netIdleSince := (s.die d).netIdleSince } = s.die d
  record : t.record = s.record
  pa : t.pa = s.pa
  pb : t.pb = s.pb

/-- Keeping the prior value for the requester leaves the word. -/
theorem WordWritten.word_updPrior {s t : State} {a : Nat} {v : W64} {adds : Bool} (h : WordWritten s t a v adds) (p : W64) :
    farWord (t.updFar (fun f => { f with prior := p })).far a = v := by
  rw [State.updFar_far, farWord_congr (f := t.far) (g := { t.far with prior := p }) rfl rfl (fun _ => rfl) h.inService, h.word]

/-- An aligned word lies inside one block: once its stacks are awake, writing it writes that block. -/
theorem setWord_writes_block {s : State} {a : Nat} (v : W64) (ha : a % 8 = 0)
    (hl : (s.far.group (a / 4096 % 2)).onLost (a / 4096 / 2) = false) :
    ∃ w f, Woken s w ∧ setWord s a v = { w with far := f } ∧
      BlockWritten w.far f (a / 4096) (splice (mergeBase w.far (a / 4096)) (a % 4096) (leBytes 8 v.toNat))
        { st := .checked, check := crc32c (splice (mergeBase w.far (a / 4096)) (a % 4096) (leBytes 8 v.toNat)) } := by
  have hfits : a % 4096 + (leBytes 8 v.toNat).length ≤ 4096 := by rw [leBytes_length]; omega
  have hbytes : leBytes 8 v.toNat ≠ [] := List.ne_nil_of_length_eq_add_one (leBytes_length 8 _)
  have hw := touchBlocks_woken s true (blocksOf a (leBytes 8 v.toNat).length)
  obtain ⟨f, he, hf⟩ := deviceWriteBlock_written hfits (by rw [hw.blocks.2.2]; exact hl)
  exact ⟨_, f, hw, (deviceWrite_one s hbytes hfits).trans he, hf⟩

theorem setWord_wordWritten {s : State} {a : Nat} (v : W64) (adds : Bool) (ha : farWordWf a = true)
    (hl : (s.far.group (a / 4096 % 2)).onLost (a / 4096 / 2) = false) :
    WordWritten s (setWord (touchFar (raceWord s a adds) a) a v) a v adds := by
  have haligned : a % 8 = 0 := by simp only [farWordWf, Bool.and_eq_true, beq_iff_eq] at ha; exact ha.1
  have htouch := touchFar_woken (raceWord s a adds) a
  obtain ⟨w, f, hwrite, he, hf⟩ := setWord_writes_block v haligned (by rw [htouch.blocks.2.2]; exact hl)
  have hw := htouch.trans hwrite
  obtain ⟨hmem, htags, hgroup⟩ := hw.blocks
  have hlw : (w.far.group (a / 4096 % 2)).onLost (a / 4096 / 2) = false := by rw [hgroup]; exact hl
  obtain ⟨_, _, _, hprior, _⟩ := hf.rest
  obtain ⟨ct, ds, hsame⟩ := hw.same
  rw [he]
  exact {
    inService := by
      obtain ⟨h0, h1⟩ := hf.groups
      simpa only [FarTier.group, h0, h1] using hlw
    word := farWord_written haligned hlw (by simp) hf
    prior := by rw [hprior, hsame]; rfl
    stored := by rw [hf.stored, mergeBase_congr hmem htags hgroup hl]; rfl
    tag := by rw [hf.tag, hf.stored]
    others := fun b hb => by
      rw [(hf.others b hb).1, (hf.others b hb).2]
      exact ⟨FarTier.stored_congr hmem b, FarTier.tag_congr htags b⟩
    tab := by rw [hsame]
    cores := by rw [hsame]; rfl
    die := hw.die
    record := by rw [hsame]; rfl
    pa := by rw [hsame]; rfl
    pb := by rw [hsame]; rfl }

/-! Watches (R301). -/

section
variable {a q : Nat} {s : State} (v : W64)

theorem watch64_watched (hw : watched s q a = true) : watch64 s a v q = touchFar s a := by
  simp only [watch64, hw, if_true]

theorem watch64_polls (hw : watched s q a = false) (hn : freeWatch s (controllerOf s.far a) = none) :
    watch64 s a v q = markPolling (touchFar s a) q a true := by
  simp only [watch64, hw, hn, Bool.false_eq_true, if_false]

theorem watch64_registers {n : Nat} (hw : watched s q a = false) (hn : freeWatch s (controllerOf s.far a) = some n) :
    watch64 s a v q = markPolling ((touchFar s a).updFar (fun f => { f with watches := f.watches ++
      [{ stack := controllerOf s.far a, number := n, addr := a, threshold := v, queue := q
         due := s.far.reached a v }] })) q a false := by
  simp only [watch64, hw, hn, Bool.false_eq_true, if_false]

end

end Sys2Proof.Machine
end

section
/-! SUPPORT. How a command can end: no row of the table is refused, and a check of the units it names fails under a name of its
own (R13, R294, R318, R330, R477). -/

namespace Sys2Proof.Machine

open Sys2Proof

/-! No refusal. -/

theorem next_ne_refused (t : State) (r : Refusal) : (.next t : Result) ≠ .refused r := nofun

theorem ite_ne_refused {c : Prop} [Decidable c] {a b : Result} {r : Refusal} (ha : a ≠ .refused r) (hb : b ≠ .refused r) :
    (if c then a else b) ≠ .refused r := by
  split
  · exact ha
  · exact hb

/-- A row with one check of the units it names. -/
theorem checked_ne_refused {c : Prop} [Decidable c] {f : Fault} {t : State} {r : Refusal} :
    (if c then .fault f else .next t : Result) ≠ .refused r := ite_ne_refused nofun nofun

theorem mailbox_ne_refused (s : State) (spec : CmdSpec) (rq : MbxReq) (handler : State → List Byte → Reply) (r : Refusal) :
    mailbox s spec rq handler ≠ .refused r := by
  rcases Nat.lt_or_ge rq.box 64 with hbox | hbox
  · obtain ⟨t, ht⟩ := mailbox_next s spec handler hbox
    rw [ht]
    exact next_ne_refused t r
  · rw [mailbox_box s spec handler hbox]
    nofun

theorem doorbell_ne_refused {s : State} {p : Port} {q : Nat} {v : W64} {r : Refusal} : doorbell s p q v ≠ .refused r :=
  ite_ne_refused nofun (ite_ne_refused nofun (ite_ne_refused nofun nofun))

theorem execRegisterWrite_ne_refused {path : RegPath} {off : Nat} {data : List Byte} {s : State} {r : Refusal} :
    execRegisterWrite path off data s ≠ .refused r := by
  cases path with
  | bar0 p => exact checked_ne_refused
  | sideband h => exact checked_ne_refused

theorem execInstructionComplete_ne_refused {core id : Nat} {s : State} {r : Refusal} :
    execInstructionComplete core id s ≠ .refused r := ite_ne_refused nofun (ite_ne_refused nofun nofun)

theorem execBar2Read_ne_refused {p : Port} {off n : Nat} {s : State} {r : Refusal} : execBar2Read p off n s ≠ .refused r :=
  ite_ne_refused nofun (ite_ne_refused nofun (ite_ne_refused nofun (ite_ne_refused nofun nofun)))

theorem execBar2Write_ne_refused {p : Port} {off : Nat} {data : List Byte} {s : State} {r : Refusal} :
    execBar2Write p off data s ≠ .refused r := ite_ne_refused nofun (ite_ne_refused nofun nofun)

/-- A row of no mailbox: a doorbell, a register, a row with one check of the units it names, or one with none. -/
theorem exec_ne_refused_of_no_mailbox {i : Instr} (hrow : mbxRow i = none) (s : State) (r : Refusal) : exec i s ≠ .refused r := by
  cases i <;> cases hrow
  case sqTail | cqHead => exact doorbell_ne_refused
  case registerWrite => exact execRegisterWrite_ne_refused
  case bar2Read => exact execBar2Read_ne_refused
  case bar2Write => exact execBar2Write_ne_refused
  case instructionComplete => exact execInstructionComplete_ne_refused
  case launchDoorbellApply | taskPlace | claim | taskComplete | passNotice | nttFwdInstruction | nttInvInstruction | mxaMatmul
      | inner | bconvFast | bconvExact | vxeChain | dma | dmaTransferStart | fold | foldApply | signal | wait | fenceSlot
      | fenceKey | scalarInstruction | eventTimeout | fadd64 | set64 | watch64 | farBlockRead | farBlockWrite | scrub
      | beatError | laneFault | coreFault | coreFenceDone | selfRefreshEntry | linkLaneFail | sensorSample | sleepTimeout
      | pllLock => exact checked_ne_refused
  all_goals exact next_ne_refused _ _

theorem exec_ne_refused (i : Instr) (s : State) (r : Refusal) : exec i s ≠ .refused r := by
  cases hm : mbxRow i with
  | none => exact exec_ne_refused_of_no_mailbox hm s r
  | some row =>
    obtain ⟨spec, rq⟩ := row
    obtain ⟨handler, hexec⟩ := exec_mailbox hm
    rw [hexec]
    exact mailbox_ne_refused s spec rq handler r

end Sys2Proof.Machine
end

section
/-! The family of the memory (12_memory.md): every memory stays in its canonical form, the memory-side operations, and how a
command ends that names no unit. -/

namespace Sys2Proof

open Sys2Proof.Machine

/-- Settles O56: the front command keeps the memories of the state it runs in, which is s without that command, whatever it is;
a tick of an empty queue keeps them too. -/
theorem stepKeepsMemoriesCanonical : Obligations.StepKeepsMemoriesCanonical := by
  intro s t hwf hstep
  cases hqueue : s.pending with
  | nil =>
    simp only [step, hqueue, Host.Outcome.next.injEq] at hstep
    subst hstep
    exact (gcountTick_keeps (Keeps.refl s)).memories hwf
  | cons i rest =>
    simp only [step, hqueue] at hstep
    exact ((exec_keeps i { s with pending := rest }).out t hstep).memories hwf

/-- Settles O33, by the checks each row makes of the units it names: a well-formed command passes them, and one that fails them
stops with a fault. -/
theorem wellFormedCommandsAnswerANextState : Obligations.WellFormedCommandsAnswerANextState :=
  ⟨exec_answers, exec_ne_refused⟩

/-- Settles O49: an aligned word lies inside one block, so a write of it is one write of that block; the other operations come to
the state their value names. -/
theorem memorySideOperationsActOnWords : Obligations.MemorySideOperationsActOnWords := by
  refine ⟨fun a v s ha hl => ?add, fun a v s ha hl => ?set, fun a q n v s ha hw hn => ?registers, fun a q v s ha hw hn => ?polls,
    fun a q v s ha hw => ?watched, fun k a v s ha hk => ?reserved, fun k n s => rfl⟩
  case add =>
    have h := setWord_wordWritten (farWord s.far a + v) true ha hl
    exact ⟨fadd64 s a v, execFadd64_adds v s ha, h.word_updPrior _, rfl, h.stored, h.tag, h.others, h.tab,
      fun hnone => h.tab.trans (raceWord_untouched true hnone), h.cores, h.die, h.record, h.pa, h.pb⟩
  case set =>
    have h := setWord_wordWritten v false ha hl
    exact ⟨_, execSet64_sets v s ha, h.word, h.prior, h.stored, h.others, h.tab,
      fun hnone => h.tab.trans (raceWord_untouched false hnone), h.cores, h.die, h.record, h.pa, h.pb⟩
  case registers => rw [exec_watch64, execWatch64_watches v s ha, watch64_registers v hw hn]; rfl
  case polls => rw [exec_watch64, execWatch64_watches v s ha, watch64_polls v hw hn]
  case watched => rw [exec_watch64, execWatch64_watches v s ha, watch64_watched v hw]
  case reserved => exact execFadd64_reserved v s ha hk

/-- Settles O34, by the first check of each row (log 40). -/
theorem commandsNamingNoUnitStop : Obligations.CommandsNamingNoUnitStop := by
  refine ⟨fun p q v s h => ?queue, fun c s h => ?core, fun p s h => ?physical, fun k l s h => if_pos h, fun k s h => if_pos h,
    fun n r s h => ?sensor, fun p e s h => ?path, fun p o n s h => if_pos h, fun c a v s h => ?word, fun b o d s h => ?block⟩
  case queue => exact ⟨if_pos h, if_pos h⟩
  case core => exact ⟨if_pos h, if_pos h, if_pos h, if_pos h⟩
  case physical => exact ⟨if_pos h, if_pos h⟩
  case sensor => exact if_pos (by rw [h]; rfl)
  case path => exact if_pos (by rw [pathWf_eq_wf, h]; rfl)
  case word => exact ⟨memoryOperation_no_word v s _ 0 h, memoryOperation_no_word v s 2 0 h⟩
  case block =>
    refine if_pos ?_
    rw [Bool.or_eq_true, decide_eq_true_eq, decide_eq_true_eq]
    exact h.imp_left fun hb => Nat.not_lt.mp (of_decide_eq_false hb)

end Sys2Proof
end

section
/-! SUPPORT. One step: a tick of an empty queue, or the front command in the state without it; both leave the waiting commands
alone. -/

namespace Sys2Proof.Machine

open Sys2Proof

theorem step_of_empty {s : State} (h : s.pending = []) : step s = .next (gcountTick s) := by rw [step, h]

theorem step_of_front {s : State} {i : Instr} {rest : List Instr} (h : s.pending = i :: rest) :
    step s = exec i { s with pending := rest } := by rw [step, h]

theorem gcountTick_pending (s : State) : (gcountTick s).pending = s.pending := (gcountTick_keeps (Keeps.refl s)).1

theorem exec_pending {i : Instr} {s t : State} (h : exec i s = .next t) : t.pending = s.pending := ((exec_keeps i s).out t h).1

end Sys2Proof.Machine
end

section
/-! SUPPORT. The two ends of a mailbox command before its handler (R320 to R322): a doorbell that is ignored, and a check that
fails. -/

namespace Sys2Proof.Machine

open Sys2Proof

theorem ring_ignored {s : State} {rq : MbxReq} (code : Nat)
    (h : (getMailbox s rq.port rq.box).st = .busy ∨ (getMailbox s rq.port rq.box).st = .done) : ring s code rq = none := by
  rcases h with h | h
  all_goals simp only [ring, h]

section
variable {s : State} {spec : CmdSpec} {rq : MbxReq} (handler : State → List Byte → Reply) (hbox : rq.box < 64)
  (hr : reaches s rq.port = true)
include hbox hr

theorem mailbox_busy_or_done
    (h : (getMailbox s rq.port rq.box).st = .busy ∨ (getMailbox s rq.port rq.box).st = .done) :
    mailbox s spec rq handler = .next s := by
  simp only [mailbox, if_neg (Nat.not_le.mpr hbox), hr, ring_ignored spec.code h, Bool.not_true, Bool.false_eq_true, if_false]

/-- A request taken at once that fails a check is answered from the state that took it, with one free value used (logs 2 and
17). -/
theorem mailbox_failed_check {status detail : Nat} (hf : (getMailbox s rq.port rq.box).st = .free) (ho : s.dev.mbxOrder = [])
    (hs : servesMailboxes s (checkPort s rq.port) = true) (ht : takeoverDue s = false)
    (hc : checkRequest (takenBy s spec.code rq) spec rq = some (status, detail)) :
    mailbox s spec rq handler =
      .next { respondAs (takenBy s spec.code rq) spec.code rq status detail [] with freeCtr := s.freeCtr + 1 } := by
  obtain ⟨r, hring, htake⟩ := ring_take (code := spec.code) hf ho
  simp only [mailbox, if_neg (Nat.not_le.mpr hbox), hr, hring, hs, ht, htake, hc, Bool.not_true, Bool.or_self, Bool.false_eq_true,
    if_false, takenBy_freeCtr]

end

end Sys2Proof.Machine
end

section
/-! SUPPORT. The five queries (R324, R428): their bodies read nothing that a request taken in its mailbox changes. -/

namespace Sys2Proof.Machine

open Sys2Proof

section
variable (s : State) (c : Nat) (rq : MbxReq)

@[simp] theorem takenBy_infoBody (p : Port) : infoBody (takenBy s c rq) p = infoBody s p := by
  simp only [infoBody, coresInService, freeExtents, takenBy_portDstate, takenBy_dev, takenBy_coreInService, takenBy_now,
    takenBy_freeOctets, takenBy_far]

@[simp] theorem takenBy_svcBody : svcBody (takenBy s c rq) = svcBody s := by
  simp only [svcBody, takenBy_h0, takenBy_h1, takenBy_dev, takenBy_far, takenBy_nearStacks, takenBy_die, takenBy_physCore,
    takenBy_leadOr0, takenBy_hub]

end

/-- Physical core k of die d is number 72 d + k (R13). -/
theorem length_filter_physOf (d : Nat) (p : Nat → Bool) :
    ((physOf d).filter p).length = ((List.range 72).filter (fun k => p (72 * d + k))).length := by
  rw [physOf, List.filter_map, List.length_map]
  rfl

end Sys2Proof.Machine
end

section
/-! SUPPORT. The owners and tags that MEM_GRANT and MEM_RELEASE change (R297, R299, R326). -/

namespace Sys2Proof.Machine

open Sys2Proof

/-- The tags left where those of the blocks of some extents are removed. -/
def tagsOutside (es : List Nat) (tags : Tab BlockTag) : Tab BlockTag :=
  tags.filter (fun t => !es.contains (t.1 * 4096 / 0x4000000))

theorem tagsOutside_nil (tags : Tab BlockTag) : tagsOutside [] tags = tags := List.filter_eq_self.mpr fun _ _ => rfl

theorem tagsOutside_clearTags (es : List Nat) (f : FarTier) (e : Nat) :
    tagsOutside es (clearTags f e).tags = tagsOutside (e :: es) f.tags := by
  rw [tagsOutside, clearTags, List.filter_filter]
  refine List.filter_congr fun t _ => ?_
  rw [List.contains_cons, Bool.not_or, Bool.and_comm]
  rfl

/-- Granting extents one after another. -/
theorem foldl_grantExtent (owner : Nat) (es : List Nat) (s : State) :
    es.foldl (fun t e => grantExtent t owner e) s = { s with far := { s.far with
      tags := tagsOutside es s.far.tags
      owners := es.foldl (fun o e => tabSet o e owner) s.far.owners } } := by
  induction es generalizing s with
  | nil => rw [tagsOutside_nil]; rfl
  | cons e es ih =>
    rw [List.foldl_cons, ih, List.foldl_cons, ← tagsOutside_clearTags]
    rfl

/-- The owners left where some extents are freed. -/
def ownersOutside (es : List Nat) (owners : Tab Nat) : Tab Nat := owners.filter (fun o => !es.contains o.1)

theorem ownersOutside_nil (owners : Tab Nat) : ownersOutside [] owners = owners := List.filter_eq_self.mpr fun _ _ => rfl

theorem ownersOutside_tabErase (es : List Nat) (owners : Tab Nat) (e : Nat) :
    ownersOutside es (tabErase owners e) = ownersOutside (e :: es) owners := by
  rw [ownersOutside, tabErase, List.filter_filter]
  refine List.filter_congr fun o _ => ?_
  rw [List.contains_cons, Bool.not_or, Bool.and_comm]
  rfl

/-- Freeing extents one after another. -/
theorem foldl_freeExtent (es : List Nat) (s : State) :
    es.foldl freeExtent s = { s with far := { s.far with
      tags := tagsOutside es s.far.tags
      owners := ownersOutside es s.far.owners } } := by
  induction es generalizing s with
  | nil =>
    rw [tagsOutside_nil, ownersOutside_nil]
    rfl
  | cons e es ih =>
    rw [List.foldl_cons, ih, ← tagsOutside_clearTags, ← ownersOutside_tabErase]
    rfl

@[simp] theorem takenBy_ownerKnown (s : State) (c : Nat) (rq : MbxReq) (id : Nat) :
    ownerKnown (takenBy s c rq) id = ownerKnown s id := by
  rw [ownerKnown, takenBy_findJob, ownerKnown]

@[simp] theorem takenBy_releaseBusy (s : State) (c : Nat) (rq : MbxReq) (owner : Nat) (es : List Nat) :
    releaseBusy (takenBy s c rq) owner es = releaseBusy s owner es := by
  rw [releaseBusy, takenBy_tab, releaseBusy]

theorem ownerKnown_iff {s : State} {id : Nat} : ownerKnown s id = true ↔ id = 0xFFFF ∨ (findJob s id).isSome = true := by
  rw [ownerKnown, Bool.or_eq_true, beq_iff_eq, libraryOwner]

section
variable {s : State} {rq : MbxReq} (hk : ownerKnown s (leAt (bodyOf rq) 0 2) = true)
include hk

/-- MEM_GRANT of extents that no one owns. -/
theorem execMemGrant_grants (h : accepted s (grantSpec 0x0010) rq = true)
    (hfree : ∀ e ∈ extentRange (bodyOf rq), tabGet? s.far.owners e = none) :
    execMemGrant rq s = .next (respondAs
      ((extentRange (bodyOf rq)).foldl (fun t e => grantExtent t (leAt (bodyOf rq) 0 2) e) s) 0x0010 rq stOk 0 []) := by
  have hnone : (extentRange (bodyOf rq)).any (fun e => (tabGet? s.far.owners e).isSome) = false :=
    List.any_eq_false.mpr fun e he => by rw [hfree e he]; nofun
  refine mailbox_accepted_done h ?_
  simp only [takenBy_ownerKnown, hk, takenBy_far, hnone, Bool.not_true, Bool.false_eq_true, if_false, Reply.ok, foldl_grantExtent,
    takenBy_with_far]

/-- MEM_RELEASE of extents of the named owner, in which nothing of it runs. -/
theorem execMemRelease_releases (h : accepted s (grantSpec 0x0011) rq = true)
    (howned : ∀ e ∈ extentRange (bodyOf rq), tabGet? s.far.owners e = some (leAt (bodyOf rq) 0 2))
    (hidle : releaseBusy s (leAt (bodyOf rq) 0 2) (extentRange (bodyOf rq)) = false) :
    execMemRelease rq s = .next (respondAs ((extentRange (bodyOf rq)).foldl freeExtent s) 0x0011 rq stOk 0 []) := by
  have hall : (extentRange (bodyOf rq)).any (fun e => tabGet? s.far.owners e != some (leAt (bodyOf rq) 0 2)) = false :=
    List.any_eq_false.mpr fun e he => by rw [howned e he, bne_self_eq_false]; nofun
  refine mailbox_accepted_done h ?_
  simp only [takenBy_ownerKnown, hk, takenBy_far, hall, takenBy_releaseBusy, hidle, Bool.not_true, Bool.false_eq_true, if_false,
    Reply.ok, foldl_freeExtent, takenBy_with_far]

end

end Sys2Proof.Machine
end

section
/-! SUPPORT. A host's write of part of one far block (R297, R298, R318, R326). -/

namespace Sys2Proof.Machine

open Sys2Proof

/-- A write that meets no running command leaves none undefined. -/
theorem raceWith_untouched {s : State} {w : Nat × Nat × Nat}
    (h : s.tab.queues.any (fun q => q.cmds.any (·.touches w)) = false) : raceWith s w = s := by
  simp only [raceWith, h, Bool.false_eq_true, if_false]

theorem hostWriteBlock_written {s : State} {b o : Nat} {bs : List Byte} (hfits : o + bs.length ≤ 4096)
    (hl : (s.far.group (b % 2)).onLost (b / 2) = false)
    (hrace : s.tab.queues.any (fun q => q.cmds.any (·.touches (b * 4096 + o, bs.length, 0))) = false) :
    ∃ f, hostWriteBlock s b o bs = { s with far := f } ∧
      BlockWritten s.far f b (splice (mergeBase s.far b) o bs) { st := .opened } := by
  have hlen : (splice (mergeBase s.far b) o bs).length = 4096 := splice_length (mergeBase_length hl) hfits
  have hwhole : (splice (mergeBase s.far b) o bs).take blockBytes = splice (mergeBase s.far b) o bs :=
    List.take_of_length_le (Nat.le_of_eq hlen)
  rw [hostWriteBlock, blockBytes, raceWith_untouched hrace, ← blockBytes, hwhole]
  exact putBlock_written hlen hl

/-- From s to t a host has written one block, which is OPEN now; what else changed is the stacks that woke. -/
structure HostBlockWritten (s t : State) (b : Nat) (data : List Byte) : Prop where
  stored : t.far.stored b = data
  tag : t.far.tag b = { st := .opened }
  others : ∀ c, c ≠ b → t.far.stored c = s.far.stored c ∧ t.far.tag c = s.far.tag c
  tab : t.tab = s.tab
  cores : t.cores = s.cores
  near : t.near = s.near
  key : t.key = s.key
  pa : t.pa = s.pa
  pb : t.pb = s.pb

theorem hostWriteBlock_hostBlockWritten {s w : State} {b o : Nat} {bs : List Byte} (hw : Woken s w) (hfits : o + bs.length ≤ 4096)
    (hl : (s.far.group (b % 2)).onLost (b / 2) = false)
    (hrace : s.tab.queues.any (fun q => q.cmds.any (·.touches (b * 4096 + o, bs.length, 0))) = false) :
    HostBlockWritten s (hostWriteBlock w b o bs) b (splice (mergeBase s.far b) o bs) := by
  obtain ⟨hmem, htags, hgroup⟩ := hw.blocks
  obtain ⟨ct, ds, hsame⟩ := hw.same
  obtain ⟨f, he, hf⟩ := hostWriteBlock_written (s := w) hfits (by rw [hgroup]; exact hl) (by rw [hsame]; exact hrace)
  rw [he]
  exact {
    stored := by rw [hf.stored, mergeBase_congr hmem htags hgroup hl]
    tag := hf.tag
    others := fun c hc => by
      rw [(hf.others c hc).1, (hf.others c hc).2]
      exact ⟨FarTier.stored_congr hmem c, FarTier.tag_congr htags c⟩
    tab := by rw [hsame]
    cores := by rw [hsame]
    near := by rw [hsame]
    key := by rw [hsame]
    pa := by rw [hsame]
    pb := by rw [hsame] }

section
variable {s w : State} {a : Nat} {bs : List Byte} (h0 : bs ≠ []) (hfits : a % 4096 + bs.length ≤ 4096)
include h0 hfits

/-- A range inside one block lies in that block alone. -/
theorem blocksOf_one : blocksOf a bs.length = [a / 4096] := by
  have hpos : 0 < bs.length := List.length_pos_iff.mpr h0
  have hlast : (a + bs.length - 1) / 4096 = a / 4096 := by omega
  simp [blocksOf, blockBytes, Nat.ne_of_gt hpos, hlast, List.range_succ]

theorem farHostWrite_hostBlockWritten (hl : (s.far.group (a / 4096 % 2)).onLost (a / 4096 / 2) = false)
    (hrace : s.tab.queues.any (fun q => q.cmds.any (·.touches (a, bs.length, 0))) = false) :
    HostBlockWritten s (farHostWrite s a bs) (a / 4096) (splice (mergeBase s.far (a / 4096)) (a % 4096) bs) := by
  rw [farHostWrite, piecesOf_one h0 hfits]
  exact hostWriteBlock_hostBlockWritten (touchBlocks_woken ..) hfits hl (by rw [Nat.div_add_mod']; exact hrace)

end

end Sys2Proof.Machine
end

section
/-! SUPPORT. BAR2 and GCOUNT as a port reads and writes them (R318, R446, R507). -/

namespace Sys2Proof.Machine

open Sys2Proof

/-! BAR2 (R318, R446). -/

theorem regionsLive_of_regionsRespond {s : State} {p : Port} (h : RegionsRespond s p) : regionsLive s p = true := by
  obtain ⟨⟨hup, hobtain, hverify, hout, hsvc, hmismatch, hide⟩, hd⟩ := h
  have hblocks : ideBlocks s p = false := by
    rcases hide with h | h <;> simp only [ideBlocks, h, Bool.false_and, Bool.not_true, Bool.and_false]
  simp [regionsLive, registersLive, portReachable, HubState.inRom, hup, hobtain, hverify, hout, hsvc, hmismatch, hblocks, hd]

theorem execBar2Read_too_long {p : Port} {offset length : Nat} {s : State} (hrange : offset + length ≤ 2 ^ 32)
    (hlong : 4096 < length) : execBar2Read p offset length s = .next s := by
  rw [execBar2Read, if_neg (Nat.not_lt.mpr hrange), if_pos (show pcieFeatures.maxRead < length from hlong)]

/-- What a BAR2 read returns: of each block it reaches the bytes the tier gives, of the others the zeros asked for. -/
def bar2Data (s : State) (p : Port) (base length : Nat) : List Byte :=
  (piecesOf base (zeros length)).flatMap (fun q =>
    if bar2Reaches s p (q.1 * blockBytes) then ((s.far.readBlock q.1).1.drop q.2.1).take q.2.2.length else q.2.2)

/-- The blocks of a BAR2 access that it reaches. -/
def bar2Blocks (s : State) (p : Port) (base length : Nat) : List Nat :=
  (blocksOf base length).filter (fun b => bar2Reaches s p (b * blockBytes))

/-- A BAR2 access misses a block. -/
def bar2Misses (s : State) (p : Port) (base length : Nat) : Bool :=
  (blocksOf base length).any (fun b => !bar2Reaches s p (b * blockBytes))

/-- A miss counted behind an update of its port. -/
theorem countMiss_updPort (s : State) (p : Port) (f : PortState → PortState) (misses : Bool) :
    (if misses then countMiss (s.updPort p f) p else s.updPort p f) = s.updPort p (fun ps =>
      { f ps with windowMiss := if misses then satInc (f ps).windowMiss else (f ps).windowMiss }) := by
  cases misses <;> cases p <;> rfl

section
variable {s : State} {p : Port} (hp : RegionsRespond s p) {offset : Nat}
include hp

theorem execBar2Read_reads {length : Nat} (hrange : offset + length ≤ 2 ^ 32) (hshort : length ≤ 4096) :
    execBar2Read p offset length s = .next
      ((touchBlocks (raceReads s p (bar2Base s p + offset) length) false (bar2Blocks s p (bar2Base s p + offset) length)).updPort p
        (fun ps => { ps with
          lastRead := bar2Data s p (bar2Base s p + offset) length
          windowMiss := if bar2Misses s p (bar2Base s p + offset) length then satInc ps.windowMiss else ps.windowMiss })) := by
  have hlive := regionsLive_of_regionsRespond hp
  obtain ⟨⟨hup, -⟩, -⟩ := hp
  rw [execBar2Read, if_neg (Nat.not_lt.mpr hrange), if_neg (Nat.not_lt.mpr (show length ≤ pcieFeatures.maxRead from hshort)),
    portReachable, hup, hlive]
  exact congrArg Host.Outcome.next (countMiss_updPort _ p _ _)

theorem execBar2Write_writes {data : List Byte} (hrange : offset + data.length ≤ 2 ^ 32) :
    execBar2Write p offset data s = .next
      (let t := (piecesOf (bar2Base s p + offset) data).foldl
        (fun t q => if bar2Reaches s p (q.1 * blockBytes) then hostWriteBlock t q.1 q.2.1 q.2.2 else t)
        (touchBlocks s true (bar2Blocks s p (bar2Base s p + offset) data.length))
       if bar2Misses s p (bar2Base s p + offset) data.length then
        t.updPort p (fun ps => { ps with windowMiss := satInc ps.windowMiss }) else t) := by
  rw [execBar2Write, if_neg (Nat.not_lt.mpr hrange), regionsLive_of_regionsRespond hp]
  rfl

/-- A BAR2 write inside one block that it reaches. -/
theorem execBar2Write_writes_block {data : List Byte} {base : Nat} (hrange : offset + data.length ≤ 2 ^ 32) (h0 : data ≠ [])
    (hbase : base = bar2Base s p + offset) (hfits : base % 4096 + data.length ≤ 4096)
    (hreach : bar2Reaches s p (base / 4096 * blockBytes) = true)
    (hl : (s.far.group (base / 4096 % 2)).onLost (base / 4096 / 2) = false)
    (hrace : s.tab.queues.any (fun q => q.cmds.any (·.touches (base, data.length, 0))) = false) :
    ∃ t, execBar2Write p offset data s = .next t ∧
      HostBlockWritten s t (base / 4096) (splice (mergeBase s.far (base / 4096)) (base % 4096) data) := by
  have hhit : bar2Misses s p base data.length = false := by
    rw [bar2Misses, blocksOf_one h0 hfits, List.any_cons, hreach]
    rfl
  refine ⟨_, execBar2Write_writes hp hrange, ?_⟩
  rw [← hbase, hhit, piecesOf_one h0 hfits]
  simp only [List.foldl_cons, List.foldl_nil, hreach, if_true, Bool.false_eq_true, if_false]
  exact hostWriteBlock_hostBlockWritten (touchBlocks_woken ..) hfits hl (by rw [Nat.div_add_mod']; exact hrace)

end

/-- The stacks that a BAR2 read wakes and the commands it races: the rest of the device stands. -/
theorem touchBlocks_raceReads_same (s : State) (p : Port) (base length : Nat) (write : Bool) (bs : List Nat) :
    ∃ ctrls dies, touchBlocks (raceReads s p base length) write bs =
      { s with far := { s.far with ctrls := ctrls }, dies := dies, tab := (raceReads s p base length).tab } := by
  obtain ⟨ct, ds, h⟩ := touchBlocks_eq (raceReads s p base length) write bs
  refine ⟨ct, ds, h.trans ?_⟩
  rw [raceReads_same]

/-! GCOUNT (R507). -/

theorem execGcountLowRead_reads {p : Port} {s : State} (h : (s.port p).linkUp = true) :
    execGcountLowRead p s = .next (s.updPort p (fun ps => { ps with
      gcShadow := some (BitVec.ofNat 32 ((s.hub p.hub).gcount.toNat / 2 ^ 32 % 2 ^ 32))
      lastRead := leBytes 4 ((s.hub p.hub).gcount.toNat % 2 ^ 32) })) := by
  simp only [execGcountLowRead, portReachable, h, if_true, field, Nat.pow_zero, Nat.div_one]

theorem execGcountHighRead_reads {p : Port} {s : State} (h : (s.port p).linkUp = true) :
    execGcountHighRead p s = .next (s.updPort p (fun ps => { ps with
      gcShadow := none
      lastRead := leBytes 4 (((s.port p).gcShadow.map (·.toNat)).getD ((s.hub p.hub).gcount.toNat / 2 ^ 32 % 2 ^ 32)) })) := by
  rw [execGcountHighRead, portReachable, if_pos h]
  rfl

end Sys2Proof.Machine
end

section
/-! SUPPORT. COPY_IN and COPY_OUT (R319, R326, R446): what they read of a state that has taken their request, and what their
answers leave of the device. -/

namespace Sys2Proof.Machine

open Sys2Proof

section
variable (s : State) (c : Nat) (rq : MbxReq)

@[simp] theorem takenBy_grantedTo (ok : Nat → Bool) (a len : Nat) : grantedTo (takenBy s c rq) ok a len = grantedTo s ok a len := by
  simp only [grantedTo, takenBy_far]

@[simp] theorem takenBy_regionPermits (p : Port) (a : Nat) : regionPermits (takenBy s c rq) p a = regionPermits s p a := by
  simp only [regionPermits, regionByte, takenBy_hub, takenBy_far]

@[simp] theorem takenBy_copyPermitted (p : Port) (a len : Nat) : copyPermitted (takenBy s c rq) p a len = copyPermitted s p a len := by
  simp only [copyPermitted, takenBy_grantedTo, takenBy_regionPermits]

end

/-- A read of a host that the port reaches and that answers below 2^64. -/
theorem hostRead_reads {s : State} {p : Port} {a n : Nat} (hr : reaches s p = true) (hh : (s.port p).hostReadable = true)
    (hn : a + n ≤ 2 ^ 64) : hostRead s p a n = some (memReadN (s.port p).hostMem a n) := by
  simp only [hostRead, hr, hh, decide_eq_true hn, Bool.and_self, if_true]

section
variable {s : State} {rq : MbxReq} {host addr len : Nat} (hhost : host = leAt (bodyOf rq) 0 8) (haddr : addr = leAt (bodyOf rq) 8 8)
  (hlen : len = leAt (bodyOf rq) 0x10 4) (hp : copyPermitted s rq.port addr len = true)
  (hh : (s.port rq.port).hostReadable = true) (hn : host + len ≤ 2 ^ 64)
include hhost haddr hlen hp hh hn

theorem execCopyIn_copies (h : accepted s (copySpec 0x0012) rq = true) (hr : reaches s rq.port = true) :
    execCopyIn rq s = .next (respondAs (farHostWrite (takenBy s 0x0012 rq) addr (memReadN (s.port rq.port).hostMem host len))
      0x0012 rq stOk 0 []) := by
  subst hhost haddr hlen
  rw [execCopyIn, mailbox_accepted _ h]
  simp only [takenBy_copyPermitted, hp, takenBy_hostRead, hostRead_reads hr hh hn, Bool.not_true, Bool.false_eq_true, if_false,
    Reply.ok, copySpec]

/-- COPY_OUT reads the far bytes in the state before any stack wakes. -/
theorem execCopyOut_copies (h : accepted s (copySpec 0x0013) rq = true) :
    execCopyOut rq s = .next (respondAs (sendBack (hostWrite (touchRead (raceRead (takenBy s 0x0013 rq) (addr, len)) addr len)
      rq.port host (farRead s.far addr len).1) classData (farRead s.far addr len).1) 0x0013 rq stOk 0 []) := by
  subst hhost haddr hlen
  rw [execCopyOut, mailbox_accepted _ h]
  simp only [takenBy_copyPermitted, hp, takenBy_hostReadable, hh, decide_eq_false (Nat.not_lt.mpr hn), takenBy_far, Bool.not_true,
    Bool.or_self, Bool.false_eq_true, if_false, Reply.ok, copySpec]

end

/-! What an answer leaves of the ports' host memories. -/

theorem setMailbox_hostMem (s : State) (p q : Port) (b : Nat) (m : Mailbox) :
    ((setMailbox s p b m).port q).hostMem = (s.port q).hostMem := by
  cases p <;> cases q <;> rfl

/-- An answer without NOTIFY posts no event, so it writes no host memory. -/
theorem respondAs_hostMem {s : State} {rq : MbxReq} (h : rq.notify = false) (c st d : Nat) (b : List Byte) (q : Port) :
    ((respondAs s c rq st d b).port q).hostMem = (s.port q).hostMem := by
  simp only [respondAs, h, Bool.false_eq_true, if_false, sendBack_port, setMailbox_hostMem]

/-- From s to t a range of far memory is read: stacks wake and the commands that write its bytes race, the rest stands. -/
structure RangeRead (s t : State) (w : Nat × Nat) : Prop where
  mem : t.far.mem = s.far.mem
  tags : t.far.tags = s.far.tags
  tab : t.tab = (raceRead s w).tab
  cores : t.cores = s.cores
  near : t.near = s.near
  key : t.key = s.key
  port : ∀ p, t.port p = s.port p

theorem touchRead_rangeRead (s : State) (a n : Nat) : RangeRead s (touchRead (raceRead s (a, n)) a n) (a, n) := by
  obtain ⟨ct, ds, h⟩ := (touchRead_woken (raceRead s (a, n)) a n).same
  rw [h]
  exact ⟨rfl, rfl, rfl, rfl, rfl, rfl, fun p => by cases p <;> rfl⟩

/-- A taken request is no part of what a read races. -/
theorem takenBy_raceRead_tab (s : State) (c : Nat) (rq : MbxReq) (w : Nat × Nat) :
    (raceRead (takenBy s c rq) w).tab = (raceRead s w).tab := by
  simp only [raceRead, raceWhere, State.updTab_tab, takenBy_tab]

end Sys2Proof.Machine
end

section
/-! SUPPORT. The queue commands (R330, R338 to R342, R347): what each reads of a state that has taken its request, and what it
comes to where nothing refuses it. -/

namespace Sys2Proof.Machine

open Sys2Proof

section
variable (s : State) (c : Nat) (rq : MbxReq)

@[simp] theorem takenBy_ringsGranted (job d sq cq : Nat) : ringsGranted (takenBy s c rq) job d sq cq = ringsGranted s job d sq cq := by
  simp only [ringsGranted, takenBy_grantedTo]

theorem takenBy_updQueue (n : Nat) (f : Queue → Queue) : updQueue (takenBy s c rq) n f = takenBy (updQueue s n f) c rq :=
  takenBy_updTab s c rq _

end

theorem findQueue_num {s : State} {n : Nat} {q : Queue} (h : findQueue s n = some q) : q.num = n := by
  simpa using List.find?_some h

/-- An update that leaves the numbers of queues finds the updated queue under its number. -/
theorem findQueue_updQueue {s : State} {n : Nat} {q : Queue} {f : Queue → Queue} (hf : ∀ x, (f x).num = x.num)
    (h : findQueue s n = some q) : findQueue (updQueue s n f) n = some (f q) := by
  have hsame : ((fun x => x.num == n) ∘ fun x => if x.num == n then f x else x) = fun x : Queue => x.num == n := by
    funext x
    simp only [Function.comp_apply]
    split
    · rw [hf]
    · rfl
  rw [findQueue] at h
  rw [findQueue, updQueue, State.updTab_tab, updWhere, List.find?_map, hsame, h]
  simp only [Option.map_some, findQueue_num h, beq_self_eq_true, if_true]

/-! The commands that a queue's number finds (R339 to R341). -/

/-- A wait of a queue that is resumed starts anew with its full timeout (R339). -/
def restartWaits (now : W64) (q : Queue) : Queue :=
  { q with st := .running
           cmds := updWhere (fun c => c.phase == .waiting) (fun c => { c with waitSince := now, waitLimit := q.flagTimeout }) q.cmds }

/-- A queue as QUEUE_RESET leaves it (R338, R341). -/
def Queue.emptied (q : Queue) : Queue :=
  { q with st := .idle, sqTail := 0, sqFetch := 0, cqHead := 0, cqIndex := 0, phase := true, cmds := [], copies := [] }

section
variable {s : State} {rq : MbxReq} {q : Queue} (hq : findQueue s (leAt (bodyOf rq) 0 2) = some q)
include hq

theorem execQueueSet_sets (h : accepted s queueSetSpec rq = true) :
    execQueueSet rq s = .next (respondAs (updQueue s q.num (fun x => { x with
      priority := field (leAt (bodyOf rq) 2 1) 0 3, outLimit := leAt (bodyOf rq) 4 2, flagTimeout := leAt (bodyOf rq) 8 4 }))
      0x0041 rq stOk 0 []) := by
  refine mailbox_accepted_done h ?_
  simp only [takenBy_findQueue, hq, takenBy_updQueue, findQueue_num hq, Reply.ok, queueSetSpec]

theorem execQueueCancel_cancels (h : accepted s (nameSpec 0x0042) rq = true) :
    execQueueCancel rq s = .next (respondAs (cancelQueue (takenBy s 0x0042 rq) (leAt (bodyOf rq) 0 2)) 0x0042 rq stOk 0 []) := by
  rw [execQueueCancel, mailbox_accepted _ h]
  simp only [takenBy_findQueue, hq, Reply.ok, nameSpec]

theorem execQueueResume_resumes (h : accepted s (nameSpec 0x0043) rq = true) (hst : q.st = .stalled) :
    execQueueResume rq s = .next (respondAs (updQueue s q.num (restartWaits s.now)) 0x0043 rq stOk 0 []) := by
  refine mailbox_accepted_done h ?_
  simp only [takenBy_findQueue, hq, hst, bne_self_eq_false, Bool.false_eq_true, if_false, takenBy_updQueue, takenBy_now, Reply.ok,
    nameSpec]
  rfl

theorem execQueueReset_resets (h : accepted s (nameSpec 0x0044) rq = true) (hst : q.st = .cancelled) :
    execQueueReset rq s = .next (respondAs (updQueue s q.num Queue.emptied) 0x0044 rq stOk 0 []) := by
  refine mailbox_accepted_done h ?_
  simp only [takenBy_findQueue, hq, hst, bne_self_eq_false, Bool.false_eq_true, if_false, takenBy_updQueue, Reply.ok, nameSpec]
  rfl

end

/-! QUEUE_CREATE (R330). -/

theorem execQueueCreate_creates {s : State} {rq : MbxReq} {j : Job} {n : Nat} (h : accepted s queueCreateSpec rq = true)
    (hfab : onFabric s = false) (hj : findJob s (leAt (bodyOf rq) 0 2) = some j) (hlive : j.destroying = none)
    (hrings : bit (leAt (bodyOf rq) 2 1) 5 = false ∨ ringsGranted s (leAt (bodyOf rq) 0 2) (field (leAt (bodyOf rq) 2 1) 0 5)
      (leAt (bodyOf rq) 8 8) (leAt (bodyOf rq) 0x10 8) = true)
    (hn : lowestFree 8192 (s.tab.queues.map (·.num)) = some n) :
    execQueueCreate rq s = .next (respondAs (s.updTab (fun v => { v with
        queues := insertBy (·.num) (queueOf (bodyOf rq) n (.port rq.port)) v.queues }))
      0x0040 rq stOk 0 (leBytes 2 n ++ leBytes 2 0)) := by
  have hgranted : (bit (leAt (bodyOf rq) 2 1) 5 && !ringsGranted s (leAt (bodyOf rq) 0 2) (field (leAt (bodyOf rq) 2 1) 0 5)
      (leAt (bodyOf rq) 8 8) (leAt (bodyOf rq) 0x10 8)) = false := by
    rcases hrings with h | h <;> simp only [h, Bool.false_and, Bool.not_true, Bool.and_false]
  refine mailbox_accepted_done h ?_
  simp only [takenBy_onFabric, hfab, takenBy_findJob, hj, Option.all_some, hlive, Option.isSome_none, takenBy_ringsGranted,
    hgranted, takenBy_tab, hn, createdQueue, takenBy_updTab, Bool.false_and, Bool.false_eq_true, if_false,
    Reply.okWith, queueCreateSpec]

/-! QUEUE_REHOME (R347). -/

theorem Queue.rehome_num (q : Queue) (p : Port) (far : Bool) (sq cq : Nat) : (q.rehome p far sq cq).num = q.num := by
  rw [Queue.rehome]
  split <;> rfl

theorem Queue.rehome_moves {q : Queue} {far : Bool} (p : Port) (sq cq : Nat) (h : q.farRings = false ∨ far = false) :
    q.rehome p far sq cq = { q with
      home := .port p, farRings := far, sqBase := sq, cqBase := cq, sqTail := q.sqFetch, cqHead := q.cqIndex
      rehomed := true, copies := [] } := by
  have hmoves : (q.farRings && far && sq == q.sqBase && cq == q.cqBase) = false := by
    rcases h with h | h <;> simp only [h, Bool.false_and, Bool.and_false]
  rw [Queue.rehome, hmoves]
  rfl

theorem Queue.rehome_stays {q : Queue} (p : Port) (h : q.farRings = true) :
    q.rehome p true q.sqBase q.cqBase = { q with home := .port p } := by
  rw [Queue.rehome, h, beq_self_eq_true, beq_self_eq_true]
  rfl

/-- A queue whose rings have moved fetches nothing before its doorbell (log 134). -/
theorem fetchAll_rehomed {s : State} {n : Nat} {q : Queue} (h : findQueue s n = some q) (hr : q.rehomed = true) :
    fetchAll s n = s := by
  have hwait : mayFetch s q = false := by
    simp only [mayFetch, hr, Bool.not_true, Bool.and_false, Bool.false_and]
  simp only [fetchAll, h, hwait, Bool.false_eq_true, if_false]

section
variable {s : State} {rq : MbxReq} {q : Queue} (h : accepted s queueRehomeSpec rq = true)
  (hq : findQueue s (leAt (bodyOf rq) 0 2) = some q)
  (hrings : bit (leAt (bodyOf rq) 2 1) 0 = false ∨
    ringsGranted s q.job q.log2depth (leAt (bodyOf rq) 8 8) (leAt (bodyOf rq) 0x10 8) = true)
include h hq hrings

/-- The answer of QUEUE_REHOME: the fetch position, the record position and PHASE. -/
theorem execQueueRehome_rehomes :
    execQueueRehome rq s = .next (respondAs (fetchAll (updQueue (takenBy s 0x0046 rq) q.num (fun x =>
        x.rehome rq.port (bit (leAt (bodyOf rq) 2 1) 0) (leAt (bodyOf rq) 8 8) (leAt (bodyOf rq) 0x10 8))) q.num)
      0x0046 rq stOk 0 (leBytes 2 q.sqFetch ++ leBytes 2 q.cqIndex ++ leBytes 4 (if q.phase then 1 else 0))) := by
  have hgranted : (bit (leAt (bodyOf rq) 2 1) 0 &&
      !ringsGranted s q.job q.log2depth (leAt (bodyOf rq) 8 8) (leAt (bodyOf rq) 0x10 8)) = false := by
    rcases hrings with h | h <;> simp only [h, Bool.false_and, Bool.not_true, Bool.and_false]
  rw [execQueueRehome, mailbox_accepted _ h]
  simp only [takenBy_findQueue, hq, takenBy_ringsGranted, hgranted, Bool.false_eq_true, if_false, Reply.okWith, queueRehomeSpec]

/-- Rings that move leave the rest of the device as it is. -/
theorem execQueueRehome_moves (hmove : q.farRings = false ∨ bit (leAt (bodyOf rq) 2 1) 0 = false) :
    execQueueRehome rq s = .next (respondAs (updQueue s q.num (fun x =>
        x.rehome rq.port (bit (leAt (bodyOf rq) 2 1) 0) (leAt (bodyOf rq) 8 8) (leAt (bodyOf rq) 0x10 8)))
      0x0046 rq stOk 0 (leBytes 2 q.sqFetch ++ leBytes 2 q.cqIndex ++ leBytes 4 (if q.phase then 1 else 0))) := by
  have hfound : findQueue (takenBy s 0x0046 rq) q.num = some q := by rw [takenBy_findQueue, findQueue_num hq, hq]
  have hmoved := findQueue_updQueue (f := fun x =>
    x.rehome rq.port (bit (leAt (bodyOf rq) 2 1) 0) (leAt (bodyOf rq) 8 8) (leAt (bodyOf rq) 0x10 8))
    (fun x => x.rehome_num _ _ _ _) hfound
  rw [execQueueRehome_rehomes h hq hrings, fetchAll_rehomed hmoved (by rw [Queue.rehome_moves _ _ _ hmove]), takenBy_updQueue,
    respondAs_takenBy]

end

end Sys2Proof.Machine
end

section
/-! SUPPORT. Queue doorbells (R331, R338, R512): where a port takes them, and what each comes to. -/

namespace Sys2Proof.Machine

open Sys2Proof

/-- A port whose queue doorbells its hub takes: its link is up, the hub runs firmware past CONFIG_WAIT, is in service and serves its
mailboxes, and no missing IDE stream blocks it (R317, R423, R441, R447). -/
structure TakesDoorbells (s : State) (p : Port) : Prop where
  linkUp : (s.port p).linkUp = true
  pastRom : (s.hub p.hub).inRom = false
  configured : portDstate s p ≠ 0
  inService : (s.hub p.hub).svc ≠ .out
  serves : servesMailboxes s p = true
  ide : ideBlocks s p = false

theorem TakesDoorbells.regionsLive {s : State} {p : Port} (h : TakesDoorbells s p) : regionsLive s p = true := by
  have hserves := h.serves
  simp only [servesMailboxes, Bool.and_eq_true, bne_iff_ne] at hserves
  obtain ⟨⟨⟨⟨-, hphase⟩, hsvc⟩, -⟩, -⟩ := hserves
  simp [Machine.regionsLive, registersLive, portReachable, h.linkUp, h.pastRom, h.configured, h.inService, h.ide, hphase, hsvc]

section
variable {s : State} {p : Port} {n : Nat} {v : W64} (hp : TakesDoorbells s p) (hn : n < 8192)
include hp hn

theorem doorbell_latched (ht : takeoverDue s = true) :
    doorbell s p n v = .next (s.updDev (fun d => { d with latched := d.latched ++ [(p, n, v)] })) := by
  simp only [doorbell, Nat.not_le.mpr hn, hp.regionsLive, hp.serves, ht, Bool.not_true, Bool.or_self, Bool.false_eq_true, if_true,
    if_false]

theorem doorbell_applies (ht : takeoverDue s = false) : doorbell s p n v = .next (ringQueue s (.port p) p n v) := by
  simp only [doorbell, Nat.not_le.mpr hn, hp.regionsLive, hp.serves, ht, Bool.not_true, Bool.or_self, Bool.false_eq_true, if_false]

end

/-- A doorbell that gives an index to a queue that is not CANCELLED is refused or moves its rings (R331). -/
theorem ringQueue_eq {s : State} {home : Home} {p : Port} {n : Nat} {v : W64} {q : Queue} (hq : findQueue s n = some q)
    (hst : q.st ≠ .cancelled) (hv : (bit v.toNat 32 || bit v.toNat 33) = true) :
    ringQueue s home p n v = if doorbellBad q home v then
      postTo s p { code := 0x0007, job := q.job, queue := n, arg0 := v.toNat % 2 ^ 32 }
    else fetchAll (updQueue s n (fun q => q.rung v)) n := by
  simp only [ringQueue, hq, hv, beq_eq_false_iff_ne.mpr hst, doorbellRefused, Option.map_some, Option.getD_some, Bool.not_true,
    Bool.or_self, Bool.false_eq_true, if_false]

end Sys2Proof.Machine
end

section
/-! SUPPORT. Completion records and their messages (R336, R337, R515): what the signal of a vector comes to, and where a record
sends one. -/

namespace Sys2Proof.Machine

open Sys2Proof

theorem PortState.signal_unmasked {ps : PortState} {v : Nat} (h : (ps.vector v).masked = false) :
    ps.signal v = { ps with msixOut := ps.msixOut ++ [((ps.vector v).addr, (ps.vector v).data)] } := by
  simp only [PortState.signal, h, Bool.false_eq_true, if_false]

theorem PortState.signal_masked {ps : PortState} {v : Nat} (h : (ps.vector v).masked = true) :
    ps.signal v = { ps with msixPending := ps.msixPending ||| (1#16 <<< v) } := by
  simp only [PortState.signal, h, if_true]

theorem getLsbD_one_shiftLeft {w v : Nat} (i : Nat) (hv : v < w) : (1#w <<< v).getLsbD i = decide (i = v) := by
  rw [← BitVec.twoPow_eq, BitVec.getLsbD_twoPow]
  by_cases hi : i = v
  · simp [hi, hv]
  · simp [hi, Ne.symm hi]

theorem getLsbD_or_one_shiftLeft {w v : Nat} (x : BitVec w) (hv : v < w) : (x ||| 1#w <<< v).getLsbD v = true := by
  rw [BitVec.getLsbD_or, getLsbD_one_shiftLeft v hv, decide_eq_true rfl, Bool.or_true]

/-- A pending bit that is set already takes the signal in. -/
theorem or_one_shiftLeft_of_getLsbD {w v : Nat} {x : BitVec w} (h : x.getLsbD v = true) : x ||| 1#w <<< v = x := by
  have hv : v < w := BitVec.lt_of_getLsbD h
  refine BitVec.eq_of_getLsbD_eq fun i _ => ?_
  rw [BitVec.getLsbD_or, getLsbD_one_shiftLeft i hv]
  by_cases hi : i = v
  · rw [hi, h, Bool.true_or]
  · rw [decide_eq_false hi, Bool.or_false]

/-- Whose message the record of an entry sends: that of a port's queue with INTR, for a NOTIFY entry (R337). -/
theorem writeRecord_signals {s : State} {q : Queue} {c : Cmd} {p : Port} (hi : q.intr = true) (hn : c.entry.notify = true)
    (hh : q.home = .port p) :
    writeRecord s q c = (writeRecord s { q with intr := false } c).updPort p (fun ps => ps.signal q.vector) := by
  simp only [writeRecord, putRecord, hi, hn, hh, Bool.and_self, Bool.false_and, Bool.false_eq_true, if_true, if_false]

theorem writeRecord_silent {s : State} {q : Queue} {c : Cmd} (h : q.intr = false ∨ c.entry.notify = false ∨ q.home = .fabric) :
    writeRecord s q c = writeRecord s { q with intr := false } c := by
  rcases h with h | h | h
  · rw [← h]
  · simp only [writeRecord, putRecord, h, Bool.and_false, Bool.false_eq_true, if_false]
  · simp only [writeRecord, putRecord, h, Bool.false_and, Bool.false_eq_true, ite_self]

theorem execCompletionRecordPost_posts {s : State} {n : Nat} {q : Queue} {c : Cmd} (h : owedRecord s n = some (q, c)) :
    execCompletionRecordPost n s = .next (settleDestroys (writeRecord s q c)) := by
  rw [execCompletionRecordPost, h]

end Sys2Proof.Machine
end

section
/-! SUPPORT. Ports that go down and come up, hubs that leave service, the debug port (R313, R346, R384, R420, R443, R444). -/

namespace Sys2Proof.Machine

open Sys2Proof

theorem portGoesDown_of_down {s : State} {p : Port} (h : (s.port p).linkUp = false) : portGoesDown s p = s := by
  simp only [portGoesDown, h, Bool.not_false, if_true]

theorem portGoesDown_of_up {s : State} {p : Port} (h : (s.port p).linkUp = true) :
    portGoesDown s p = postBoth (noteFault
      (s.updPort p (fun ps => { ps with linkUp := false, linkGen := 0, linkLanes := 0, ide := false })) 0x0E p.num)
      { code := 0x0003, arg0 := p.num } := by
  simp only [portGoesDown, h, Bool.not_true, Bool.false_eq_true, if_false]

theorem trainsTo_iff {gen lanes : Nat} :
    trainsTo gen lanes = true ↔ (1 ≤ gen ∧ gen ≤ 6) ∧ (lanes = 1 ∨ lanes = 2 ∨ lanes = 4 ∨ lanes = 8) := by
  simp [trainsTo]

theorem execPortUp_trains {s : State} {l : PortLink} (hdown : (s.port l.port).linkUp = false)
    (hcount : (s.hub l.port.hub).counting = true) (hrole : s.dev.role ≠ 2) (ht : trainsTo l.gen l.lanes = true) :
    execPortUp l s = .next (portComesUp s l) := by
  have hworker : ¬ s.dev.role.val = 2 := fun h => hrole (Fin.ext h)
  simp only [execPortUp, hdown, hcount, hworker, ht, decide_false, Bool.not_true, Bool.or_self, Bool.false_eq_true, if_false]

theorem inService_iff {s : State} {h : Hub} : inService s h = true ↔ (s.hub h).svc = .inService := by
  rw [inService, beq_iff_eq]

theorem debugHalt_iff {h : HubState} : debugHalt h = true ↔ h.protCtrl.toNat / 4 % 4 = 2 := by
  rw [debugHalt, beq_iff_eq]
  exact Iff.rfl

end Sys2Proof.Machine
end

section
/-! SUPPORT. Jobs (R75, R222, R327 to R329): the checks of JOB_CREATE on a state that has taken its request, what a new job changes,
and what no longer stands of a job that is removed. -/

namespace Sys2Proof.Machine

open Sys2Proof

/-! The checks (R328). -/

theorem setMailbox_jobRefused (s : State) (p : Port) (x : Nat) (m : Mailbox) (b : List Byte) :
    jobRefused (setMailbox s p x m) b = jobRefused s b := by
  cases p <;> rfl

@[simp] theorem takenBy_jobRefused (s : State) (c : Nat) (rq : MbxReq) (b : List Byte) :
    jobRefused (takenBy s c rq) b = jobRefused s b := setMailbox_jobRefused ..

@[simp] theorem takenBy_newJobId (s : State) (c : Nat) (rq : MbxReq) : newJobId (takenBy s c rq) = newJobId s := by
  simp only [newJobId, freeSlot, takenBy_tab]

@[simp] theorem takenBy_queuesOf (s : State) (c : Nat) (rq : MbxReq) (id : Nat) : queuesOf (takenBy s c rq) id = queuesOf s id := by
  rw [queuesOf, takenBy_tab, queuesOf]

/-! Cores that are zeroed (R75). -/

theorem tabGet?_filter_outside {α : Type} (ks : List Nat) (t : Tab α) (i : Nat) :
    tabGet? (t.filter (fun x => !ks.contains x.1)) i = if i ∈ ks then none else tabGet? t i := by
  induction t with
  | nil => simp [tabGet?]
  | cons x t ih =>
    obtain ⟨k, v⟩ := x
    by_cases hk : k ∈ ks
    · rw [List.filter_cons_of_neg (by simp [hk]), ih, tabGet?]
      by_cases hi : k = i
      · rw [if_pos (hi ▸ hk), if_pos (hi ▸ hk)]
      · rw [if_neg hi]
    · rw [List.filter_cons_of_pos (by simp [hk]), tabGet?, ih, tabGet?]
      by_cases hi : k = i
      · rw [if_pos hi, if_neg (hi ▸ hk), if_pos hi]
      · rw [if_neg hi, if_neg hi]

theorem zeroCores_core (s : State) (cores : List Nat) (c : Nat) :
    (zeroCores s cores).core c = if c ∈ cores then {} else s.core c := by
  rw [State.core, tabGet, zeroCores, tabGet?_filter_outside]
  split <;> rfl

theorem mem_insertBy {α : Type} {key : α → Nat} {x y : α} {l : List α} : y ∈ insertBy key x l ↔ y = x ∨ y ∈ l := by
  induction l with
  | nil => simp [insertBy]
  | cons z l ih =>
    rw [insertBy]
    split
    · rw [List.mem_cons]
    · rw [List.mem_cons, ih, List.mem_cons, or_left_comm]

theorem mem_foldl_insertBy {α : Type} {key : α → Nat} {y : α} {l acc : List α} :
    y ∈ l.foldl (fun acc x => insertBy key x acc) acc ↔ y ∈ l ∨ y ∈ acc := by
  induction l generalizing acc with
  | nil => simp
  | cons x l ih => rw [List.foldl_cons, ih, mem_insertBy, List.mem_cons, or_left_comm, or_assoc]

theorem mem_sortBy {α : Type} {key : α → Nat} {y : α} {l : List α} : y ∈ sortBy key l ↔ y ∈ l := by
  rw [sortBy, mem_foldl_insertBy, or_iff_left List.not_mem_nil]

/-! A new job (R222, R327). -/

theorem foldl_evictCaddy_same (es : List Nat) (s : State) :
    ∃ n cs, es.foldl evictCaddy s = { s with near := n, tab := { s.tab with caddies := cs } } := by
  induction es generalizing s with
  | nil => exact ⟨s.near, s.tab.caddies, rfl⟩
  | cons e es ih =>
    obtain ⟨n, cs, h⟩ := ih (evictCaddy s e)
    exact ⟨n, cs, h⟩

theorem foldl_startCopy_same (es : List Nat) (s : State) :
    ∃ cs, es.foldl startCopy s = { s with tab := { s.tab with caddies := cs } } := by
  induction es generalizing s with
  | nil => exact ⟨s.tab.caddies, rfl⟩
  | cons e es ih =>
    obtain ⟨cs, h⟩ := ih (startCopy s e)
    exact ⟨cs, h⟩

/-- The job a request asks for, with the identifier of the lowest free slot and the octets granted. -/
def jobOf (s : State) (b : List Byte) (octets : List Nat) : Job :=
  { id := newJobId s, group := leAt b 0 2, octets := sortBy (fun o => o) octets
    rjob := if leAt b 2 1 = 0xFF then none else some (leAt b 2 1)
    progs := reqProgs b, binds := reqBinds b, peers := reqPeers b }

/-- The generation of the slot advances (R327). -/
def advanceGeneration (id : Nat) (g : Tab Nat) : Tab Nat := tabPut 0 g (id % 64) (nextGeneration (id % 64) (tabGet 0 g (id % 64)))

/-- From s to u a job has come: its entry, the generation of its slot, and its cores zeroed. -/
structure JobCreated (s u : State) (j : Job) : Prop where
  jobs : u.tab.jobs = insertBy (fun j => j.id % 64) j s.tab.jobs
  generations : u.tab.generations = advanceGeneration j.id s.tab.generations
  queues : u.tab.queues = s.tab.queues
  far : u.far = s.far
  core : ∀ c, u.core c = if c ∈ j.octets.flatMap octetCores then {} else s.core c

theorem createJob_jobCreated {s : State} {b : List Byte} {octets : List Nat}
    (h : grantOctets (leAt b 0 2 / 8) (freeOctets s) [] = some octets) : JobCreated s (createJob s b) (jobOf s b octets) := by
  obtain ⟨n, cs, hevict⟩ := foldl_evictCaddy_same ((residencePlan s (reqBinds b)).getD []) s
  obtain ⟨cs', hcopy⟩ := foldl_startCopy_same (reqBinds b) { s with near := n, tab := { s.tab with caddies := cs } }
  have hoctets : ∀ c, c ∈ (jobOf s b octets).octets.flatMap octetCores ↔ c ∈ octets.flatMap octetCores := fun c => by
    simp only [jobOf, List.mem_flatMap, mem_sortBy]
  simp only [createJob, hevict, hcopy, h, Option.getD_some]
  exact {
    jobs := rfl
    generations := rfl
    queues := rfl
    far := rfl
    core := fun c => by
      simp only [zeroCores_core, hoctets]
      rfl }

/-- A job that comes to a state which has taken its request comes to the state before. -/
theorem createJob_taken {s : State} {rq : MbxReq} {b : List Byte} {octets : List Nat} (code : Nat)
    (h : grantOctets (leAt b 0 2 / 8) (freeOctets s) [] = some octets) :
    JobCreated s (createJob (takenBy s code rq) b) (jobOf s b octets) := by
  have hc := createJob_jobCreated (s := takenBy s code rq) (by rw [takenBy_freeOctets]; exact h)
  have hjob : jobOf (takenBy s code rq) b octets = jobOf s b octets := by simp only [jobOf, takenBy_newJobId]
  rw [hjob] at hc
  exact {
    jobs := by rw [hc.jobs, takenBy_tab]
    generations := by rw [hc.generations, takenBy_tab]
    queues := by rw [hc.queues, takenBy_tab]
    far := by rw [hc.far, takenBy_far]
    core := fun c => by rw [hc.core, State.core, takenBy_cores, State.core] }

theorem execJobCreate_creates {s : State} {rq : MbxReq} (h : accepted s { code := 0x0030, len := some 0x58 } rq = true)
    (hfields : jobRequestFault (bodyOf rq) = none) (hchecks : jobRefused s (bodyOf rq) = none) :
    ∃ body, execJobCreate rq s = .next (respondAs (createJob (takenBy s 0x0030 rq) (bodyOf rq)) 0x0030 rq stOk 0 body) := by
  rw [execJobCreate, mailbox_accepted _ h]
  simp only [hfields, takenBy_jobRefused, hchecks, Reply.okWith]
  exact ⟨_, rfl⟩

/-! What settles once a job has gone (R385, R413 to R416): physical cores, the device state and answers, no work of a job. -/

/-- From s to t no job, far memory and no logical core changes. -/
structure SameWork (s t : State) : Prop where
  jobs : t.tab.jobs = s.tab.jobs
  far : t.far = s.far
  cores : t.cores = s.cores

theorem SameWork.refl (s : State) : SameWork s s := ⟨rfl, rfl, rfl⟩

theorem SameWork.trans {s t u : State} (h : SameWork s t) (k : SameWork t u) : SameWork s u :=
  ⟨k.jobs.trans h.jobs, k.far.trans h.far, k.cores.trans h.cores⟩

theorem SameWork.ite {c : Prop} [Decidable c] {s a b : State} (h : SameWork s a) (k : SameWork s b) :
    SameWork s (if c then a else b) := by
  split <;> assumption

theorem SameWork.foldl {α : Type} {f : State → α → State} (h : ∀ s x, SameWork s (f s x)) (l : List α) (s : State) :
    SameWork s (l.foldl f s) := by
  induction l generalizing s with
  | nil => exact SameWork.refl s
  | cons x l ih => exact (h s x).trans (ih _)

section
variable {s t : State} (h : SameWork s t)
include h

theorem SameWork.updPhys (p : Nat) (f : PhysCore → PhysCore) : SameWork s (t.updPhys p f) := h.trans ⟨rfl, rfl, rfl⟩

theorem SameWork.updDev (f : DevState → DevState) : SameWork s (t.updDev f) := h.trans ⟨rfl, rfl, rfl⟩

theorem SameWork.updLife (f : Lifetime → Lifetime) : SameWork s (Machine.updLife t f) := h.trans ⟨rfl, rfl, rfl⟩

theorem SameWork.noteRepair (a u st : Nat) : SameWork s (Machine.noteRepair t a u st) := h.trans ⟨rfl, rfl, rfl⟩

theorem SameWork.postBoth (e : Ev) : SameWork s (Machine.postBoth t e) :=
  h.trans ⟨congrArg _ (postBoth_tab t e), postBoth_far t e, postBoth_cores t e⟩

theorem SameWork.respondTo (p : Port) (x st d : Nat) (b : List Byte) : SameWork s (Machine.respondTo t p x st d b) :=
  h.trans ⟨congrArg _ (respondTo_tab ..), respondTo_far .., respondTo_cores ..⟩

theorem SameWork.setRetireClock (n : Nat) : SameWork s (t.updTab (fun v => { v with retireClock := n })) := h.trans ⟨rfl, rfl, rfl⟩

theorem SameWork.heldStep : SameWork s (Machine.heldStep t).2 := h.trans ⟨rfl, rfl, rfl⟩

theorem SameWork.noteExhausted (d : Nat) : SameWork s (Machine.noteExhausted t d) := SameWork.ite (h.postBoth _) h

theorem SameWork.refreshState : SameWork s (Machine.refreshState t) := SameWork.ite h ((h.updDev _).postBoth _)

theorem SameWork.retirePhys (p : Nat) : SameWork s (Machine.retirePhys t p) := by
  have hretired := fun f => (((h.updPhys p f).setRetireClock (t.tab.retireClock + 1)).updLife
    (fun l => { l with coresRetired := lifeInc l.coresRetired })).noteRepair 2 p 0
  exact SameWork.ite ((hretired _).noteRepair 4 p 0) (hretired _)

theorem SameWork.moveCore (p c : Nat) (port : Port) (box : Nat) : SameWork s (Machine.moveCore t p c port box) := by
  have hend : SameWork s (endRetire t p) := h.updDev _
  rw [Machine.moveCore]
  split
  · exact hend.respondTo _ _ _ _ _
  · have hstep := hend.heldStep
    split
    · exact hstep.respondTo _ _ _ _ _
    · exact ((((hstep.retirePhys p).updPhys _ _).updPhys _ _).refreshState.noteExhausted _).respondTo _ _ _ _ _

end

theorem parkFreed_sameWork (s : State) (cores : List Nat) : SameWork s (parkFreed s cores) := by
  refine SameWork.foldl (fun u c => ?_) cores s
  split
  · exact (SameWork.refl u).updPhys _ _
  · exact SameWork.refl u

theorem takeSpares_sameWork (s : State) : SameWork s (takeSpares s) := by
  refine SameWork.foldl (fun u c => SameWork.ite ?_ (SameWork.refl u)) (List.range 512) s
  split
  · exact ((SameWork.refl u).updPhys _ _).noteExhausted _
  · exact SameWork.refl u

theorem settleRetire_sameWork (s : State) (c : Nat) : SameWork s (settleRetire s c) := by
  refine SameWork.ite (SameWork.refl s) ?_
  split
  · exact (SameWork.refl s).moveCore _ c _ _
  · exact SameWork.refl s

theorem settleRetires_sameWork (s : State) : SameWork s (settleRetires s) := SameWork.foldl settleRetire_sameWork _ s

/-! A job removed (R329). -/

theorem endPairing_sameWork (s : State) (j : Job) : SameWork s (endPairing s j) := by
  rw [endPairing]
  split
  · exact ⟨rfl, rfl, rfl⟩
  · exact SameWork.refl s

/-- No extent is left to an owner whose extents are freed. -/
theorem owner_ne_of_freed {id : Nat} {owners : Tab Nat} {o : Nat × Nat}
    (h : o ∈ ownersOutside ((owners.filter (fun o => o.2 == id)).map (·.1)) owners) : o.2 ≠ id := by
  intro hid
  obtain ⟨ho, hkept⟩ := List.mem_filter.mp h
  have hnamed : o.1 ∈ (owners.filter (fun o => o.2 == id)).map (·.1) :=
    List.mem_map_of_mem (List.mem_filter.mpr ⟨ho, beq_iff_eq.mpr hid⟩)
  rw [List.contains_iff_mem.mpr hnamed] at hkept
  exact absurd hkept nofun

/-- Nothing of a job stands: no entry under its identifier, no extent, no dedup window, nothing in its cores (R329). -/
structure JobGone (u : State) (j : Job) : Prop where
  job : ∀ x ∈ u.tab.jobs, x.id ≠ j.id
  extents : ∀ o ∈ u.far.owners, o.2 ≠ j.id
  windows : ∀ w ∈ u.far.windows, some w.rjob ≠ j.rjob
  zeroed : ∀ c, c ∈ j.octets.flatMap octetCores → u.core c = {}

theorem JobGone.of_sameWork {u t : State} {j : Job} (h : JobGone u j) (k : SameWork u t) : JobGone t j where
  job := by rw [k.jobs]; exact h.job
  extents := by rw [k.far]; exact h.extents
  windows := by rw [k.far]; exact h.windows
  zeroed := fun c hc => by rw [State.core, k.cores]; exact h.zeroed c hc

/-- A job's extents and windows freed, its queues and streams with them. -/
def freeJobMemory (s : State) (j : Job) : State :=
  let es := (s.far.owners.filter (fun o => o.2 == j.id)).map (·.1)
  mapDies ((es.foldl freeExtent (s.updTab (fun t => { t with queues := t.queues.filter (fun q => q.job != j.id) }))).updFar
    (fun f => { f with windows := f.windows.filter (fun w => some w.rjob != j.rjob) }))
    (fun d => { d with streams := d.streams.filter (fun x => some x.rjob != j.rjob) })

theorem removeJob_eq (s : State) (j : Job) :
    removeJob s j = refreshState (takeSpares (settleRetires (parkFreed
      (zeroCores ((endPairing (freeJobMemory s j) j).updTab (fun t => { t with jobs := t.jobs.filter (fun x => x.id != j.id) }))
        (j.octets.flatMap octetCores)) (j.octets.flatMap octetCores)))) := rfl

theorem freeJobMemory_far (s : State) (j : Job) : ∃ tags, (freeJobMemory s j).far = { s.far with
    tags := tags, owners := ownersOutside ((s.far.owners.filter (fun o => o.2 == j.id)).map (·.1)) s.far.owners
    windows := s.far.windows.filter (fun w => some w.rjob != j.rjob) } := by
  simp only [freeJobMemory, mapDies, foldl_freeExtent]
  exact ⟨_, rfl⟩

theorem removeJob_jobGone (s : State) (j : Job) : JobGone (removeJob s j) j := by
  obtain ⟨tags, hfar⟩ := freeJobMemory_far s j
  have hfreed := (endPairing_sameWork (freeJobMemory s j) j).far.trans hfar
  rw [removeJob_eq]
  generalize endPairing (freeJobMemory s j) j = u at hfreed
  have hgone : JobGone (zeroCores (u.updTab (fun t => { t with jobs := t.jobs.filter (fun x => x.id != j.id) }))
      (j.octets.flatMap octetCores)) j := {
    job := fun x hx => by simpa using (List.mem_filter.mp hx).2
    extents := fun o ho => owner_ne_of_freed (owners := s.far.owners) (by
      have hmem : o ∈ u.far.owners := ho
      rwa [hfreed] at hmem)
    windows := fun w hw => by
      have hmem : w ∈ u.far.windows := hw
      rw [hfreed] at hmem
      simpa using (List.mem_filter.mp hmem).2
    zeroed := fun c hc => by rw [zeroCores_core, if_pos hc] }
  exact hgone.of_sameWork ((((parkFreed_sameWork _ _).trans (settleRetires_sameWork _)).trans
    (takeSpares_sameWork _)).refreshState)

/-- JOB_DESTROY of a live job: removed where every queue has reached CANCELLED, else the mailbox stays BUSY and the job waits. -/
theorem execJobDestroy_destroys {s v : State} {rq : MbxReq} {j : Job} (h : accepted s (nameSpec 0x0031) rq = true)
    (hj : findJob s (leAt (bodyOf rq) 0 2) = some j) (hlive : j.destroying = none)
    (hv : v = (queuesOf s j.id).foldl (fun t n => drainQueue (cancelQueue t n) n) (takenBy s 0x0031 rq)) :
    execJobDestroy rq s = .next (if queuesCancelled v j.id then respondAs (removeJob v j) 0x0031 rq stOk 0 []
      else updJob v j.id (fun x => { x with destroying := some (rq.port, rq.box) })) := by
  subst hv
  rw [execJobDestroy, mailbox_accepted _ h]
  simp only [takenBy_findJob, hj, hlive, Option.isSome_none, takenBy_queuesOf, Bool.false_eq_true, if_false, nameSpec]
  cases queuesCancelled ((queuesOf s j.id).foldl (fun t n => drainQueue (cancelQueue t n) n) (takenBy s 0x0031 rq)) j.id
  · rfl
  · rfl

end Sys2Proof.Machine
end

section
/-! The family of the host interface (13_host.md). -/

namespace Sys2Proof

open Sys2Proof.Machine

/-- Settles O57: a well-formed command answers a next state and leaves the commands behind it alone; a tick leaves the queue
empty. -/
theorem queuedCommandsRunInOrderWithoutAStop : Obligations.QueuedCommandsRunInOrderWithoutAStop := by
  intro s hwf
  cases hqueue : s.pending with
  | nil =>
    have hp : (gcountTick s).pending = [] := (gcountTick_pending s).trans hqueue
    exact ⟨gcountTick s, step_of_empty hqueue, hp, by rw [hp]; rfl⟩
  | cons i rest =>
    rw [hqueue, List.all_cons, Bool.and_eq_true] at hwf
    obtain ⟨hi, hrest⟩ := hwf
    obtain ⟨t, ht⟩ := exec_answers i { s with pending := rest } hi
    have hp : t.pending = rest := exec_pending ht
    exact ⟨t, (step_of_front hqueue).trans ht, hp, hp ▸ hrest⟩

/-- Settles O3: whatever its handler, a mailbox command does nothing once the ring is ignored. -/
theorem doorbellOnBusyOrDoneMailboxIgnored : Obligations.DoorbellOnBusyOrDoneMailboxIgnored := by
  intro i spec rq s hrow hbox hr hst
  obtain ⟨handler, hexec⟩ := exec_mailbox hrow
  rw [hexec, mailbox_busy_or_done handler hbox hr hst]

/-- Settles O4: whatever its handler, a mailbox command ends with the first check that fails. -/
theorem failedCheckAnswersAndChangesNothingElse : Obligations.FailedCheckAnswersAndChangesNothingElse := by
  intro i spec rq s status detail hrow hbox hr hf ho hs ht hc
  obtain ⟨handler, hexec⟩ := exec_mailbox hrow
  rw [hexec, mailbox_failed_check handler hbox hr hf ho hs ht hc]

/-- Settles O7: extent by extent, a grant or a release removes the tags and sets or removes the owner. -/
theorem memGrantAndReleaseMoveWholeRanges : Obligations.MemGrantAndReleaseMoveWholeRanges := by
  refine ⟨fun rq s ha hk hfree => ?_, fun rq s ha hk howned hidle => ?_⟩
  · rw [exec_memGrant, execMemGrant_grants (ownerKnown_iff.mpr hk) (accepts_spec rfl ha) hfree, foldl_grantExtent]
    rfl
  · rw [exec_memRelease, execMemRelease_releases (ownerKnown_iff.mpr hk) (accepts_spec rfl ha) howned hidle, foldl_freeExtent]
    rfl

/-- Settles O8: COPY_IN is a host write of the tier, which inside one block is that block's write; COPY_OUT reads the tier, races
the commands that write the bytes and writes the memory behind its port. -/
theorem copiesMoveBytesBetweenHostAndFarMemory : Obligations.CopiesMoveBytesBetweenHostAndFarMemory := by
  refine ⟨fun rq s host addr len ha hhost haddr hlen hp hr hh hn => ?copyIn,
    fun rq s host addr len b ha hhost haddr hlen hp hr hh hn hpos hb hfits hl hrace => ?block,
    fun rq s host addr len data ha hhost haddr hlen hdata hp hh hn => ?copyOut⟩
  case copyIn => exact execCopyIn_copies hhost haddr hlen hp hh hn (accepts_spec rfl ha) hr
  case block =>
    subst hb
    have hbytes : (memReadN (s.port rq.port).hostMem host len).length = len := memReadN_length _ _ _
    have hw := farHostWrite_hostBlockWritten (s := takenBy s 0x0012 rq) (a := addr)
      (List.ne_nil_of_length_pos (hbytes.symm ▸ hpos)) (hbytes.symm ▸ hfits) (by rw [takenBy_far]; exact hl)
      (by rw [takenBy_tab, hbytes]; exact hrace)
    obtain ⟨hstored, htag, hothers, htab, hcores, hnear, hkey, -, -⟩ := hw
    simp only [takenBy_far, takenBy_tab, takenBy_cores, takenBy_near, takenBy_key] at hstored hothers htab hcores hnear hkey
    refine ⟨_, execCopyIn_copies hhost haddr hlen hp hh hn (accepts_spec rfl ha) hr, ?_⟩
    simp only [respondAs_far, respondAs_tab, respondAs_cores, respondAs_near, respondAs_key]
    exact ⟨hstored, htag, hothers, htab, hcores, hnear, hkey⟩
  case copyOut =>
    subst hdata
    have hread := touchRead_rangeRead (takenBy s 0x0013 rq) addr len
    refine ⟨_, execCopyOut_copies hhost haddr hlen hp hh hn (accepts_spec rfl ha), rfl, ?_⟩
    simp only [respondAs_far, respondAs_tab, respondAs_cores, respondAs_near, respondAs_key, sendBack_far, sendBack_tab,
      sendBack_cores, sendBack_near, sendBack_key, hostWrite, State.updPort_far, State.updPort_tab, State.updPort_cores,
      State.updPort_near, State.updPort_key, hread.mem, hread.tags, hread.tab, hread.cores, hread.near, hread.key, takenBy_far,
      takenBy_raceRead_tab, takenBy_cores, takenBy_near, takenBy_key, true_and]
    refine ⟨raceWhere_none, fun hsilent => ?_⟩
    simp only [respondAs_hostMem hsilent, sendBack_port, State.updPort_port, State.updPort_port_other, hread.port, takenBy_hostMem,
      and_self]

/-- Settles O27: a read takes its bytes before any stack wakes, a write runs block by block over the stacks awake; a request of
more than 4,096 bytes is not honoured (log 154). -/
theorem bar2AndGcountReadsComplete : Obligations.Bar2AndGcountReadsComplete := by
  refine ⟨fun p offset length s hrange hlong => execBar2Read_too_long hrange hlong,
    fun p offset length base s hp hrange hshort hbase => ?read, fun p offset base data s hp hrange hbase => ?write,
    fun p offset base b data s hp hrange h0 hbase hb hfits hreach hl hrace => ?block,
    fun p s hup => execGcountLowRead_reads hup, fun p s h hup hshadow => ?latched, fun p s hup hshadow => ?current⟩
  case read =>
    subst hbase
    refine ⟨_, execBar2Read_reads hp hrange hshort, rfl, touchBlocks_raceReads_same .., fun hidle => ?_⟩
    obtain ⟨ct, ds, hsame⟩ := touchBlocks_raceReads_same s p (bar2Base s p + offset) length false
      (bar2Blocks s p (bar2Base s p + offset) length)
    rw [hsame]
    exact raceReads_none hidle
  case write =>
    subst hbase
    exact ⟨_, rfl, execBar2Write_writes hp hrange⟩
  case block =>
    subst hb
    obtain ⟨t, ht, hw⟩ := execBar2Write_writes_block hp hrange h0 hbase hfits hreach hl hrace
    exact ⟨t, ht, hw.stored, hw.tag, hw.others, hw.tab, hw.cores, hw.near, hw.key, hw.pa, hw.pb⟩
  case latched => rw [exec_gcountHighRead, execGcountHighRead_reads hup, hshadow]; rfl
  case current => rw [exec_gcountHighRead, execGcountHighRead_reads hup, hshadow]; rfl

/-- Settles O59: the record is that of the queue without INTR, and a message is a signal at the port that rang the queue; what a
signal is depends on the vector's mask alone. -/
theorem notifyingRecordSendsOneMessage : Obligations.NotifyingRecordSendsOneMessage := by
  intro n s q c howed _
  dsimp only
  refine ⟨fun p hi hn hh => ?notifies, fun h => ?silent, fun p hm => ?sends, fun p hm => ?pends, fun p hm hb => ?merges⟩
  case notifies => rw [exec_completionRecordPost, execCompletionRecordPost_posts howed, writeRecord_signals hi hn hh]
  case silent => rw [exec_completionRecordPost, execCompletionRecordPost_posts howed, writeRecord_silent h]
  case sends => rw [PortState.signal_unmasked hm]; exact ⟨rfl, rfl⟩
  case pends => rw [PortState.signal_masked hm]; exact ⟨rfl, getLsbD_or_one_shiftLeft _⟩
  case merges => rw [PortState.signal_masked hm, or_one_shiftLeft_of_getLsbD hb]

/-- Settles O15: a job is created in the state that has taken its request, its octets' cores zeroed; one that is destroyed leaves
nothing behind, and what settles after it touches no job's work. A waiting answer of JOB_DESTROY stands with the job (log 145). -/
theorem jobCreateGrantsAndJobDestroyFrees : Obligations.JobCreateGrantsAndJobDestroyFrees := by
  refine ⟨fun rq s octets ha hfields hchecks hgrant => ?create, fun rq s v j ha hj hlive hv hwait => ?waits,
    fun rq s v j ha hj hlive hv hdone => ?destroyed⟩
  case create =>
    obtain ⟨body, hexec⟩ := execJobCreate_creates (accepts_spec rfl ha) hfields hchecks
    have hjob := createJob_taken (rq := rq) 0x0030 hgrant
    refine ⟨_, jobOf s (bodyOf rq) octets, body, hexec, hjob.jobs, rfl, rfl, rfl, rfl, rfl, rfl, rfl, rfl, rfl, hjob.generations,
      hjob.queues, hjob.far, fun c hc => ?_, fun c hc => ?_⟩
    · rw [hjob.core, if_pos hc]
    · rw [hjob.core, if_neg hc]
  case waits =>
    rw [exec_jobDestroy, execJobDestroy_destroys (accepts_spec rfl ha) hj hlive hv, if_neg (Bool.eq_false_iff.mp hwait)]
  case destroyed =>
    have hgone := removeJob_jobGone v j
    refine ⟨_, ?_, hgone.job, hgone.extents, hgone.windows, hgone.zeroed⟩
    rw [exec_jobDestroy, execJobDestroy_destroys (accepts_spec rfl ha) hj hlive hv, if_pos hdone]

/-- Settles O5: each handler answers with the body of a state that has taken the request, which is the body of the state
before. -/
theorem queriesAnswerWithTheBodyTheTablesGive : Obligations.QueriesAnswerWithTheBodyTheTablesGive := by
  refine ⟨fun rq s ha => ?info, fun rq s ha => ?svc, fun rq s ha => ?core, fun rq s j ha hj => ?job,
    fun rq s c ha hc hst => ?caddy⟩
  case info =>
    rw [exec_getInfo]
    refine mailbox_accepted_done (u := s) (accepts_spec rfl ha) ?_
    rw [takenBy_infoBody]
    rfl
  case svc =>
    rw [exec_svcStatus]
    refine mailbox_accepted_done (u := s) (accepts_spec rfl ha) ?_
    rw [takenBy_svcBody, svcBody]
    simp only [length_filter_physOf, Reply.okWith]
  case core =>
    rw [exec_coreInfo]
    refine mailbox_accepted_done (u := s) (accepts_spec rfl ha) ?_
    simp only [takenBy_physCore, Reply.okWith]
  case job =>
    rw [exec_jobStatus]
    refine mailbox_accepted_done (u := s) (accepts_spec rfl ha) ?_
    simp only [takenBy_findJob, hj]
    rfl
  case caddy =>
    rw [exec_caddyQuery]
    refine mailbox_accepted_done (u := s) (accepts_spec rfl ha) ?_
    simp only [takenBy_findCaddy, hc, if_neg hst, takenBy_tab, Reply.okWith]

/-- Settles O13: a queue in another state than IDLE and CANCELLED stays as it is. -/
theorem queueDestroyInUseUnlessIdleOrCancelled : Obligations.QueueDestroyInUseUnlessIdleOrCancelled := by
  intro rq s q ha hq
  have hfind : findQueue s (leAt (bodyOf rq) 0 2) = some q := hq
  refine ⟨fun hst => ?_, fun hst => ?_⟩
  · have hb : (q.st == .idle || q.st == .cancelled) = true := by simpa using hst
    rw [exec_queueDestroy]
    refine mailbox_accepted_done (accepts_spec rfl ha) ?_
    simp only [takenBy_findQueue, hfind, hb, if_true, Reply.ok, takenBy_updTab]
    rfl
  · have hb : (q.st == .idle || q.st == .cancelled) = false := by simpa using hst
    rw [exec_queueDestroy]
    refine mailbox_accepted_done (u := s) (accepts_spec rfl ha) ?_
    simp only [takenBy_findQueue, hfind, hb, Bool.false_eq_true, if_false, Reply.fail]

/-- Settles O14, command by command; rings that move wait for a doorbell and rings that stay in device memory go on fetching
(log 134). -/
theorem queueCommandsComplete : Obligations.QueueCommandsComplete := by
  refine ⟨fun rq s n ha hfab hjob hrings hn => ?create, fun rq s ha hsome => ?set, fun rq s ha hsome => ?cancel,
    fun rq s q ha hq hst => ?resume, fun rq s q ha hq hst => ?reset, fun rq s q ha hq hrings => ?rehome,
    fun rq s q ha hq hmove hrings => ?moves, fun x p far sq cq h => Queue.rehome_moves p sq cq h,
    fun x p h => Queue.rehome_stays p h⟩
  case create =>
    obtain ⟨j, hj, hlive⟩ := hjob
    exact execQueueCreate_creates (accepts_spec rfl ha) hfab hj hlive hrings hn
  case set =>
    obtain ⟨q, hq⟩ := Option.isSome_iff_exists.mp hsome
    rw [exec_queueSet, execQueueSet_sets hq (accepts_spec rfl ha), findQueue_num hq]
    rfl
  case cancel =>
    obtain ⟨q, hq⟩ := Option.isSome_iff_exists.mp hsome
    exact execQueueCancel_cancels hq (accepts_spec rfl ha)
  case resume => exact execQueueResume_resumes hq (accepts_spec rfl ha) hst
  case reset => exact execQueueReset_resets hq (accepts_spec rfl ha) hst
  case rehome => exact execQueueRehome_rehomes (accepts_spec rfl ha) hq hrings
  case moves => exact execQueueRehome_moves (accepts_spec rfl ha) hq hrings hmove

/-- Settles O29: PORT_DOWN and PERST are one row; PORT_UP posts its event only where the port was up before (log 38). -/
theorem portsAndHubFaultsAct : Obligations.PortsAndHubFaultsAct := by
  refine ⟨fun i port s hi hup => ?down, fun i port s hi hdown => ?stays,
    fun port gen lanes s hdown hcount hrole hlo hhi hlanes => ?up, fun hub s hsvc => ?fault, fun hub s hsvc => ?heartbeat,
    fun hub step s hdebug => ?halts, fun hub step s hdebug => ?inert⟩
  case down => rcases hi with rfl | rfl <;> exact congrArg Host.Outcome.next (portGoesDown_of_up hup)
  case stays => rcases hi with rfl | rfl <;> exact congrArg Host.Outcome.next (portGoesDown_of_down hdown)
  case up =>
    have htrains : trainsTo gen lanes = true := trainsTo_iff.mpr ⟨⟨hlo, hhi⟩, hlanes⟩
    exact ⟨_, _, execPortUp_trains (l := ⟨port, gen, lanes⟩) hdown hcount hrole htrains, rfl, rfl⟩
  case fault => exact congrArg Host.Outcome.next (if_pos (inService_iff.mpr hsvc))
  case heartbeat => exact congrArg Host.Outcome.next (if_pos (inService_iff.mpr hsvc))
  case halts => exact congrArg Host.Outcome.next (if_pos (debugHalt_iff.mpr hdebug))
  case inert => exact congrArg Host.Outcome.next (if_neg fun h => hdebug (debugHalt_iff.mp h))

/-- Settles O35: entries are fetched as the doorbell is taken (log 34). -/
theorem queueDoorbellsMoveTheRings : Obligations.QueueDoorbellsMoveTheRings := by
  refine ⟨fun p n v s q hn hup hrom hd hsvc hserves hide ht hq hst hv hgood => ?moves,
    fun p n v s q hn hup hrom hd hsvc hserves hide ht hq hst hv hbad => ?refused,
    fun p n v s hn hup hrom hd hsvc hserves hide ht => doorbell_latched ⟨hup, hrom, hd, hsvc, hserves, hide⟩ hn ht⟩
  case moves =>
    have hring : doorbell s p n v = .next (fetchAll (updQueue s n (fun q => q.rung v)) n) := by
      rw [doorbell_applies ⟨hup, hrom, hd, hsvc, hserves, hide⟩ hn ht, ringQueue_eq hq hst hv, hgood]
      rfl
    exact ⟨hring, hring⟩
  case refused =>
    rw [exec_sqTail, execSqTail, doorbell_applies ⟨hup, hrom, hd, hsvc, hserves, hide⟩ hn ht, ringQueue_eq hq hst hv, if_pos hbad]

end Sys2Proof
end

section
/-! SUPPORT. Messages to other devices and the fabric commands (R352, R359 to R363, R366, R370, R371): what each reads of a state
that has taken its request, and what it comes to. -/

namespace Sys2Proof.Machine

open Sys2Proof

/-! The fabric's part of the state. -/

theorem State.updFab_congr {s : State} {f g : Fabric → Fabric} (h : f s.fab = g s.fab) : s.updFab f = s.updFab g := by
  rw [State.updFab, h, State.updFab]

theorem takenBy_updFab (s : State) (c : Nat) (rq : MbxReq) (f : Fabric → Fabric) :
    (takenBy s c rq).updFab f = takenBy (s.updFab f) c rq := by
  simpa [State.updFab] using takenBy_with_fab s c rq (f s.fab)

theorem takenBy_updFar (s : State) (c : Nat) (rq : MbxReq) (f : FarTier → FarTier) :
    (takenBy s c rq).updFar f = takenBy (s.updFar f) c rq := by
  simpa [State.updFar] using takenBy_with_far s c rq (f s.far)

@[simp] theorem takenBy_worgon (s : State) (c : Nat) (rq : MbxReq) (k : Nat) : (takenBy s c rq).worgon k = s.worgon k := by
  rw [State.worgon, takenBy_fab, State.worgon]

@[simp] theorem takenBy_liveWorker (s : State) (c : Nat) (rq : MbxReq) (d : Nat) :
    liveWorker (takenBy s c rq) d = liveWorker s d := by
  rw [liveWorker, takenBy_fab, liveWorker]

@[simp] theorem takenBy_lostWorkers (s : State) (c : Nat) (rq : MbxReq) : lostWorkers (takenBy s c rq) = lostWorkers s := by
  rw [lostWorkers, takenBy_fab, lostWorkers]

/-! Messages (R355; log 93). -/

theorem sendTo_same (s : State) (dev cls : Nat) (bytes : List Byte) :
    ∃ links, sendTo s dev cls bytes = { s with fab := { s.fab with worgon := links } } := by
  rw [sendTo]
  split
  · exact ⟨_, rfl⟩
  · exact ⟨s.fab.worgon, rfl⟩

/-- Telling devices changes what is handed over and the links alone. -/
theorem foldl_tell_same {α : Type} (dev : α → Nat) (bytes : α → List Byte) (l : List α) (s : State) :
    ∃ fw links, l.foldl (fun u x => tell u (dev x) (bytes x)) s =
      { s with fab := { s.fab with forwarded := fw, worgon := links } } := by
  induction l generalizing s with
  | nil => exact ⟨s.fab.forwarded, s.fab.worgon, rfl⟩
  | cons x l ih =>
    obtain ⟨_, hone⟩ := sendTo_same (s.updFab (fun f => { f with forwarded := f.forwarded ++ [(dev x, bytes x)] })) (dev x)
      classCtrl (bytes x)
    obtain ⟨fw, links, hrest⟩ := ih (tell s (dev x) (bytes x))
    rw [List.foldl_cons, hrest, tell, hone]
    exact ⟨fw, links, rfl⟩

/-! Enumeration (R351, R352, R361, R366). -/

@[simp] theorem takenBy_enumerable (s : State) (c : Nat) (rq : MbxReq) : enumerable (takenBy s c rq) = enumerable s := by
  funext f
  rw [enumerable, takenBy_worgon, enumerable]

@[simp] theorem takenBy_nextDepth (s : State) (c : Nat) (rq : MbxReq) : nextDepth (takenBy s c rq) = nextDepth s := by
  funext tree above
  rw [nextDepth, takenBy_enumerable, nextDepth]

@[simp] theorem takenBy_numberTree (s : State) (c : Nat) (rq : MbxReq) (tree : List (WorkerFound × Nat)) (n depth : Nat)
    (free : List Nat) (above : List (Nat × Nat)) :
    numberTree (takenBy s c rq) tree n depth free above = numberTree s tree n depth free above := by
  induction n generalizing depth free above with
  | zero => rfl
  | succ n ih => simp only [numberTree, takenBy_nextDepth, ih]

@[simp] theorem takenBy_enumerate (s : State) (c : Nat) (rq : MbxReq) (tree : List WorkerFound) :
    enumerate (takenBy s c rq) tree = enumerate s tree := by
  rw [enumerate, takenBy_lostWorkers, takenBy_numberTree, enumerate]

/-- The workers after an enumeration: the lost ones and those the tree presents. -/
def workersAfter (s : State) (tree : List WorkerFound) : List Worker :=
  sortBy (·.dev) (lostWorkers s ++ (enumerate s tree).map (·.1))

/-- The positions in the tree that an enumeration refuses: not numbered, though the parent is. -/
def refusedPositions (s : State) (tree : List WorkerFound) : List Nat :=
  ((List.range tree.length).map (· + 1)).filter (fun i => !(enumerate s tree).any (fun w => w.2 == i) &&
    (tree[i - 1]?).any (fun x => x.parent == 0 || (enumerate s tree).any (fun w => w.2 == x.parent)))

/-- What an enumeration leaves the manager with, before it tells the workers. -/
def enumeratedFabric (s : State) (tree : List WorkerFound) (f : Fabric) : Fabric :=
  { f with workers := workersAfter s tree, refused := refusedPositions s tree, devNumber := 0, enumerated := true
           tags := renumberTags s.fab (workersAfter s tree) }

theorem execFabEnum_numbers {s : State} {rq : MbxReq} {tree : List WorkerFound} (h : accepted s { code := 0x0080 } rq = true)
    (hjobs : s.tab.jobs.any (fun j => j.link.isSome) = false) (hlinked : s.fab.linked = []) :
    execFabEnum rq tree s = .next (respondAs ((enumerate s tree).foldl
        (fun u w => tell u w.1.dev (numberBytes (workersAfter s tree) w.1.dev))
        ((takenBy s 0x0080 rq).updFab (enumeratedFabric s tree)))
      0x0080 rq stOk 0 (leBytes 4 (enumerate s tree).length ++ (enumerate s tree).flatMap (fun w => workerBytes w.1))) := by
  have hfree : (s.tab.jobs.any (fun j => j.link.isSome) || !s.fab.linked.isEmpty) = false := by rw [hjobs, hlinked]; rfl
  rw [execFabEnum, mailbox_accepted _ h]
  simp only [enumHandler, takenBy_tab, takenBy_fab, hfree, Bool.false_eq_true, if_false, takenBy_enumerate, takenBy_lostWorkers,
    Reply.okWith]
  rw [State.updFab_congr (g := enumeratedFabric s tree) (by rw [takenBy_fab]; rfl)]
  rfl

/-! Commands that name a device (R359, R360, R362). -/

/-- A command on a live worker reaches its handler. -/
theorem withDevice_live {f : State → Nat → List Byte → Reply} {s : State} {b : List Byte} (c : Nat) (rq : MbxReq)
    (h : (liveWorker s (leAt b 0 1)).isSome = true) :
    withDevice f (takenBy s c rq) b = f (takenBy s c rq) (leAt b 0 1) b := by
  have hlive : ¬ (liveWorker (takenBy s c rq) (leAt b 0 1)).isNone = true := by
    rw [takenBy_liveWorker, Bool.not_eq_true, ← Option.not_isSome, h, Bool.not_true]
  rw [withDevice, if_neg hlive]

section
variable {s : State} {rq : MbxReq} (hlive : (liveWorker s (leAt (bodyOf rq) 0 1)).isSome = true)
include hlive

theorem execFabStatus_answers {answer : List Byte} (h : accepted s (deviceSpec 0x0081) rq = true) :
    execFabStatus rq answer s = .next (respondAs s 0x0081 rq stOk 0 (padTo 14 answer)) :=
  mailbox_accepted_done h (withDevice_live 0x0081 rq hlive)

theorem execFabEvents_drains {drained : List (List Byte)} (h : accepted s (deviceSpec 0x0083) rq = true) :
    execFabEvents rq drained s = .next (respondAs (tell (takenBy s 0x0083 rq) (leAt (bodyOf rq) 0 1)
      (leBytes 2 0x0083 ++ leBytes 2 (min drained.length 126))) 0x0083 rq stOk 0
      (padTo 0x20 (leBytes 1 (min drained.length 126)) ++ (drained.take 126).flatMap (padTo 32))) := by
  have hn : (drained.take 126).length = min drained.length 126 := by rw [List.length_take, Nat.min_comm]
  rw [execFabEvents, mailbox_accepted _ h, withDevice_live _ rq hlive]
  simp only [Reply.okWith, hn]
  rfl

theorem execFabDoorbell_hands
    (h : accepted s { code := 0x0084, len := some 16, reserved := [(0x01, 0, 8), (0x04, 0, 32)] } rq = true) :
    execFabDoorbell rq s = .next (respondAs (tell (takenBy s 0x0084 rq) (leAt (bodyOf rq) 0 1)
      (leBytes 2 0x0084 ++ bodyOf rq)) 0x0084 rq stOk 0 []) := by
  rw [execFabDoorbell, mailbox_accepted _ h, withDevice_live _ rq hlive]
  rfl

/-- FAB_FORWARD reaches its handler, whose answer is always OK. -/
theorem execFabForward_live {answer : List Byte} (h : accepted s
    { code := 0x0082, len := none, reserved := [(0x01, 0, 248)], fits := forwardRange } rq = true) {u : State} {body : List Byte}
    (hd : forwardHandler rq answer (takenBy s 0x0082 rq) (leAt (bodyOf rq) 0 1) (bodyOf rq) = .okWith u body) :
    execFabForward rq answer s = .next (respondAs u 0x0082 rq stOk 0 body) := by
  rw [execFabForward, mailbox_accepted _ h, withDevice_live _ rq hlive, hd]
  rfl

end

section
variable {rq : MbxReq} {answer b page body : List Byte} {t : State} {d code : Nat} (hpage : page = b.drop 0x20)
  (hcode : code = leAt page 0 2) (hbody : body = (page.drop 0x20).take (leAt page 2 2))
include hpage hcode hbody

/-- A command that the target must refuse is refused here, and nothing is handed over (R360). -/
theorem forwardHandler_refuses {st detail : Nat} (h : embeddedRefusal t rq.port code body = some (st, detail)) :
    forwardHandler rq answer t d b = .okWith t (pageBytes code (leAt page 4 4) st detail []) := by
  subst hbody hcode hpage
  simp only [forwardHandler, h]

theorem forwardHandler_forwards (h : embeddedRefusal t rq.port code body = none) :
    forwardHandler rq answer t d b = .okWith
      (noteDestroyed (takeCopy (recordTag (forwardPage t rq.port d code page body) rq.port d code body answer) rq.port code body
        answer) d code body answer) ((answer.take (0x20 + leAt answer 2 2)).take 4064) := by
  subst hbody hcode hpage
  simp only [forwardHandler, h]

end

/-! FAB_SEAL (R287, R366). -/

/-- The state once a device is sealed: without its dedup windows, its place among the senders of jobs, its tags, its linked jobs and
its number. -/
def sealDevice (s : State) (d : Nat) : State :=
  { s with
    far := { s.far with windows := s.far.windows.filter (fun w => w.srcDev != d) }
    tab := { s.tab with jobs := s.tab.jobs.map (fun j => { j with peers := j.peers.filter (· != d) }) }
    fab := { s.fab with workers := s.fab.workers.filter (fun w => w.dev != d)
                        tags := s.fab.tags.filter (fun x => x.1 != d)
                        linked := s.fab.linked.filter (fun x => x.1 != d) } }

theorem execFabSeal_seals {s : State} {rq : MbxReq} (h : accepted s (deviceSpec 0x0088) rq = true)
    (hlost : s.fab.workers.any (fun w => w.lost && w.dev == leAt (bodyOf rq) 0 1) = true) :
    execFabSeal rq s = .next (respondAs (sealDevice s (leAt (bodyOf rq) 0 1)) 0x0088 rq stOk 0 []) := by
  have hany : (lostWorkers s).any (fun w => w.dev == leAt (bodyOf rq) 0 1) = true := by rw [lostWorkers, List.any_filter, hlost]
  refine mailbox_accepted_done h ?_
  simp only [takenBy_lostWorkers, hany, Bool.not_true, Bool.false_eq_true, if_false, takenBy_updFar, takenBy_updTab, takenBy_updFab]
  rfl

/-! FAB_LAUNCH (R370). -/

/-- The manager's own doorbells of a FAB_LAUNCH. -/
def ownLaunches (p : Port) (b : List Byte) : List Launch :=
  ((launchEntries b).filter (fun e => e.1 == 0)).map (fun e =>
    { when_ := BitVec.ofNat 64 (leAt b 0 8), queue := e.2.1, value := BitVec.ofNat 64 e.2.2.1, port := p })

/-- The bit mask of the devices that received their doorbell after L. -/
def lateMask (late : List Nat) (b : List Byte) : Nat :=
  ((late.filter (fun d => d != 0 && (launchEntries b).any (fun e => e.1 == d))).eraseDups).foldl (fun n d => n + 2 ^ d) 0

/-- The message with another device's doorbell. -/
def launchBytes (b : List Byte) (e : Nat × Nat × Nat × Nat) : List Byte :=
  leBytes 2 0x0085 ++ leBytes 2 e.2.1 ++ leBytes 8 (leAt b 0 8) ++ leBytes 8 e.2.2.1

theorem execFabLaunch_launches {s : State} {rq : MbxReq} {late : List Nat} (h : accepted s
      { code := 0x0085, len := none, reserved := [(0x0A, 0, 48)], fits := launchFits, sizes := [(0x08, 2)]
        range := fun b => if 253 < leAt b 8 2 then some 0x08 else none } rq = true)
    (hknown : (launchEntries (bodyOf rq)).all (fun e => e.1 == 0 || (liveWorker s e.1).isSome) = true)
    (hahead : s.now.toNat + 10000 ≤ leAt (bodyOf rq) 0 8) :
    execFabLaunch rq late s = .next (respondAs (((launchEntries (bodyOf rq)).filter (fun e => e.1 != 0)).foldl
        (fun u e => tell u e.1 (launchBytes (bodyOf rq) e))
        ((takenBy s 0x0085 rq).updFab (fun f => { f with launches := s.fab.launches ++ ownLaunches rq.port (bodyOf rq) })))
      0x0085 rq stOk 0 (leBytes 32 (lateMask late (bodyOf rq)))) := by
  have hnone : (launchEntries (bodyOf rq)).find? (fun e => e.1 != 0 && (liveWorker s e.1).isNone) = none := by
    refine List.find?_eq_none.mpr fun e he => ?_
    have hdev := List.all_eq_true.mp hknown e he
    rw [Bool.or_eq_true] at hdev
    rcases hdev with hown | hlive
    · simp [bne, hown]
    · simp [← Option.not_isSome, hlive]
  rw [execFabLaunch, mailbox_accepted _ h]
  simp only [launchHandler, takenBy_now, if_neg (Nat.not_lt.mpr hahead), takenBy_liveWorker, hnone, Reply.okWith]
  rw [State.updFab_congr (g := fun f => { f with launches := s.fab.launches ++ ownLaunches rq.port (bodyOf rq) })
    (by rw [takenBy_fab]; rfl)]
  rfl

/-! FAB_LINK and FAB_PAIR (R363, R371). -/

@[simp] theorem takenBy_memberOf (s : State) (c : Nat) (rq : MbxReq) : memberOf (takenBy s c rq) = memberOf s := by
  funext answers dev job
  simp only [memberOf, takenBy_findJob, takenBy_findCaddy]

@[simp] theorem takenBy_linkFault (s : State) (c : Nat) (rq : MbxReq) : linkFault (takenBy s c rq) = linkFault s := by
  funext answers sink es
  simp only [linkFault, takenBy_memberOf, takenBy_liveWorker]

/-- The jobs of a FAB_LINK that other devices serve. -/
def linkedElsewhere (b : List Byte) : List (Nat × Nat) :=
  ((linkEntries b).filter (fun e => e.1 != 0)).map (fun e => (e.1, e.2.1))

/-- One entry of a FAB_LINK: a job of the manager gets its link, another device is told. -/
def linkOne (b : List Byte) (u : State) (e : Nat × Nat × Nat) : State :=
  if e.1 = 0 then
    updJob u e.2.1 (fun j => { j with link := some ⟨leAt b 0 1, (linkEntries b).map (fun e => (e.1, e.2.1))⟩ })
  else tell u e.1 (leBytes 2 0x0086 ++ leBytes 2 e.2.1 ++ b)

theorem execFabLink_links {s : State} {rq : MbxReq} {answers : List (Nat × Nat × List Nat × List Nat)} (h : accepted s
      { code := 0x0086, len := none, reserved := [(0x02, 0, 16)], fits := linkFits, sizes := [(0x01, 1)] } rq = true)
    (hchecks : linkFault s answers (leAt (bodyOf rq) 0 1) (linkEntries (bodyOf rq)) = none) :
    execFabLink rq answers s = .next (respondAs ((linkEntries (bodyOf rq)).foldl (linkOne (bodyOf rq))
      ((takenBy s 0x0086 rq).updFab (fun f => { f with linked := s.fab.linked ++ linkedElsewhere (bodyOf rq) })))
      0x0086 rq stOk 0 []) := by
  rw [execFabLink, mailbox_accepted _ h]
  simp only [linkHandler, takenBy_linkFault, hchecks, Reply.ok]
  rw [State.updFab_congr (g := fun f => { f with linked := s.fab.linked ++ linkedElsewhere (bodyOf rq) })
    (by rw [takenBy_fab]; rfl)]
  rfl

/-- The pairing that FAB_PAIR gives a job: comparison begins at once where the peer has answered its own (R371, log 95). -/
def pairingOf (j : Job) (b : List Byte) : Pairing :=
  { peerJob := leAt b 2 2, port := field (leAt b 4 1) 0 4, fromSerial := if j.peerPaired then some j.nextSerial.toNat else none }

theorem execFabPair_pairs {s : State} {rq : MbxReq} {j : Job}
    (h : accepted s { code := 0x0087, len := some 8, reserved := [(0x04, 4, 28)] } rq = true)
    (hj : findJob s (leAt (bodyOf rq) 0 2) = some j) (hrole : (s.worgon (field (leAt (bodyOf rq) 4 1) 0 4)).role = 3)
    (hpair : j.pair = none) :
    execFabPair rq s = .next (respondAs (transmit
      (updJob (takenBy s 0x0087 rq) j.id (fun x => { x with pair := some (pairingOf j (bodyOf rq)) }))
      (field (leAt (bodyOf rq) 4 1) 0 4) classCtrl (leBytes 2 0x0087 ++ leBytes 2 (leAt (bodyOf rq) 2 2)))
      0x0087 rq stOk 0 []) := by
  have hpeer : ¬ ((s.worgon (field (leAt (bodyOf rq) 4 1) 0 4)).role != 3) = true := by rw [hrole]; decide
  have hfree : ¬ j.pair.isSome = true := by rw [hpair]; decide
  rw [execFabPair, mailbox_accepted _ h]
  simp only [takenBy_findJob, hj, takenBy_worgon, if_neg hpeer, if_neg hfree]
  rfl

end Sys2Proof.Machine
end

section
/-! SUPPORT. What reaches a device over the fabric of itself (R354, R365 to R368, R370 to R374): launched doorbells, records of the
peer, links that fall silent, refusals, flits, GCOUNT. -/

namespace Sys2Proof.Machine

open Sys2Proof

/-! Pairs (R371 to R374). -/

theorem updJob_congr {s : State} {id : Nat} {f g : Job → Job} (h : ∀ x ∈ s.tab.jobs, x.id = id → f x = g x) :
    updJob s id f = updJob s id g := by
  have hjobs : updWhere (fun j => j.id == id) f s.tab.jobs = updWhere (fun j => j.id == id) g s.tab.jobs := by
    refine List.map_congr_left fun x hx => ?_
    by_cases hid : x.id = id
    · rw [if_pos (beq_iff_eq.mpr hid), if_pos (beq_iff_eq.mpr hid), h x hx hid]
    · rw [if_neg (mt beq_iff_eq.mp hid), if_neg (mt beq_iff_eq.mp hid)]
  rw [updJob, State.updTab, hjobs]
  rfl

/-- The first record of the peer ends no serial. -/
theorem Pairing.hear_first {p : Pairing} (r : CmpRec) (h : p.last = none) :
    p.hear r = { p with theirs := if p.theirs.length < 1048576 then p.theirs ++ [r] else p.theirs, last := some r.serial } := by
  simp only [Pairing.hear, h]
  rfl

/-- A later record of another serial ends the records of the one before, once (R372; log 89). -/
theorem Pairing.hear_after {p : Pairing} {n : Nat} (r : CmpRec) (h : p.last = some n) :
    p.hear r = { p with
      theirs := if p.theirs.length < 1048576 then p.theirs ++ [r] else p.theirs
      last := some r.serial
      ended := if n = r.serial ∨ n ∈ p.ended then p.ended else p.ended ++ [n] } := by
  simp only [Pairing.hear, h, Bool.or_eq_true, decide_eq_true_eq, List.contains_iff_mem]
  rfl

/-- A record that comes over a link that is up for a job not diverged is heard, and what both have is compared. -/
theorem execComparisonRecord_hears {s : State} {job serial block : Nat} {check : W32} {j : Job} {p : Pairing}
    (hpair : j.pair = some p) (hsame : j.diverged = false) (hup : (s.worgon p.port).up = true)
    (honly : ∀ x ∈ s.tab.jobs, x.id = job → x = j) :
    execComparisonRecord job serial block check s =
      .next (settlePair (updJob s job (fun x => { x with pair := some (p.hear ⟨serial, block, check⟩) })) job) := by
  rw [execComparisonRecord]
  refine congrArg (fun u => Host.Outcome.next (settlePair u job)) (updJob_congr fun x hx hid => ?_)
  rw [honly x hx hid, hpair, hsame]
  simp only [Option.map_some, hup, Bool.not_false, Bool.and_self, if_true]

theorem execPeerLinkTimeout_diverges {s : State} {job : Nat} {j : Job} {p : Pairing} (hj : findJob s job = some j)
    (hsame : j.diverged = false) (hpair : j.pair = some p) (hsilent : 10000000 ≤ s.since (s.worgon p.port).lastValid) :
    execPeerLinkTimeout job s = .next (diverge s job (2 ^ 64 - 1)) := by
  have hms : 100 * msTicks ≤ s.since (s.worgon p.port).lastValid := hsilent
  simp only [execPeerLinkTimeout, hj, Option.bind_some, hsame, hpair, Bool.false_eq_true, if_false, if_pos hms]

/-! Launches, loss and refusal (R365 to R367, R370, R494). -/

/-- A doorbell of a queue whose count has come. -/
def launchDue (s : State) (queue : Nat) (l : Launch) : Bool := l.queue == queue && decide (l.when_.toNat ≤ s.now.toNat)

theorem execLaunchDoorbellApply_rings {s : State} {queue : Nat} (h : queue < 8192) :
    execLaunchDoorbellApply queue s = .next ((s.fab.launches.filter (launchDue s queue)).foldl applyLaunch
      (s.updFab (fun f => { f with launches := f.launches.filter (fun l => !launchDue s queue l) }))) :=
  if_neg (Nat.not_le.mpr h)

theorem execWorkerLossTimeout_loses {s : State} {device : Nat} {w : Worker} (hw : liveWorker s device = some w)
    (hrole : s.dev.role = 1) (hsilent : silent s w = true) :
    execWorkerLossTimeout device s = .next (((sortBy (fun d => d) (subtree s device)).filter
      (fun d => (liveWorker s d).isSome)).foldl loseWorker s) := by
  rw [execWorkerLossTimeout, hw]
  simp only [hrole, hsilent]
  rfl

theorem execWorkerRefusal_worker {s : State} (h : s.dev.role = 2) (enumerating : Bool) :
    execWorkerRefusal enumerating s = .next (if enumerating then refusedAtEnum s else forgetJobs s) := by
  rw [execWorkerRefusal, h]
  rfl

/-! Flits and GCOUNT (R354, R368). -/

theorem flitIntact_iff {f : Flit} : flitIntact f = true ↔ f.crc = crc32c (coveredBytes f) := beq_iff_eq

theorem execFlitReceive_up {s : State} {k : Fin 12} (h : (s.worgon k.val).up = true) (f : Flit) :
    execFlitReceive k f s = .next (if flitIntact f then acceptFlit s k.val f else dropFlit s k.val) := by
  rw [execFlitReceive, h]
  rfl

theorem execGcountSync_numbered {s : State} (hrole : s.dev.role = 2) (hdev : s.fab.devNumber ≠ 0) (t1 t2 t3 t4 : W64) :
    execGcountSync t1 t2 t3 t4 s = .next (
      if s.fab.enumerated then s.updFab (fun f => { f with correction := syncOffset t1 t2 t3 t4, offset := syncOffset t1 t2 t3 t4 })
      else ((s.updHub .h0 (fun h => { h with gcount := t3 + BitVec.ofNat 64 (syncDelay t1 t2 t3 t4) })).updHub .h1
        (fun h => { h with gcount := t3 + BitVec.ofNat 64 (syncDelay t1 t2 t3 t4) })).updFab
          (fun f => { f with enumerated := true, correction := 0, offset := 0 })) := by
  have hworker : ¬ (s.dev.role.val != 2 || decide (s.fab.devNumber = 0)) = true := by
    rw [hrole, decide_eq_false hdev]
    decide
  rw [execGcountSync, if_neg hworker]

end Sys2Proof.Machine
end

section
/-! SUPPORT. Lanes and the training of Worgon ports (R355, R356, R358). -/

namespace Sys2Proof.Machine

open Sys2Proof

theorem State.updWorgon_worgon (s : State) (k i : Nat) (f : Worgon → Worgon) :
    (s.updWorgon k f).worgon i = if k = i then f (s.worgon k) else s.worgon i := tabGet_tabPut ..

/-! What is sent leaves a port's role alone. -/

@[simp] theorem Worgon.sendOne_role (w : Worgon) (cls : Nat) (payload : List Byte) : (w.sendOne cls payload).role = w.role := rfl

@[simp] theorem Worgon.sendFlit_role (w : Worgon) (now : W64) (cls : Nat) (payload : List Byte) :
    (w.sendFlit now cls payload).role = w.role := by
  rw [Worgon.sendFlit, Worgon.sendOne_role]
  split
  · rw [Worgon.sendOne_role]
  · rfl

@[simp] theorem Worgon.sendPacket_role (w : Worgon) (now : W64) (cls : Nat) (bytes : List Byte) :
    (w.sendPacket now cls bytes).role = w.role := by
  rw [Worgon.sendPacket]
  induction flitsOf bytes generalizing w with
  | nil => rfl
  | cons p ps ih => rw [List.foldl_cons, ih, Worgon.sendFlit_role]

@[simp] theorem Worgon.pumpList_role (now : W64) (packets : List (Nat × List Byte)) (blocked : List Nat) (w : Worgon) :
    (Worgon.pumpList now packets blocked w).role = w.role := by
  induction packets generalizing blocked w with
  | nil => rfl
  | cons p packets ih =>
    rw [Worgon.pumpList]
    split
    · rw [ih]
    · rw [ih, Worgon.sendPacket_role]

@[simp] theorem Worgon.pump_role (w : Worgon) (now : W64) : (w.pump now).role = w.role := by
  rw [Worgon.pump]
  split
  · rw [Worgon.pumpList_role]
  · rfl

/-! Lanes (R358). -/

section
variable {s : State} {k : Fin 12} {l : Nat}

theorem execLinkLaneFail_active (hl : l < 9) (hup : (s.worgon k.val).up = true)
    (hactive : (s.worgon k.val).active.contains l = true) :
    execLinkLaneFail k l s = .next (loseWorgonLane s k.val l) := by
  simp only [execLinkLaneFail, if_neg (Nat.not_le.mpr hl), hup, hactive, Bool.not_true, Bool.false_eq_true, if_false, if_true]

theorem execLinkLaneFail_spare (hl : l < 9) (hup : (s.worgon k.val).up = true)
    (hactive : (s.worgon k.val).active.contains l = false) (hspare : (s.worgon k.val).spare = some l) :
    execLinkLaneFail k l s = .next (s.updWorgon k.val (fun w => { w with spare := none, retraining := some l })) := by
  simp only [execLinkLaneFail, if_neg (Nat.not_le.mpr hl), hup, hactive, hspare, Bool.not_true, Bool.false_eq_true, if_false,
    if_true]

/-- A lane in use that fails while a spare stands by is replaced; it retrains alone. -/
theorem loseWorgonLane_replaced {k : Nat} (hspare : (s.worgon k).spare.isSome = true) (hwidth : (s.worgon k).width = 8) :
    loseWorgonLane s k l = noteRepair (updLife
      ((noteFault s 0x0B k).updWorgon k (fun w => { w with spare := none, retraining := some l }))
      (fun x => { x with linkLanes := lifeInc x.linkLanes })) 7 k 0 := by
  have hstands : ((s.worgon k).spare.isSome && (s.worgon k).width == 8) = true := by rw [hspare, hwidth]; rfl
  exact if_pos hstands

theorem execLaneRetrainDone_retraining (h : (s.worgon k.val).retraining = some l) (pass : Bool) :
    execLaneRetrainDone k pass s = .next (s.updWorgon k.val (fun w =>
      if pass then { w with retraining := none, spare := some l } else { w with retraining := none, bad := w.bad ++ [l] })) := by
  simp only [execLaneRetrainDone, h]

/-! Training (R355, R356, R358). -/

/-- A port that has trained: it carries flits under the credits it was granted, and sends what it may. -/
def Worgon.afterTraining (w : Worgon) (now : W64) : Worgon :=
  { w with trained := true, lost := false, retrain := false, naks := 0, lastValid := now
           credits := if w.credits.isEmpty then grantedCredits else w.credits }.pump now

def portTrained (s : State) (k : Nat) : State := s.updWorgon k (fun w => w.afterTraining s.now)

theorem portTrained_role (s : State) (k : Nat) : ((portTrained s k).worgon k).role = (s.worgon k).role := by
  rw [portTrained, State.updWorgon_worgon, if_pos rfl, Worgon.afterTraining, Worgon.pump_role]

theorem portTrained_activeUp (s : State) (k : Nat) : (portTrained s k).fab.activeUp = s.fab.activeUp := rfl

theorem portTrained_worgon_other (s : State) {k i : Nat} (h : k ≠ i) : (portTrained s k).worgon i = s.worgon i := by
  rw [portTrained, State.updWorgon_worgon, if_neg h]

/-- An UP port, and no active one that carries flits. -/
def needsActive (s : State) (k : Nat) : Bool :=
  decide ((s.worgon k).role = 1) && (s.fab.activeUp.isNone || !(s.fab.activeUp.any (fun j => (s.worgon j).up)))

section
variable (hdown : (s.worgon k.val).up = false) (hcount : (s.hub (worgonHub k.val)).counting = true)
include hdown hcount

theorem trains_of_used (hrole : (s.worgon k.val).role ≠ 0) :
    ¬ (decide ((s.worgon k.val).role = 0) || (s.worgon k.val).up || !(s.hub (worgonHub k.val)).counting) = true := by
  rw [decide_eq_false hrole, hdown, hcount]
  decide

/-- A port that is no UP port, or beside which an active UP port carries flits, stands by or carries its own branch. -/
theorem execWorgonPortTrained_stands (hrole : (s.worgon k.val).role ≠ 0) (h : needsActive (portTrained s k.val) k.val = false) :
    execWorgonPortTrained k s = .next (portTrained s k.val) := by
  rw [execWorgonPortTrained, if_neg (trains_of_used hdown hcount hrole)]
  exact congrArg Host.Outcome.next (if_neg (Bool.eq_false_iff.mp h))

/-- The first UP port becomes the active one, over which the hub of a worker asks for its image (R350, R440). -/
theorem execWorgonPortTrained_active (hrole : (s.worgon k.val).role = 1) (hnone : s.fab.activeUp = none) :
    execWorgonPortTrained k s =
      .next (askImage ((portTrained s k.val).updFab (fun f => { f with activeUp := some k.val })) k.val) := by
  have hneeds : needsActive (portTrained s k.val) k.val = true := by
    rw [needsActive, portTrained_role, portTrained_activeUp, hrole, hnone]
    rfl
  rw [execWorgonPortTrained, if_neg (trains_of_used hdown hcount (by rw [hrole]; decide))]
  refine congrArg Host.Outcome.next ((if_pos hneeds).trans ?_)
  split
  next => rfl
  next j hj => exact absurd (hj.symm.trans hnone) nofun

end

end

end Sys2Proof.Machine
end

section
/-! The family of the fabric (14_fabric.md): a tick of GCOUNT, the commands of a manager, what the fabric brings, lanes and
ports. -/

namespace Sys2Proof

open Sys2Proof.Machine

/-- Settles O2: a tick of a device that is not slewing ticks each hub that counts, and AON time (log 10). -/
theorem emptyQueueTicksTheClock : Obligations.EmptyQueueTicksTheClock := by
  intro s hempty hslew
  rw [step_of_empty hempty, gcountTick, hslew]
  rfl

/-- Settles O23: each handler runs in the state that has taken its request; telling devices changes what is handed over and the
links alone. What the messages hold is log 93, which positions of the tree are refused log 91. -/
theorem fabricCommandsComplete : Obligations.FabricCommandsComplete := by
  refine ⟨fun rq tree s ha hjobs hlinked => ?enum, fun rq answer s ha hlive => execFabStatus_answers hlive (accepts_spec rfl ha),
    fun rq drained s ha hlive => execFabEvents_drains hlive (accepts_spec rfl ha),
    fun rq s ha hlive => execFabDoorbell_hands hlive (accepts_spec rfl ha), fun rq s d ha hd hlost => ?sealed,
    fun rq late s ha hknown hahead => ?launch⟩
  case enum =>
    obtain ⟨fw, links, htold⟩ := foldl_tell_same (fun w => w.1.dev) (fun w => numberBytes (workersAfter s tree) w.1.dev)
      (enumerate s tree) ((takenBy s 0x0080 rq).updFab (enumeratedFabric s tree))
    refine ⟨_, _, _, execFabEnum_numbers (accepts_spec rfl ha) hjobs hlinked, rfl, rfl, rfl, ?_⟩
    rw [htold]
    exact ⟨takenBy_tab .., takenBy_far .., takenBy_cores .., rfl, rfl⟩
  case sealed =>
    subst hd
    exact execFabSeal_seals (accepts_spec rfl ha) hlost
  case launch =>
    obtain ⟨fw, links, htold⟩ := foldl_tell_same (fun e => e.1) (launchBytes (bodyOf rq))
      ((launchEntries (bodyOf rq)).filter (fun e => e.1 != 0))
      ((takenBy s 0x0085 rq).updFab (fun f => { f with launches := s.fab.launches ++ ownLaunches rq.port (bodyOf rq) }))
    refine ⟨_, _, execFabLaunch_launches (accepts_spec rfl ha) hknown hahead, rfl, rfl, ?_⟩
    rw [htold]
    exact ⟨takenBy_tab .., takenBy_far .., takenBy_cores .., takenBy_dev .., rfl⟩

/-- Settles O24: a page that the target must refuse is answered here, another handed over; what is handed over is laid out as log 93
has it, and comparison begins when both devices have answered FAB_PAIR (log 95). -/
theorem forwardedAndLinkedAndPairedJobs : Obligations.ForwardedAndLinkedAndPairedJobs := by
  refine ⟨fun rq answer s d code page body ha hd hlive hpage hcode hbody hsent => ?forwards,
    fun rq answer s d code st detail page body ha hd hlive hpage hcode hbody hrefused => ?refuses,
    fun rq answers s ha hchecks => execFabLink_links (accepts_spec rfl ha) hchecks,
    fun rq s j port ha hj hport hrole hpair => ?pairs⟩
  case forwards =>
    subst hd
    exact execFabForward_live hlive (accepts_spec rfl ha) (forwardHandler_forwards hpage hcode hbody hsent)
  case refuses =>
    subst hd
    exact (execFabForward_live hlive (accepts_spec rfl ha) (forwardHandler_refuses hpage hcode hbody hrefused)).trans
      (congrArg Host.Outcome.next (respondAs_takenBy ..))
  case pairs =>
    subst hport
    rw [exec_fabPair, execFabPair_pairs (accepts_spec rfl ha) hj hrole hpair, updJob, State.updTab, takenBy_tab]
    rfl

/-- Settles O25, row by row. A record is heard as the first of its job or as one after another (log 89, which also caps the records
that wait); half a tick of an offset or a delay is rounded down (log 122). -/
theorem fabricEventsComplete : Obligations.FabricEventsComplete := by
  refine ⟨fun queue s hqueue => execLaunchDoorbellApply_rings hqueue,
    fun job serial block check s j p hj hpair hsame hup honly => ?record,
    fun job s j p hj hsame hpair hsilent => execPeerLinkTimeout_diverges hj hsame hpair hsilent,
    fun device s w hw hrole hsilent => execWorkerLossTimeout_loses hw hrole hsilent,
    fun s hrole => execWorkerRefusal_worker hrole false, fun s hrole => execWorkerRefusal_worker hrole true,
    fun k f s hup => ?flit, fun t1 t2 t3 t4 s hrole hdev hdone => ?corrects, fun t1 t2 t3 t4 g s hrole hdev hnew hg => ?sets⟩
  case record =>
    rw [exec_comparisonRecord, execComparisonRecord_hears hpair hsame hup honly]
    cases hlast : p.last with
    | none => rw [Pairing.hear_first _ hlast]
    | some n => rw [Pairing.hear_after _ hlast]
  case flit =>
    rw [exec_flitReceive, execFlitReceive_up hup]
    simp only [flitIntact_iff]
  case corrects =>
    rw [exec_gcountSync, execGcountSync_numbered hrole hdev, hdone]
    rfl
  case sets =>
    subst hg
    rw [exec_gcountSync, execGcountSync_numbered hrole hdev, hnew]
    rfl

/-- Settles O39: sending what a trained port may send leaves its role alone, so that its role before decides whether it becomes the
active one. That a standing spare which fails retrains is the model's reading of R358. -/
theorem linkLanesAndPortsMove : Obligations.LinkLanesAndPortsMove := by
  refine ⟨fun k l s hl hup hactive hspare hwidth => ?replaced, fun k l s hl hup hactive hspare => ?spare,
    fun k l s hl => ⟨execLaneRetrainDone_retraining hl true, execLaneRetrainDone_retraining hl false⟩,
    fun k s hdown hcount => ⟨fun hrole => ?stays, fun hrole hnone => ?active, fun j hrole hj hne hup => ?standby⟩⟩
  case replaced => rw [exec_linkLaneFail, execLinkLaneFail_active hl hup hactive, loseWorgonLane_replaced hspare hwidth]
  case spare => exact execLinkLaneFail_spare hl hup hactive hspare
  case stays =>
    have hrole' : ((portTrained s k.val).worgon k.val).role ≠ 1 := by rw [portTrained_role]; omega
    refine execWorgonPortTrained_stands hdown hcount (by omega) ?_
    rw [needsActive, decide_eq_false hrole', Bool.false_and]
  case active => exact execWorgonPortTrained_active hdown hcount hrole hnone
  case standby =>
    refine execWorgonPortTrained_stands hdown hcount (by omega) ?_
    rw [needsActive, portTrained_activeUp, hj, Option.any_some, portTrained_worgon_other s (Ne.symm hne), hup]
    exact Bool.and_false _

end Sys2Proof
end

section
/-! SUPPORT. Interrupting slices (R386, R409, R410): when one may start, what it does, and what abandoning it leaves. -/

namespace Sys2Proof.Machine

open Sys2Proof

theorem sliceAllowed_iff {s : State} : sliceAllowed s = true ↔
    s.dev.lastSliceEnd = none ∨ ∃ t, s.dev.lastSliceEnd = some t ∧ 5000 ≤ s.since t := by
  rw [sliceAllowed]
  cases s.dev.lastSliceEnd with
  | none => simp
  | some t =>
    simp only [reduceCtorEq, false_or, Option.some.injEq, exists_eq_left']
    exact decide_eq_true_iff

theorem sliceAllowed_of_recent {s : State} {t : W64} (h : s.dev.lastSliceEnd = some t) (ht : s.since t < 5000) :
    sliceAllowed s = false := by
  rw [sliceAllowed, h]
  exact decide_eq_false (Nat.not_le.mpr ht)

/-- What a slice does, before its end is noted. -/
def sliceEffect (v : State) (k : Slice) : State :=
  match k.kind with
  | .takeover h => giveLead v h.other
  | .protChange port box ctrl lock base svn => respondTo (applyProt v ctrl lock base svn) port box stOk 0
      (match svn with | some n => leBytes 4 n | none => [])
  | .farSwitch n => loseFarStack v n
  | .island d => loseIsland v d
  | .die d => loseDie v d
  | .rootSwitch h => rootLeaves v h
  | .nearSwitch n => loseNearStack v n
  | .takeBack h => rootReturns v h
  | .swap =>
    let w := match swapTo v with | some h => giveLead v h | none => v
    match k.box with
    | some b => respondTo w k.port b (if (swapTo v).isSome then stOk else stInUse) 0 []
    | none => w

/-- The end of the slice that has just run or has been abandoned is noted, and the next one is 50 µs away (R386). -/
def noteSliceEnd (u : State) : State := u.updDev (fun d => { d with lastSliceEnd := some u.now })

/-- A HUB_SWAP alone answers a mailbox after its effect; every other kind has answered in it or answers none. -/
theorem runSlice_eq (v : State) (k : Slice) : runSlice v k = noteSliceEnd (sliceEffect v k) := by
  obtain ⟨kind, byCommand, port, box, abandons⟩ := k
  cases kind with
  | swap => cases box <;> rfl
  | takeover | protChange | farSwitch | island | die | rootSwitch | nearSwitch | takeBack => rfl

/-- The first slice is taken off the list. -/
def takeSlice (s : State) (r : List Slice) : State := { s with dev := { s.dev with slices := r } }

section
variable {s : State} {k : Slice} {r : List Slice} (hk : s.dev.slices = k :: r)
include hk

theorem execInterruptingSliceStart_runs (ha : sliceAllowed s = true) :
    execInterruptingSliceStart s = .next (noteSliceEnd (sliceEffect (takeSlice s r) k)) := by
  simp only [execInterruptingSliceStart, hk, ha, if_true, runSlice_eq]
  rfl

theorem execInterruptingSliceStart_waits (ha : sliceAllowed s = false) : execInterruptingSliceStart s = .next s := by
  simp only [execInterruptingSliceStart, hk, ha, Bool.false_eq_true, if_false]

theorem execSliceAbandon_abandons (ha : sliceAllowed s = true) :
    execSliceAbandon s = .next (abandonSlice (takeSlice s r) k) := by
  simp only [execSliceAbandon, hk, ha, if_true]
  rfl

theorem execSliceAbandon_waits (ha : sliceAllowed s = false) : execSliceAbandon s = .next s := by
  simp only [execSliceAbandon, hk, ha, Bool.false_eq_true, if_false]

end

theorem execInterruptingSliceStart_of_none {s : State} (h : s.dev.slices = []) : execInterruptingSliceStart s = .next s := by
  rw [execInterruptingSliceStart, h]

theorem execSliceAbandon_of_none {s : State} (h : s.dev.slices = []) :
    execSliceAbandon s = .next { s with dev := { s.dev with late := s.dev.late + 1 } } := by
  rw [execSliceAbandon, h]
  rfl

/-- A first or second abandonment leaves the slice first in the list. -/
theorem abandonSlice_retries (v : State) {k : Slice} (h : k.abandons + 1 < 3) : abandonSlice v k =
    (noteSliceEnd v).updDev (fun d => { d with slices := { k with abandons := k.abandons + 1 } :: d.slices }) := by
  simp only [abandonSlice, if_pos h]
  rfl

section
variable (v : State) {k : Slice} (h : 3 ≤ k.abandons + 1)
include h

theorem abandonSlice_drops_swap {b : Nat} (hk : k.kind = .swap) (hb : k.box = some b) :
    abandonSlice v k = respondTo (noteSliceEnd v) k.port b stAborted 0x0D [] := by
  simp only [abandonSlice, if_neg (Nat.not_lt.mpr h), Slice.planned, hk, hb, if_true]
  rfl

theorem abandonSlice_drops_protChange {port : Port} {box : Nat} {ctrl lock : W32} {base : W64} {svn : Option Nat}
    (hk : k.kind = .protChange port box ctrl lock base svn) :
    abandonSlice v k = respondTo (noteSliceEnd v) port box stAborted 0x0D [] := by
  simp only [abandonSlice, if_neg (Nat.not_lt.mpr h), Slice.planned, hk, if_true]
  rfl

theorem abandonSlice_drops_takeBack {x : Hub} (hk : k.kind = .takeBack x) (hb : k.box = none) :
    abandonSlice v k = noteSliceEnd v := by
  simp only [abandonSlice, if_neg (Nat.not_lt.mpr h), Slice.planned, hk, hb, if_true]
  rfl

/-- A recovery goes on under the later rows. -/
theorem abandonSlice_recovers (hk : k.planned = false) : abandonSlice v k =
    (noteSliceEnd v).updDev (fun d => { d with slices := (nextRow k.kind).map (fun n => { kind := n }) ++ d.slices }) := by
  simp only [abandonSlice, if_neg (Nat.not_lt.mpr h), hk, Bool.false_eq_true, if_false]
  rfl

end

end Sys2Proof.Machine
end

section
/-! The family of the faults (15_faults.md): interrupting slices. -/

namespace Sys2Proof

open Sys2Proof.Machine

/-- Settles O31: a slice that may start is taken off the list and does what its kind says, or is abandoned; the next held step of a
command is what SLICE_ABANDON counts with no slice waiting (log 22, as are the later rows of a recovery). -/
theorem slicesAreSpacedAndBounded : Obligations.SlicesAreSpacedAndBounded := by
  refine ⟨fun s k r hk ha => ⟨takeSlice s r, sliceEffect (takeSlice s r) k, rfl,
      execInterruptingSliceStart_runs hk (sliceAllowed_iff.mpr ha), rfl⟩,
    fun s hnone => ⟨execInterruptingSliceStart_of_none hnone, execSliceAbandon_of_none hnone⟩,
    fun s k r t hk hlast ht => ?early, fun s k r hk ha hfew => ?retries, fun s k r hk ha hthird => ?third⟩
  case early =>
    have hearly := sliceAllowed_of_recent hlast ht
    exact ⟨execInterruptingSliceStart_waits hk hearly, execSliceAbandon_waits hk hearly⟩
  case retries =>
    rw [exec_sliceAbandon, execSliceAbandon_abandons hk (sliceAllowed_iff.mpr ha), abandonSlice_retries _ hfew]
    rfl
  case third =>
    have habandon : exec .sliceAbandon s = .next (abandonSlice (takeSlice s r) k) :=
      execSliceAbandon_abandons hk (sliceAllowed_iff.mpr ha)
    refine ⟨noteSliceEnd (takeSlice s r), rfl, fun b hkind hbox => ?_, fun port box ctrl lock base svn hkind => ?_,
      fun h hkind hbox => ?_, fun d hkind hself => ?_, fun d hkind hself => ?_⟩
    · rw [habandon, abandonSlice_drops_swap _ hthird hkind hbox]
    · rw [habandon, abandonSlice_drops_protChange _ hthird hkind]
    · rw [habandon, abandonSlice_drops_takeBack _ hthird hkind hbox]
    · rw [habandon, abandonSlice_recovers _ hthird (by rw [Slice.planned, hkind]; exact hself), hkind]
      rfl
    · rw [habandon, abandonSlice_recovers _ hthird (by rw [Slice.planned, hkind]; exact hself), hkind]
      rfl

end Sys2Proof
end

section
/-! SUPPORT. The record die and the regulator (R384, R433, R473): what writing an entry leaves of the record die, and what a record die
that fails or returns and a change of phases come to. -/

namespace Sys2Proof.Machine

open Sys2Proof

/-! Writing an entry changes the log and the next sequence number alone (R431 to R433). -/

theorem RecordDie.reclaim_same (r : RecordDie) : ∃ log, r.reclaim = { r with log := log } := by
  rw [RecordDie.reclaim]
  split
  · exact ⟨_, rfl⟩
  · exact ⟨r.log, rfl⟩

theorem RecordDie.write_same (r : RecordDie) (kind : Nat) (gc : W64) (body : List Byte) :
    ∃ log n, r.write kind gc body = { r with log := log, nextSeq := n } := by
  obtain ⟨log, hlog⟩ := r.reclaim_same
  rw [RecordDie.write, hlog]
  split
  · exact ⟨_, _, rfl⟩
  · exact ⟨_, _, rfl⟩

theorem RecordDie.place_same (r : RecordDie) (e : LogEntry) : ∃ log n, r.place e = { r with log := log, nextSeq := n } := by
  obtain ⟨log, hlog⟩ := r.reclaim_same
  rw [RecordDie.place, hlog]
  split
  · exact ⟨_, _, rfl⟩
  · exact ⟨_, r.nextSeq, rfl⟩

theorem foldl_place_same (es : List LogEntry) (r : RecordDie) :
    ∃ log n, es.foldl RecordDie.place r = { r with log := log, nextSeq := n } := by
  induction es generalizing r with
  | nil => exact ⟨r.log, r.nextSeq, rfl⟩
  | cons e es ih =>
    obtain ⟨log, n, hone⟩ := r.place_same e
    obtain ⟨log', n', hrest⟩ := ih (r.place e)
    exact ⟨log', n', by rw [List.foldl_cons, hrest, hone]⟩

/-! The record die fails and returns (R384, R433). -/

/-- The record die once the entries held meanwhile stand in its log, in ascending SEQ. -/
def RecordDie.writeHeld (r : RecordDie) : RecordDie :=
  { ((sortBy (·.seq) r.held).foldl RecordDie.place { r with held := [] }) with writable := true }

theorem RecordDie.writeHeld_same (r : RecordDie) :
    ∃ log n, r.writeHeld = { r with log := log, nextSeq := n, held := [], writable := true } := by
  obtain ⟨log, n, h⟩ := foldl_place_same (sortBy (·.seq) r.held) { r with held := [] }
  exact ⟨log, n, by rw [RecordDie.writeHeld, h]⟩

/-- One LOST entry for what was dropped meanwhile, unless PWRFAIL_N has stopped the log. -/
def RecordDie.writeLost (r : RecordDie) (now : W64) : RecordDie :=
  if r.droppedNow = 0 ∨ r.stopped = true then r
  else r.write kindLost now (leBytes 4 r.droppedNow ++ zeros 4 ++ leBytes 8 r.firstDropped)

theorem RecordDie.writeLost_same (r : RecordDie) (now : W64) :
    ∃ log n, r.writeLost now = { r with log := log, nextSeq := n } := by
  rw [RecordDie.writeLost]
  split
  · exact ⟨r.log, r.nextSeq, rfl⟩
  · exact r.write_same ..

/-- The LOST entry of a record die that can be written. -/
theorem noteLost_eq {s : State} (h : s.record.writable = true) : (if s.record.droppedNow = 0 then s
      else append s kindLost (leBytes 4 s.record.droppedNow ++ zeros 4 ++ leBytes 8 s.record.firstDropped)) =
    { s with record := s.record.writeLost s.now } := by
  by_cases hdropped : s.record.droppedNow = 0
  · simp only [hdropped, RecordDie.writeLost, true_or, if_true]
  · simp only [hdropped, RecordDie.writeLost, false_or, if_false, append, State.updRecord, h, if_true]

/-- Both hubs can write the record die again, and what was held stands in its log. -/
def recordWritable (s : State) : State :=
  { s with
    record := s.record.writeHeld
    h0 := { s.h0 with recordOk := s.h0.image.isSome }, h1 := { s.h1 with recordOk := s.h1.image.isSome } }

theorem recordWritable_now (s : State) : (recordWritable s).now = s.now := by
  simp only [State.now, show (recordWritable s).leadOr0 = s.leadOr0 from rfl]
  cases s.leadOr0 <;> rfl

/-- The state once the record die has returned. -/
def recordReturned (s : State) : State :=
  { recordWritable s with record := { s.record.writeHeld.writeLost s.now with droppedNow := 0, firstDropped := 0 } }

theorem recordReturned_record (s : State) : ∃ n, (recordReturned s).record = { s.record with
    log := (s.record.writeHeld.writeLost s.now).log, nextSeq := n, held := [], writable := true, droppedNow := 0, firstDropped := 0 } := by
  obtain ⟨log, n, hheld⟩ := s.record.writeHeld_same
  obtain ⟨log', n', hlost⟩ := s.record.writeHeld.writeLost_same s.now
  rw [recordReturned, hlost, hheld]
  exact ⟨n', rfl⟩

theorem execRecordFault_stops {s : State} (h : s.record.writable = true) {t : State} (ht : t = noteFault { s with
      record := { s.record with writable := false }, h0 := { s.h0 with recordOk := false }
      h1 := { s.h1 with recordOk := false } } 0x0F 0) :
    execRecordFault s = .next (postBoth t { code := 0x0002, arg0 := t.dev.dstate }) := by
  subst ht
  simp only [execRecordFault, h, if_true]
  rfl

theorem execRecordRecovered_returns {s : State} (h : s.record.writable = false) :
    execRecordRecovered s = .next (recordReturned s) := by
  obtain ⟨_, _, hheld⟩ := s.record.writeHeld_same
  have hwritable : (recordWritable s).record.writable = true := congrArg RecordDie.writable hheld
  have hlost := noteLost_eq hwritable
  rw [recordWritable_now] at hlost
  simp only [execRecordRecovered, h, Bool.false_eq_true, if_false]
  exact congrArg (fun u => Host.Outcome.next (u.updRecord (fun r => { r with droppedNow := 0, firstDropped := 0 }))) hlost

/-! Phases of the regulator (R473). -/

theorem execPmbAlert_changes {s : State} {l : Hub} {n : Nat} (r : W32) (hl : s.dev.lead = some l) (hmax : n ≤ 64)
    (hne : n ≠ s.pwr.phases) : execPmbAlert n r s = .next (logPower ((if n < s.pwr.phases then noteFault s 0x10 0 else s).updPwr
      (fun w => { w with phases := n })) 0 r) := by
  simp only [execPmbAlert, hl, Option.isNone_some, decide_eq_false hne, decide_eq_false (Nat.not_lt.mpr hmax), Bool.or_self,
    Bool.false_eq_true, if_false]

end Sys2Proof.Machine
end

section
/-! The family of the faults (15_faults.md): the record die and the regulator. -/

namespace Sys2Proof

open Sys2Proof.Machine

/-- Settles O36. DEVICE_STATE of a record die that fails carries the state as it is (log 44); a hub marks it RECORD_OK again where an
image runs on it (log 117). -/
theorem recordDieAndRegulatorFaultsAct : Obligations.RecordDieAndRegulatorFaultsAct := by
  refine ⟨fun s hw => ⟨_, rfl, execRecordFault_stops hw rfl⟩, fun s r hw hr => ?_,
    fun n reading s l hl hmax hne => execPmbAlert_changes reading hl hmax hne⟩
  subst hr
  obtain ⟨n, hrecord⟩ := recordReturned_record s
  refine ⟨recordReturned s, execRecordRecovered_returns hw, rfl, ?_, ?_, ?_, rfl, rfl, rfl, rfl, rfl⟩
  all_goals rw [hrecord]

end Sys2Proof
end

section
/-! SUPPORT. The move of CORE_RETIRE (R413, R414, R416): what posting leaves alone, the answer of a mailbox that has stayed BUSY, and
what the physical cores are once a spare has taken a logical core. -/

namespace Sys2Proof.Machine

open Sys2Proof

/-! Posting leaves the mailboxes and the physical cores alone. -/

@[simp] theorem postBoth_getMailbox (s : State) (e : Ev) (p : Port) (b : Nat) :
    getMailbox (postBoth s e) p b = getMailbox s p b := by
  rw [postBoth]
  split <;> simp only [postTo_getMailbox]

@[simp] theorem refreshState_getMailbox (s : State) (p : Port) (b : Nat) :
    getMailbox (refreshState s) p b = getMailbox s p b := by
  simp only [refreshState, apply_ite (getMailbox · p b), postBoth_getMailbox]
  exact ite_self _

@[simp] theorem noteExhausted_getMailbox (s : State) (d : Nat) (p : Port) (b : Nat) :
    getMailbox (noteExhausted s d) p b = getMailbox s p b := by
  rw [noteExhausted]
  split <;> simp only [postBoth_getMailbox]

@[simp] theorem refreshState_phys (s : State) : (refreshState s).phys = s.phys := by
  simp only [refreshState, apply_ite State.phys, postBoth_phys, State.updDev_phys, ite_self]

@[simp] theorem noteExhausted_phys (s : State) (d : Nat) : (noteExhausted s d).phys = s.phys := by
  rw [noteExhausted]
  split <;> simp only [postBoth_phys]

/-! The answer of a mailbox that has stayed BUSY. -/

theorem takenBy_getMailbox (s : State) (code : Nat) (rq : MbxReq) :
    getMailbox (takenBy s code rq) rq.port rq.box = { st := .busy, req := some (code, rq) } := by
  rw [takenBy, setMailbox_getMailbox, if_pos ⟨rfl, rfl⟩]

section
variable {s : State} {code : Nat} {rq : MbxReq}
  (h : getMailbox s rq.port rq.box = { st := .busy, req := some (code, rq) })
include h

theorem respondTo_of_busy (st d : Nat) (b : List Byte) :
    respondTo s rq.port rq.box st d b = respondAs s code rq st d b := by
  simp only [respondTo, h, if_true]

theorem respondTo_answers (st d : Nat) (b : List Byte) :
    getMailbox (respondTo s rq.port rq.box st d b) rq.port rq.box = { st := .done, req := some (code, rq)
                                                                      resp := some ⟨code, rq.token, st, d, b⟩ } := by
  rw [respondTo_of_busy h, respondAs_getMailbox, if_pos ⟨rfl, rfl⟩]

end

/-! The move (R416). -/

/-- A physical core as its retirement leaves it (R414, R464). -/
def retiredCore (c : PhysCore) (clock : Nat) : PhysCore :=
  { c with
    st := if 3 ≤ c.retirements + 1 then .failed else .retired, retirements := min (c.retirements + 1) 255, retireOrder := clock
    logical := none, power := if 3 ≤ c.retirements + 1 then .off else .sleep, waking := .no, leaving := none, fencing := false }

theorem ite_noteRepair_same (c : Prop) [Decidable c] (s : State) (action unit status : Nat) :
    ∃ r, (if c then noteRepair s action unit status else s) = { s with record := r } := by
  split
  · exact ⟨_, rfl⟩
  · exact ⟨s.record, rfl⟩

theorem retirePhys_same (s : State) (p : Nat) : ∃ r, retirePhys s p = ((s.updPhys p (fun c =>
    retiredCore c s.tab.retireClock)).updTab (fun t => { t with retireClock := s.tab.retireClock + 1 })).updRecord (fun _ => r) :=
  ite_noteRepair_same _ _ 4 p 0

/-- The logical core c of physical core p served by the spare q, in p's power state; p is RETIRED, or FAILED at its third retirement. -/
def coreMoved (s : State) (p c q : Nat) : State :=
  (seatSpare (retirePhys s p) q c).updPhys q (fun x => { x with power := (s.physCore p).power, taking := false })

theorem moveCore_moves {s : State} {p c q : Nat} (hq : spareOf s (dieOfCore c) = some q) (hlate : s.dev.late < 3) (port : Port)
    (box : Nat) : moveCore s p c port box = respondTo (noteExhausted (refreshState (coreMoved (heldStep (endRetire s p)).2 p c q))
      (dieOfCore c)) port box stOk 0 [] := by
  have hspare : spareOf (endRetire s p) (dieOfCore c) = some q := hq
  have hheld : (heldStep (endRetire s p)).1 = true := decide_eq_true hlate
  simp only [moveCore, hspare, hheld, Bool.not_true, Bool.false_eq_true, if_false]
  rfl

section
variable (s : State) (p c q : Nat)

theorem retirePhys_physCore (x : Nat) : (retirePhys s p).physCore x =
    if p = x then retiredCore (s.physCore p) s.tab.retireClock else s.physCore x := by
  obtain ⟨_, h⟩ := retirePhys_same s p
  rw [h, State.updRecord_physCore, State.updTab_physCore, State.updPhys_physCore]

@[simp] theorem retirePhys_port (port : Port) : (retirePhys s p).port port = s.port port := by
  obtain ⟨_, h⟩ := retirePhys_same s p
  rw [h, State.updRecord_port, State.updTab_port, State.updPhys_port]

theorem coreMoved_getMailbox (port : Port) (b : Nat) : getMailbox (coreMoved s p c q) port b = getMailbox s port b := by
  simp only [getMailbox, coreMoved, seatSpare, State.updPhys_port, retirePhys_port]

theorem coreMoved_new_logical : ((coreMoved s p c q).physCore q).logical = some c := by
  simp only [coreMoved, seatSpare, State.updPhys_physCore, if_true]

theorem coreMoved_new_st : ((coreMoved s p c q).physCore q).st = .serving := by
  simp only [coreMoved, seatSpare, State.updPhys_physCore, if_true]

variable {p q}

theorem coreMoved_old (hne : p ≠ q) : (coreMoved s p c q).physCore p = retiredCore (s.physCore p) s.tab.retireClock := by
  simp only [coreMoved, seatSpare, State.updPhys_physCore, retirePhys_physCore, hne.symm, if_false, if_true]

theorem coreMoved_other {x : Nat} (hp : x ≠ p) (hq : x ≠ q) : (coreMoved s p c q).physCore x = s.physCore x := by
  simp only [coreMoved, seatSpare, State.updPhys_physCore, retirePhys_physCore, hp.symm, hq.symm, if_false]

end

/-! The command (R416, R428). -/

theorem settleRetire_waits {s : State} {c : Nat} (h : (s.core c).slots ≠ []) : settleRetire s c = s := by
  rw [settleRetire, if_pos (by simpa using h)]

theorem settleRetire_moves {s : State} {p c box : Nat} {port : Port} (hidle : (s.core c).slots = [])
    (hone : s.dev.retiring = [(p, port, box)]) (hc : (s.physCore p).logical = some c) :
    settleRetire s c = moveCore s p c port box := by
  have hfind : s.dev.retiring.find? (fun r => (s.physCore r.1).logical == some c) = some (p, port, box) := by
    rw [hone]
    exact List.find?_cons_of_pos (by rw [hc, beq_self_eq_true])
  simp only [settleRetire, hidle, List.isEmpty_nil, Bool.not_true, Bool.false_eq_true, if_false, hfind]

/-- The state that has taken a CORE_RETIRE and recorded its request. -/
def retireRequested (s : State) (rq : MbxReq) (p : Nat) : State :=
  (takenBy s 0x00C1 rq).updDev (fun d => { d with retiring := d.retiring ++ [(p, rq.port, rq.box)] })

theorem retireRequested_getMailbox (s : State) (rq : MbxReq) (p : Nat) :
    getMailbox (retireRequested s rq p) rq.port rq.box = { st := .busy, req := some (0x00C1, rq) } := by
  rw [getMailbox, retireRequested, State.updDev_port]
  exact takenBy_getMailbox ..

section
variable {s : State} {rq : MbxReq} {p c : Nat} (hc : (s.physCore p).logical = some c)
include hc

theorem execCoreRetire_requests (h : accepted s (coreSpec 0x00C1 true) rq = true) (hp : p = leAt (bodyOf rq) 0 2)
    (hst : (s.physCore p).st = .serving) (hfence : (s.physCore p).fencing = false)
    (hfree : s.dev.retiring.any (fun r => r.1 == p) = false) (hspare : (spareOf s (p / 72)).isSome = true) :
    execCoreRetire rq s = .next (settleRetire (retireRequested s rq p) c) := by
  subst hp
  refine mailbox_accepted_stay h ?_
  simp only [coreSpec, takenBy_physCore, hc, hst, hfence, takenBy_dev, hfree, takenBy_spareOf, Option.isNone_eq_false_iff.mpr hspare,
    bne_self_eq_false, Bool.or_self, Bool.false_eq_true, if_false]
  rfl

/-- The state in which the move of a CORE_RETIRE runs, its request and its held step over. -/
def moveBegun (s : State) (rq : MbxReq) (p : Nat) : State := (heldStep (endRetire (retireRequested s rq p) p)).2

omit hc in
theorem moveBegun_physCore (x : Nat) : (moveBegun s rq p).physCore x = s.physCore x := by
  simp only [moveBegun, heldStep, endRetire, retireRequested, State.updDev_physCore, takenBy_physCore]

omit hc in
theorem moveBegun_getMailbox : getMailbox (moveBegun s rq p) rq.port rq.box = { st := .busy, req := some (0x00C1, rq) } := by
  rw [← retireRequested_getMailbox s rq p, getMailbox, moveBegun, heldStep, endRetire, State.updDev_port, State.updDev_port,
    getMailbox]

/-- With no task in its logical core and no other CORE_RETIRE in wait the move follows at once. -/
theorem settleRetire_retireRequested {q : Nat} (hnone : s.dev.retiring = []) (hlate : s.dev.late < 3)
    (hspare : spareOf s (dieOfCore c) = some q) (hidle : (s.core c).slots = []) :
    settleRetire (retireRequested s rq p) c = respondTo (noteExhausted (refreshState (coreMoved (moveBegun s rq p) p c q))
      (dieOfCore c)) rq.port rq.box stOk 0 [] := by
  have hone : (retireRequested s rq p).dev.retiring = [(p, rq.port, rq.box)] := by
    rw [retireRequested, State.updDev_dev, takenBy_dev, hnone, List.nil_append]
  have hq : spareOf (retireRequested s rq p) (dieOfCore c) = some q := (takenBy_spareOf ..).trans hspare
  have hslots : ((retireRequested s rq p).core c).slots = [] := by
    rwa [State.core, retireRequested, State.updDev_cores, takenBy_cores]
  have hserves : ((retireRequested s rq p).physCore p).logical = some c := by
    rwa [retireRequested, State.updDev_physCore, takenBy_physCore]
  have hheld : (retireRequested s rq p).dev.late < 3 := by
    rwa [retireRequested, State.updDev_dev, takenBy_dev]
  rw [settleRetire_moves hslots hone hserves, moveCore_moves hq hheld, moveBegun]

end

end Sys2Proof.Machine
end

section
/-! The family of the service commands (16_service.md): CORE_RETIRE. -/

namespace Sys2Proof

open Sys2Proof.Machine

/-- Settles O16: a CORE_RETIRE whose logical core has no task moves it at once, the move being a held step that is not abandoned a
third time (log 22); no move changes what a logical core holds. -/
theorem coreRetireMovesTheLogicalCoreToASpare : Obligations.CoreRetireMovesTheLogicalCoreToASpare := by
  refine ⟨fun rq s p c ha hp hc hst hfence hfree hspare hbusy => ?waits,
    fun rq s p c q ha hp hc hst hfence hnone hlate hdie hspare hidle => ?moves⟩
  case waits =>
    have hslots : ((retireRequested s rq p).core c).slots ≠ [] := by
      rwa [State.core, retireRequested, State.updDev_cores, takenBy_cores]
    rw [exec_coreRetire, execCoreRetire_requests hc (accepts_spec rfl ha) hp hst hfence hfree hspare, settleRetire_waits hslots]
    rfl
  case moves =>
    have hne : p ≠ q := by
      rintro rfl
      have hisSpare := List.find?_some hspare
      rw [hst] at hisSpare
      exact absurd hisSpare (by decide)
    have hwork := settleRetire_sameWork (retireRequested s rq p) c
    have hmoves := settleRetire_retireRequested (rq := rq) hc hnone hlate (hdie ▸ hspare) hidle
    have hphys : (settleRetire (retireRequested s rq p) c).physCore = (coreMoved (moveBegun s rq p) p c q).physCore := by
      rw [hmoves]
      funext x
      simp only [State.physCore, respondTo_phys, noteExhausted_phys, refreshState_phys]
    have hanswer : getMailbox (settleRetire (retireRequested s rq p) c) rq.port rq.box =
        { st := .done, req := some (0x00C1, rq), resp := some ⟨0x00C1, rq.token, stOk, 0, []⟩ } := by
      rw [hmoves]
      refine respondTo_answers ?_ stOk 0 []
      rw [noteExhausted_getMailbox, refreshState_getMailbox, coreMoved_getMailbox, moveBegun_getMailbox]
    refine ⟨_, execCoreRetire_requests hc (accepts_spec rfl ha) hp hst hfence (by rw [hnone]; rfl) (by rw [hspare]; rfl),
      ?_, ?_, ?_, ?_, fun x hxp hxq => ?_, hwork.cores.trans (takenBy_cores ..), hwork.far.trans (takenBy_far ..), ?_, ?_⟩
    · rw [hphys, coreMoved_old _ _ hne]
      rfl
    · rw [hphys, coreMoved_old _ _ hne, moveBegun_physCore]
      rfl
    · rw [hphys, coreMoved_new_logical]
    · rw [hphys, coreMoved_new_st]
    · rw [hphys, coreMoved_other _ _ hxp hxq, moveBegun_physCore]
    · rw [hanswer]
    · rw [hanswer]
      rfl

end Sys2Proof
end

section
/-! SUPPORT. The black box as a host reads it (R434): BBOX_INFO and BBOX_READ of a state that has taken their request. -/

namespace Sys2Proof.Machine

open Sys2Proof

theorem takenBy_freeBytes (s : State) (c : Nat) (rq : MbxReq) (n : Nat) :
    freeBytes (takenBy s c rq) n = ((freeBytes s n).1, takenBy (freeBytes s n).2 c rq) := by
  rw [freeBytes, takenBy_freeCtr, takenBy_with_freeCtr, freeBytes]

@[simp] theorem takenBy_blackBox (s : State) (c : Nat) (rq : MbxReq) : blackBox (takenBy s c rq) = blackBox s := by
  rw [blackBox, takenBy_record, blackBox]

section
variable {s : State} {rq : MbxReq} (h : accepted s (recordSpec 0x00C8) rq = true)
include h

theorem execBboxInfo_some {e : LogEntry} {r : List LogEntry} (hlog : s.record.log = e :: r) :
    execBboxInfo rq s = .next (respondAs s 0x00C8 rq stOk 0
      (leBytes 8 e.seq ++ leBytes 8 s.record.nextSeq ++ leBytes 4 s.record.held.length ++ leBytes 4 s.record.dropped ++
        leBytes 4 (if s.record.writable then 1 else 0))) := by
  refine mailbox_accepted_done h ?_
  simp only [takenBy_record, hlog, Reply.okWith]

theorem execBboxInfo_none (hlog : s.record.log = []) :
    execBboxInfo rq s = .next (respondAs (freeBytes s 8).2 0x00C8 rq stOk 0
      ((freeBytes s 8).1 ++ leBytes 8 s.record.nextSeq ++ leBytes 4 s.record.held.length ++ leBytes 4 s.record.dropped ++
        leBytes 4 (if s.record.writable then 1 else 0))) := by
  refine mailbox_accepted_done h ?_
  simp only [takenBy_record, hlog, takenBy_freeBytes, Reply.okWith]

end

/-- The entries that a BBOX_READ gives: up to COUNT whole ones from a SEQ on, in ascending SEQ. -/
def entriesFrom (s : State) (b : List Byte) : List LogEntry :=
  ((blackBox s).filter (fun e => decide (leAt b 0 8 ≤ e.seq))).take (leAt b 8 1)

theorem entriesFrom_of_past {s : State} {b : List Byte}
    (h : (s.record.log ++ s.record.held).all (fun e => decide (e.seq < leAt b 0 8)) = true) : entriesFrom s b = [] := by
  have hnone : (blackBox s).filter (fun e => decide (leAt b 0 8 ≤ e.seq)) = [] := by
    refine List.filter_eq_nil_iff.mpr fun e he hlate => ?_
    have hpast := List.all_eq_true.mp h e (mem_sortBy.mp he)
    exact absurd (of_decide_eq_true hlate) (Nat.not_le.mpr (of_decide_eq_true hpast))
  rw [entriesFrom, hnone, List.take_nil]

/-- The row of BBOX_READ. -/
def bboxReadSpec : CmdSpec :=
  { recordSpec 0x00C9 with
    len := some 16, reserved := [(0x09, 0, 56)], sizes := [(0x08, 1)]
    range := fun b => if 31 < leAt b 8 1 then some 8 else none }

section
variable {s : State} {rq : MbxReq} (h : accepted s bboxReadSpec rq = true)
include h

theorem execBboxRead_some {e : LogEntry} (hlast : (entriesFrom s (bodyOf rq)).getLast? = some e) :
    execBboxRead rq s = .next (respondAs s 0x00C9 rq stOk 0 (leBytes 1 (entriesFrom s (bodyOf rq)).length ++ zeros 7 ++
      leBytes 8 (e.seq + 1) ++ (entriesFrom s (bodyOf rq)).flatMap LogEntry.bytes)) := by
  rw [entriesFrom] at hlast ⊢
  refine mailbox_accepted_done h ?_
  simp only [takenBy_blackBox, hlast, Reply.okWith]

theorem execBboxRead_none (hnone : entriesFrom s (bodyOf rq) = []) :
    execBboxRead rq s = .next (respondAs (freeBytes s 8).2 0x00C9 rq stOk 0
      (leBytes 1 0 ++ zeros 7 ++ (freeBytes s 8).1)) := by
  rw [entriesFrom] at hnone
  refine mailbox_accepted_done h ?_
  simp only [takenBy_blackBox, hnone, List.getLast?_nil, takenBy_freeBytes, Reply.okWith, List.length_nil, List.flatMap_nil,
    List.append_nil]

end

end Sys2Proof.Machine
end

section
/-! The family of the service commands (16_service.md): the black box. -/

namespace Sys2Proof

open Sys2Proof.Machine

/-- Settles O6: both queries read the record die alone; the SEQ field of an empty answer is a free value (log 29). -/
theorem blackBoxQueriesAnswerFromTheLog : Obligations.BlackBoxQueriesAnswerFromTheLog := by
  refine ⟨fun rq s e r ha hlog => execBboxInfo_some (accepts_spec rfl ha) hlog,
    fun rq s ha hlog => execBboxInfo_none (accepts_spec rfl ha) hlog, fun rq s es e ha hes hlast => ?_,
    fun rq s ha hpast => execBboxRead_none (accepts_spec rfl ha) (entriesFrom_of_past hpast)⟩
  subst hes
  exact execBboxRead_some (accepts_spec rfl ha) hlast

end Sys2Proof
end

section
/-! SUPPORT. Self-tests and the commands on a compute die (R414, R415, R417): what each comes to, and what the end of a test changes. -/

namespace Sys2Proof.Machine

open Sys2Proof

/-! Self-tests (R414, R415). -/

theorem execCoreTest_queues {s : State} {rq : MbxReq} {p : Nat} (h : accepted s (coreSpec 0x00C2 true) rq = true)
    (hp : p = leAt (bodyOf rq) 0 2) (hst : (s.physCore p).st = .spare ∨ (s.physCore p).st = .retired)
    (hpow : (s.die (p / 72)).powered = true) (hup : (s.die (p / 72)).upBox = none) :
    execCoreTest rq s = .next (startNextTest ((takenBy s 0x00C2 rq).updDie (p / 72) (fun d =>
      { d with testWait := d.testWait ++ [(p, rq.port, rq.box)] })) (p / 72)) := by
  subst hp
  have hfree : ((s.physCore (leAt (bodyOf rq) 0 2)).st != .spare && (s.physCore (leAt (bodyOf rq) 0 2)).st != .retired) = false := by
    rcases hst with hst | hst <;> rw [hst] <;> rfl
  refine mailbox_accepted_stay h ?_
  simp only [coreSpec, takenBy_physCore, takenBy_die, hfree, hpow, hup, Option.isSome_none, Bool.not_true, Bool.or_self,
    Bool.false_eq_true, if_false]

/-- Outside a DIE_UP, with no test running, the RETIRED core that was retired first is tested. -/
theorem startNextTest_retired {s : State} {d p : Nat} (hpow : (s.die d).powered = true) (hup : (s.die d).upBox = none)
    (hidle : testsOn s d = []) (hp : nextRetired s d = some p) : startNextTest s d = refreshState (startTest s p) := by
  simp only [startNextTest, hpow, hup, hidle, hp, Option.isSome_none, List.isEmpty_nil, Bool.not_true, Bool.false_eq_true, if_false]

@[simp] theorem noteRepair_physCore (s : State) (action unit status p : Nat) :
    (noteRepair s action unit status).physCore p = s.physCore p := rfl

@[simp] theorem noteRepair_die (s : State) (action unit status d : Nat) : (noteRepair s action unit status).die d = s.die d := rfl

@[simp] theorem updLife_die (s : State) (f : Lifetime → Lifetime) (d : Nat) : (updLife s f).die d = s.die d := rfl

@[simp] theorem updLife_physCore (s : State) (f : Lifetime → Lifetime) (p : Nat) :
    (updLife s f).physCore p = s.physCore p := rfl

/-- A core whose test has ended: SPARE in Sleep, or FAILED and Off (R414, R464). -/
def testedCore (pass : Bool) (c : PhysCore) : PhysCore :=
  { c with st := if pass then .spare else .failed, power := if pass then .sleep else .off }

/-- The state once a test outside a DIE_UP has ended, with its REPAIR entry, before a spare takes a logical core. -/
def testEnded (s : State) (d p : Nat) (pass : Bool) : State :=
  let t := noteRepair (s.updPhys p (testedCore pass)) (if pass then 3 else 4) p 0
  (if pass then updLife t (fun l => { l with coresReturned := lifeInc l.coresReturned }) else t).updDie d
    (fun x => { x with testWait := x.testWait.filter (fun w => w.1 != p) })

theorem execCoreSelfTestDone_ends {s : State} {die : Fin 8} {p : Nat} (pass : Bool) (hp : (testsOn s die.val).head? = some p)
    (hup : (s.die die.val).upBox = none) (hwait : (s.die die.val).testWait = []) :
    execCoreSelfTestDone die pass s = .next (refreshState (takeSpares (testEnded s die.val p pass))) := by
  have hnone : (s.die die.val).upBox.isSome = false := by rw [hup, Option.isSome_none]
  cases pass
  · simp only [execCoreSelfTestDone, hp, hnone, Bool.false_and, Bool.not_false, Bool.or_true, Bool.false_eq_true, if_false, if_true,
      noteRepair_die, State.updPhys_die, hwait, List.filter_nil, List.foldl_nil]
    rfl
  · simp only [execCoreSelfTestDone, hp, hnone, Bool.false_and, Bool.not_true, Bool.or_self, Bool.false_eq_true, if_false, if_true,
      updLife_die, noteRepair_die, State.updPhys_die, hwait, List.filter_nil, List.foldl_nil]
    rfl

section
variable (s : State) (d p : Nat) (pass : Bool)

theorem testEnded_physCore (x : Nat) :
    (testEnded s d p pass).physCore x = if p = x then testedCore pass (s.physCore p) else s.physCore x := by
  cases pass
  · simp only [testEnded, State.updDie_physCore, Bool.false_eq_true, if_false, noteRepair_physCore, State.updPhys_physCore]
  · simp only [testEnded, State.updDie_physCore, if_true, updLife_physCore, noteRepair_physCore, State.updPhys_physCore]

theorem testEnded_same : ∃ r ds, testEnded s d p pass = { s.updPhys p (testedCore pass) with record := r, dies := ds } := by
  cases pass
  · exact ⟨_, _, rfl⟩
  · exact ⟨_, _, rfl⟩

end

/-! Commands on a die (R410, R417). -/

theorem heldStep_fst (s : State) : (heldStep s).1 = decide (s.dev.late < 3) := rfl

theorem execDieDown_powersOff {s : State} {rq : MbxReq} {d : Nat} (h : accepted s (dieSpec 0x00C4) rq = true)
    (hd : d = leAt (bodyOf rq) 0 1) (hjobs : s.tab.jobs.any (fun j => j.octets.any (fun o => o / 8 == d)) = false)
    (hup : (s.die d).upBox = none) (hpow : (s.die d).powered = true) :
    execDieDown rq s = .next (if s.dev.late < 3
      then respondAs (refreshState (noteRepair (powerOffDie (endDieWork (heldStep (takenBy s 0x00C4 rq)).2 d) d) 12 d 0))
        0x00C4 rq stOk 0 []
      else respondAs (heldStep (takenBy s 0x00C4 rq)).2 0x00C4 rq stAborted 0x07 []) := by
  subst hd
  rw [execDieDown, mailbox_accepted _ h]
  simp only [takenBy_tab, takenBy_die, hjobs, hup, hpow, Option.isSome_none, Bool.or_self, Bool.not_true, Bool.false_eq_true, if_false,
    heldStep_fst, dieSpec, takenBy_dev]
  by_cases hlate : s.dev.late < 3
  · simp only [hlate, decide_true, Bool.not_true, Bool.false_eq_true, if_false, if_true, Reply.ok]
  · simp only [hlate, decide_false, Bool.not_false, if_true, if_false, Reply.fail]

/-- A region that is off is powered, and a DIE_UP begins to test every core of it that is not FAILED (R417). -/
def dieUpBegun (s : State) (rq : MbxReq) (d : Nat) : State :=
  (heldStep (takenBy s 0x00C5 rq)).2.updDie d (fun x => { x with
    powered := true, lost := false, netGated := false, kTherm := 16
    upLeft := (physOf d).filter (fun p => (s.physCore p).st != .failed), upBox := some (rq.port, rq.box) })

theorem execDieUp_powers {s : State} {rq : MbxReq} {d : Nat} (h : accepted s (dieSpec 0x00C5) rq = true)
    (hd : d = leAt (bodyOf rq) 0 1) (hup : (s.die d).upBox = none) (hpow : (s.die d).powered = false) :
    execDieUp rq s = .next (if s.dev.late < 3 then settleDieUp (startNextTest (dieUpBegun s rq d) d) d
      else respondAs (heldStep (takenBy s 0x00C5 rq)).2 0x00C5 rq stAborted 0x07 []) := by
  subst hd
  have hcores : (heldStep (takenBy s 0x00C5 rq)).2.physCore = s.physCore := by
    funext p
    rw [heldStep, State.updDev_physCore, takenBy_physCore]
  rw [execDieUp, mailbox_accepted _ h]
  simp only [takenBy_die, hup, hpow, Option.isSome_none, Bool.false_eq_true, if_false, heldStep_fst, dieSpec, takenBy_dev, hcores]
  by_cases hlate : s.dev.late < 3
  · simp only [hlate, decide_true, Bool.not_true, Bool.false_eq_true, if_false, if_true, dieUpBegun]
  · simp only [hlate, decide_false, Bool.not_false, if_true, if_false, Reply.fail]

end Sys2Proof.Machine
end

section
/-! The family of the service commands (16_service.md): self-tests and the compute dies. -/

namespace Sys2Proof

open Sys2Proof.Machine

/-- Settles O17, row by row. DIE_DOWN and DIE_UP retry their held step at once, so three abandonments counted before end them (R410;
log 22). -/
theorem selfTestsAndDieCommandsComplete : Obligations.SelfTestsAndDieCommandsComplete := by
  refine ⟨fun rq s p ha hp hst hpow hup => execCoreTest_queues (accepts_spec rfl ha) hp hst hpow hup,
    fun die s p hpow hup hidle hp => congrArg Host.Outcome.next (startNextTest_retired hpow hup hidle hp),
    fun die pass s p hp hup hwait => ?done,
    fun rq s d ha hd hjobs hup hpow => execDieDown_powersOff (accepts_spec rfl ha) hd hjobs hup hpow,
    fun rq s d ha hd hup hpow => execDieUp_powers (accepts_spec rfl ha) hd hup hpow⟩
  obtain ⟨_, _, hsame⟩ := testEnded_same s die.val p pass
  refine ⟨_, execCoreSelfTestDone_ends pass hp hup hwait, ?_, ?_, fun x hx => ?_, ?_, ?_, ?_⟩
  · rw [testEnded_physCore, if_pos rfl, testedCore]
  · rw [testEnded_physCore, if_pos rfl, testedCore]
  · rw [testEnded_physCore, if_neg hx.symm]
  all_goals
    rw [hsame]
    rfl

end Sys2Proof
end

section
/-! SUPPORT. The service commands on the hubs and the firmware update (R410, R420 to R422, R426, R427): what each comes to in a state
that has taken its request. -/

namespace Sys2Proof.Machine

open Sys2Proof

@[simp] theorem takenBy_rejoinBusy (s : State) (c : Nat) (rq : MbxReq) : rejoinBusy (takenBy s c rq) = rejoinBusy s := by
  rw [rejoinBusy, takenBy_h0, takenBy_h1, takenBy_dev, rejoinBusy]

@[simp] theorem takenBy_protBusy (s : State) (c : Nat) (rq : MbxReq) : protBusy (takenBy s c rq) = protBusy s := by
  rw [protBusy, takenBy_dev, protBusy]

@[simp] theorem takenBy_swapBusy (s : State) (c : Nat) (rq : MbxReq) : swapBusy (takenBy s c rq) = swapBusy s := by
  rw [swapBusy, takenBy_dev, swapBusy]

@[simp] theorem takenBy_bothInService (s : State) (c : Nat) (rq : MbxReq) : bothInService (takenBy s c rq) = bothInService s := by
  simp only [bothInService, inService, takenBy_hub]

theorem bothInService_of {s : State} (h0 : s.h0.svc = .inService) (h1 : s.h1.svc = .inService) : bothInService s = true :=
  Bool.and_eq_true_iff.mpr ⟨inService_iff.mpr h0, inService_iff.mpr h1⟩

theorem updHub_updHub (s : State) (h : Hub) (f g : HubState → HubState) :
    (s.updHub h f).updHub h g = s.updHub h (fun x => g (f x)) := by
  cases h <;> rfl

/-! Takeover and rejoin (R420 to R422). -/

theorem execHubSwap_requests {s : State} {rq : MbxReq} (h : accepted s { code := 0x00C6, service := true } rq = true)
    (hboth : bothInService s = true) (hlead : s.dev.lead ≠ none) (hfree : rejoinBusy s = false) :
    execHubSwap rq s = .next (requestSlice (takenBy s 0x00C6 rq) { kind := .swap, port := rq.port, box := some rq.box }) := by
  have hled : s.dev.lead.isNone = false := Option.isNone_eq_false_iff.mpr (Option.isSome_iff_ne_none.mpr hlead)
  refine mailbox_accepted_stay h ?_
  simp only [takenBy_bothInService, hboth, takenBy_dev, hled, takenBy_rejoinBusy, hfree, Bool.not_true, Bool.or_self,
    Bool.false_eq_true, if_false]

/-- The row of HUB_REJOIN. -/
def hubRejoinSpec : CmdSpec :=
  { code := 0x00C7, service := true, len := some 16, reserved := [(0x0C, 1, 31)], sizes := [(0x08, 4)]
    range := fun b => if 0x4000000 < leAt b 8 4 then some 8 else none }

theorem execHubRejoin_starts {s : State} {rq : MbxReq} {x : Hub} (h : accepted s hubRejoinSpec rq = true)
    (hx : x = (if bit (leAt (bodyOf rq) 0x0C 4) 0 then Hub.h1 else .h0)) (hlead : s.dev.lead ≠ some x) (hfree : rejoinBusy s = false)
    (hswap : swapBusy s = false) (hroom : s.record.storeFull = false) :
    execHubRejoin rq s = .next (startRejoin (takenBy s 0x00C7 rq) x
      (hostRead s rq.port (leAt (bodyOf rq) 0 8) (leAt (bodyOf rq) 8 4))
      { image := [], fwStep := 0, port := rq.port, box := rq.box }) := by
  subst hx
  refine mailbox_accepted_stay h ?_
  simp only [takenBy_dev, decide_eq_false hlead, takenBy_rejoinBusy, hfree, takenBy_swapBusy, hswap, takenBy_record, hroom,
    Bool.or_self, Bool.false_eq_true, if_false, takenBy_hostRead]

theorem execHubRejoinDone_joins {s : State} {hub : Hub} {r : Rejoin} (hr : (s.hub hub).rejoin = some r) (hok : r.failed = none)
    (hlocked : (s.hub hub).phase = .locked) :
    execHubRejoinDone hub s = .next (answerRejoin (refreshState (requestSlice (noteRepair (noteBoot
      (s.updHub hub (fun x => { x with rejoin := none, phase := .joined, svc := .inService, gcount := s.now })) hub r.cause stOk)
      11 hub.num 0) { kind := .takeBack hub })) r stOk 0) := by
  simp only [execHubRejoinDone, hr, hok, hlocked, bne_self_eq_false, Bool.false_eq_true, if_false, updHub_updHub]

/-! Firmware update (R410, R426, R427). -/

/-- The row of FW_LOAD. -/
def fwLoadSpec : CmdSpec :=
  { loadSpec 0x0003 with service := true, range := fun b => if 0x4000000 < leAt b 8 6 then some 8 else none }

/-- The update that a FW_LOAD starts under a lead. -/
def updateOf (s : State) (rq : MbxReq) (l : Hub) : FwUpdate :=
  { host := leAt (bodyOf rq) 0 8, len := leAt (bodyOf rq) 8 6, port := rq.port
    box := rq.box, step := 1, first := l.other, portWasUp := (s.port l.other.port).linkUp }

theorem execFwLoad_starts {s : State} {rq : MbxReq} {l : Hub} (h : accepted s fwLoadSpec rq = true) (hl : s.dev.lead = some l)
    (hboth : bothInService s = true) (hfree : rejoinBusy s = false) (hprot : protBusy s = false) (hswap : swapBusy s = false)
    (hroom : s.record.storeFull = false) :
    execFwLoad rq s = .next (startRejoin ((takenBy s 0x0003 rq).updDev (fun d => { d with fw := some (updateOf s rq l) })) l.other
      (hostRead s rq.port (leAt (bodyOf rq) 0 8) (leAt (bodyOf rq) 8 6))
      { image := [], fwStep := 1, port := rq.port, box := rq.box }) := by
  refine mailbox_accepted_stay h ?_
  simp only [takenBy_dev, hl, takenBy_bothInService, hboth, takenBy_rejoinBusy, hfree, takenBy_protBusy, hprot, takenBy_swapBusy,
    hswap, takenBy_record, hroom, Bool.not_true, Bool.or_self, Bool.false_eq_true, if_false, takenBy_hostImage, takenBy_linkUp]
  rfl

section
variable {s : State} {f : FwUpdate} (hf : s.dev.fw = some f) (hstep : f.step = 2)
  (hport : f.portWasUp = true → (s.port f.first.port).linkUp = true) (hnone : s.dev.slices = []) (hallowed : sliceAllowed s = true)
include hf hstep hport hnone hallowed

/-- The planned takeover of an update begins (R426 step 3). -/
theorem execFirmwareActivation_begins : execFirmwareActivation s = .next (if s.dev.late = 0
    then startRejoin ((giveLead s f.first).updDev (fun d => { d with lastSliceEnd := some s.now, fw := some { f with step := 4 } }))
      f.first.other (hostRead s f.port f.host f.len) { image := [], fwStep := 4, port := f.port, box := f.box }
    else
      let t := s.updDev (fun d => { d with
        lastSliceEnd := some s.now, late := d.late - 1, fw := some { f with abandons := f.abandons + 1 } })
      if f.abandons + 1 < 3 then t else endUpdate t stAborted 0x0D) := by
  have hup : (f.portWasUp && !(s.port f.first.port).linkUp) = false := by
    cases hwas : f.portWasUp with
    | false => rfl
    | true => rw [hport hwas]; rfl
  simp only [execFirmwareActivation, hf, hstep, hup, hnone, hallowed, bne_self_eq_false, List.isEmpty_nil, Bool.not_true, Bool.or_self,
    Bool.false_eq_true, if_false]

end

end Sys2Proof.Machine
end

section
/-! The family of the service commands (16_service.md): the hubs and the firmware update. -/

namespace Sys2Proof

open Sys2Proof.Machine

/-- Settles O18, row by row. The activation is a held step that a command begins: it is abandoned where an abandonment has been counted
before (R410; log 22). -/
theorem hubServiceCommandsComplete : Obligations.HubServiceCommandsComplete := by
  refine ⟨fun rq s ha h0 h1 hlead hfree => execHubSwap_requests (accepts_spec rfl ha) (bothInService_of h0 h1) hlead hfree,
    fun rq s x ha hx hlead hfree hswap hroom => execHubRejoin_starts (accepts_spec rfl ha) hx hlead hfree hswap hroom,
    fun rq s l ha hl h0 h1 hfree hprot hswap hroom =>
      execFwLoad_starts (accepts_spec rfl ha) hl (bothInService_of h0 h1) hfree hprot hswap hroom,
    fun hub s r hr hok hlocked => execHubRejoinDone_joins hr hok hlocked,
    fun s f hf hstep hport hnone hallowed hlate => ⟨_, rfl, ?_⟩, fun s f hf hstep hport hnone hallowed hlate hfew => ?_⟩
  · rw [exec_firmwareActivation, execFirmwareActivation_begins hf hstep hport hnone hallowed, if_pos hlate]
  · rw [exec_firmwareActivation, execFirmwareActivation_begins hf hstep hport hnone hallowed, if_neg hlate]
    simp only [if_pos hfew]
    rfl

end Sys2Proof
end

section
/-! SUPPORT. Attestation, identity and protection (R424, R443 to R446, R451 to R456): what each command reads of a state that has
taken its request, and what it comes to. -/

namespace Sys2Proof.Machine

open Sys2Proof

theorem takenBy_updRecord (s : State) (c : Nat) (rq : MbxReq) (f : RecordDie → RecordDie) :
    (takenBy s c rq).updRecord f = takenBy (s.updRecord f) c rq := by
  rw [State.updRecord, takenBy_record, takenBy_with_record, State.updRecord]

/-! Attestation and identity (R451 to R456). -/

@[simp] theorem takenBy_signer (s : State) (c : Nat) (rq : MbxReq) : signer (takenBy s c rq) = signer s := by
  funext p
  rw [signer, takenBy_dev, signer]

@[simp] theorem takenBy_reportMessage (s : State) (c : Nat) (rq : MbxReq) : reportMessage (takenBy s c rq) = reportMessage s := by
  funext h i nonce
  rw [reportMessage, takenBy_now, reportMessage]

@[simp] theorem takenBy_hostReachable (s : State) (c : Nat) (rq : MbxReq) (p : Port) (a len : Nat) :
    hostReachable (takenBy s c rq) p a len = hostReachable s p a len := by
  rw [hostReachable, takenBy_reaches, takenBy_hostReadable, hostReachable]

theorem execAttest_signs {s : State} {rq : MbxReq} (h : accepted s { code := 0x0101, states := [0, 2, 3], len := some 40 } rq = true)
    (hdebug : debugHalt (s.hub (signer s rq.port)) = false) (hwritable : s.record.writable = true)
    (hindex : s.record.nextIndex < 2 ^ 40) (hhost : hostReachable s rq.port (leAt (bodyOf rq) 0 8) 10277 = true)
    {m : List Byte} (hm : m = reportMessage s (s.hub (signer s rq.port)) s.record.nextIndex ((bodyOf rq).drop 8)) :
    execAttest rq s = .next (respondAs (hostWrite (commitIndex (takenBy s 0x0101 rq) s.record.nextIndex) rq.port
      (leAt (bodyOf rq) 0 8) (m ++ padTo 9893 (Config.attestSignature m s.record.nextIndex))) 0x0101 rq stOk 0
      (leBytes 8 s.record.nextIndex)) := by
  subst hm
  rw [execAttest, mailbox_accepted _ h]
  simp only [takenBy_hub, takenBy_signer, takenBy_record, hdebug, hwritable, Bool.not_true, Bool.or_self, Bool.false_eq_true, if_false,
    if_neg (Nat.not_le.mpr hindex), takenBy_hostReachable, hhost, takenBy_reportMessage, Reply.okWith]

/-- The row of IDENTITY_GET. -/
def identitySpec : CmdSpec :=
  { code := 0x0102, states := [0, 2, 3], len := some 16, reserved := [(0x09, 0, 24)]
    range := fun b => if 2 ≤ leAt b 8 1 then some 8 else none }

theorem execIdentityGet_writes {s : State} {rq : MbxReq} {obj : List Byte} (h : accepted s identitySpec rq = true)
    (hobj : obj = (if leAt (bodyOf rq) 8 1 = 0 then Config.spdmChain else Config.attestCert))
    (hroom : obj.length ≤ leAt (bodyOf rq) 0x0C 4) (hhost : hostReachable s rq.port (leAt (bodyOf rq) 0 8) obj.length = true) :
    execIdentityGet rq s = .next (respondAs (hostWrite (takenBy s 0x0102 rq) rq.port (leAt (bodyOf rq) 0 8) obj) 0x0102 rq stOk 0
      (leBytes 4 obj.length)) := by
  rw [execIdentityGet]
  refine (mailbox_accepted _ h).trans ?_
  simp only [← hobj, if_neg (Nat.not_lt.mpr hroom), takenBy_hostReachable, hhost, Bool.not_true, Bool.false_eq_true, if_false,
    Reply.okWith]
  rfl

section
variable {s : State} {rq : MbxReq}
  (h : accepted s { code := 0x0106, states := [0], len := some 100, reserved := [(0x61, 0, 24)] } rq = true)
  (hpoint : (pointOf ((bodyOf rq).take 97)).isSome = true)
include h hpoint

theorem execIntegratorEnroll_writes (hfresh : allZero s.record.integratorKey = true) (hwritable : s.record.writable = true) :
    execIntegratorEnroll rq s = .next (respondAs { s with record := { s.record with integratorKey := (bodyOf rq).take 97 } }
      0x0106 rq stOk 0 []) := by
  have hopen : (!allZero s.record.integratorKey || !s.record.writable) = false := by rw [hfresh, hwritable]; rfl
  refine mailbox_accepted_done h ?_
  simp only [Option.isNone_eq_false_iff.mpr hpoint, takenBy_record, hopen, Bool.false_eq_true, if_false, takenBy_updRecord, Reply.ok]
  rfl

theorem execIntegratorEnroll_refuses (hheld : allZero s.record.integratorKey = false) :
    execIntegratorEnroll rq s = .next (respondAs s 0x0106 rq stInUse 0 []) := by
  refine mailbox_accepted_done h ?_
  simp only [Option.isNone_eq_false_iff.mpr hpoint, takenBy_record, hheld, Bool.not_false, Bool.true_or,
    Bool.false_eq_true, if_false, if_true, Reply.fail]

end

/-! Protection (R424, R445, R446, R455). -/

@[simp] theorem takenBy_changeRefused (s : State) (c : Nat) (rq : MbxReq) : changeRefused (takenBy s c rq) = changeRefused s := by
  simp only [changeRefused, takenBy_bothInService, takenBy_rejoinBusy, takenBy_protBusy, takenBy_record]

/-- The row of PROT_SET. -/
def protSetSpec : CmdSpec :=
  { code := 0x0103, service := true, len := some 16, reserved := [(0x00, 7, 25), (0x04, 4, 28)], range := protRange }

/-- PROT_CTRL with the groups of a mask taken from a new value (R445). -/
def mergedCtrl (mask : Nat) (old v : W32) : W32 :=
  pickGroup mask 0 0x3 old v ||| pickGroup mask 1 0xC old v ||| pickGroup mask 2 0x10 old v ||| pickGroup mask 3 0x60 old v

theorem execProtSet_requests {s : State} {rq : MbxReq} {mask : Nat} (h : accepted s protSetSpec rq = true)
    (hfree : changeRefused s = false) (hmask : mask = field (leAt (bodyOf rq) 4 4) 0 4)
    (hunlocked : (s.h0.protLock ||| s.h1.protLock) &&& BitVec.ofNat 32 mask = 0) :
    execProtSet rq s = .next (requestSlice (takenBy s 0x0103 rq) { kind := (.protChange rq.port rq.box
      (mergedCtrl mask (s.hub s.leadOr0).protCtrl (BitVec.ofNat 32 (leAt (bodyOf rq) 0 4)))
      ((s.hub s.leadOr0).protLock ||| BitVec.ofNat 32 mask)
      (if bit mask 2 then BitVec.ofNat 64 (leAt (bodyOf rq) 8 8) else (s.hub s.leadOr0).protRegionBase) none) }) := by
  subst hmask
  refine mailbox_accepted_stay h ?_
  simp only [takenBy_changeRefused, hfree, takenBy_h0, takenBy_h1, hunlocked, bne_self_eq_false, Bool.or_self, Bool.false_eq_true,
    if_false, takenBy_hub, takenBy_leadOr0]
  rfl

theorem execSvnCommit_requests {s : State} {rq : MbxReq} (h : accepted s { code := 0x0105, service := true } rq = true)
    (hfree : changeRefused s = false) (hsame : s.h0.image.map (·.digest) = s.h1.image.map (·.digest)) :
    execSvnCommit rq s = .next (requestSlice (takenBy s 0x0105 rq) { kind := (.protChange rq.port rq.box
      (s.hub s.leadOr0).protCtrl (s.hub s.leadOr0).protLock (s.hub s.leadOr0).protRegionBase
      (some (max s.record.minSvn (((s.hub s.leadOr0).image.map (·.svn)).getD 0)))) }) := by
  refine mailbox_accepted_stay h ?_
  simp only [takenBy_changeRefused, hfree, takenBy_h0, takenBy_h1, hsame, bne_self_eq_false, Bool.or_self, Bool.false_eq_true,
    if_false, takenBy_hub, takenBy_leadOr0, takenBy_record]

/-- The row of REGION_SET. -/
def regionSetSpec : CmdSpec :=
  { code := 0x0104, service := true, len := some 12, reserved := [(0x08, 2, 6), (0x09, 0, 24)], sizes := [(0x04, 4)]
    range := fun b => if numExtents ≤ leAt b 0 4 then some 0
      else if numExtents < leAt b 0 4 + leAt b 4 4 then some 4 else none }

theorem execRegionSet_writes {s : State} {rq : MbxReq} (h : accepted s regionSetSpec rq = true)
    (hbase : (s.hub s.leadOr0).protRegionBase ≠ 0) :
    execRegionSet rq s = .next (respondAs (deviceWrite (takenBy s 0x0104 rq)
      ((s.hub s.leadOr0).protRegionBase.toNat + leAt (bodyOf rq) 0 4)
      (List.replicate (leAt (bodyOf rq) 4 4) (BitVec.ofNat 8 (leAt (bodyOf rq) 8 1)))) 0x0104 rq stOk 0 []) := by
  have hset : ¬ (s.hub s.leadOr0).protRegionBase.toNat = 0 := fun hzero => hbase (BitVec.eq_of_toNat_eq hzero)
  rw [execRegionSet]
  refine (mailbox_accepted _ h).trans ?_
  simp only [takenBy_hub, takenBy_leadOr0, if_neg hset, Reply.ok]
  rfl

end Sys2Proof.Machine
end

section
/-! The family of the security commands (17_security.md): attestation, identity and protection. -/

namespace Sys2Proof

open Sys2Proof.Machine

/-- Settles O19: a commit of the next index, host memory written through the port, the integrator key of the record die; the
signature is a free value (log 11). -/
theorem attestationAndIdentityComplete : Obligations.AttestationAndIdentityComplete :=
  ⟨fun _ _ ha hdebug hwritable hindex hhost =>
      ⟨_, rfl, execAttest_signs (accepts_spec rfl ha) hdebug hwritable hindex hhost rfl⟩,
    fun _ _ _ ha hobj hroom hhost => execIdentityGet_writes (accepts_spec rfl ha) hobj hroom hhost,
    fun _ _ ha hpoint hfresh hwritable => execIntegratorEnroll_writes (accepts_spec rfl ha) hpoint hfresh hwritable,
    fun _ _ ha hpoint hheld => execIntegratorEnroll_refuses (accepts_spec rfl ha) hpoint hheld⟩

/-- Settles O20: both changes wait for one slice, which takes the merged values; a full store of held entries refuses them
(log 30). -/
theorem protectionCommandsComplete : Obligations.ProtectionCommandsComplete := by
  refine ⟨fun rq s mask v ctrl ha hfree hmask hunlocked hv hctrl => ?_,
    fun rq s ha hfree hsame => execSvnCommit_requests (accepts_spec rfl ha) hfree hsame,
    fun rq s ha hbase => execRegionSet_writes (accepts_spec rfl ha) hbase⟩
  subst hv hctrl
  exact execProtSet_requests (accepts_spec rfl ha) hfree hmask hunlocked

end Sys2Proof
end

section
/-! SUPPORT. Boot images (R350, R436, R439, R440): what is offered, and how a verification outside a rejoin and inside one ends. -/

namespace Sys2Proof.Machine

open Sys2Proof

/-- The row of BOOT_IMAGE. -/
def bootImageSpec : CmdSpec :=
  { code := 0x0100, states := [1], len := some 16, reserved := [(0x0C, 0, 32)], sizes := [(0x08, 4)] }

theorem execBootImage_offers {s : State} {rq : MbxReq} {img : List Byte} (h : accepted s bootImageSpec rq = true)
    (hphase : (s.hub rq.port.hub).phase = .obtain)
    (himg : hostRead s rq.port (leAt (bodyOf rq) 0 8) (leAt (bodyOf rq) 8 4) = some img) :
    execBootImage rq s = .next ((takenBy s 0x0100 rq).updHub rq.port.hub (fun x =>
      { x with offered := some (img, .ownPort), offerBox := some rq.box, phase := .verify })) := by
  refine mailbox_accepted_stay h ?_
  simp only [takenBy_hub, hphase, bne_self_eq_false, Bool.false_eq_true, if_false, takenBy_hostRead, himg]

/-- A source from which an image may be offered outside BOOT_IMAGE: the other hub for the image it runs, the parent of a worker. -/
def OfferFits (s : State) (hub : Hub) (source : OfferSource) (image : List Byte) : Prop :=
  source = .otherHub ∧ (s.hub hub.other).image.map (·.digest) = some (sha3Digest image) ∨
    source = .parent ∧ s.dev.role = 2 ∧ ∃ k, k < 12 ∧ (s.worgon k).role = 1 ∧ (s.worgon k).up = true

theorem execImageOffer_offers {s : State} {hub : Hub} {source : OfferSource} {image : List Byte}
    (hphase : (s.hub hub).phase = .obtain) (hnone : (s.hub hub).offered = none) (hfits : OfferFits s hub source image) :
    execImageOffer hub source image s = .next (s.updHub hub (fun x =>
      { x with offered := some (image, source), phase := .verify })) := by
  obtain ⟨rfl, hsame⟩ | ⟨rfl, hrole, k, hk, hup⟩ := hfits
  · simp only [execImageOffer, hphase, hnone, hsame, beq_self_eq_true, decide_true, Option.isNone_none, Bool.and_self, if_true]
  · have hparent : (List.range 12).any (fun k => (s.worgon k).role == 1 && (s.worgon k).up) = true :=
      List.any_eq_true.mpr ⟨k, List.mem_range.mpr hk, by rw [hup.1, hup.2]; rfl⟩
    have hworker : (s.dev.role.val == 2) = true := by rw [hrole]; rfl
    simp only [execImageOffer, hphase, hnone, hworker, hparent, decide_true, Option.isNone_none, Bool.and_self, if_true]

/-- An image that fails is discarded whole, and its hub obtains again (R439). -/
def imageDiscarded (s : State) (hub : Hub) (b : List Byte) : State :=
  noteFirmware (s.updHub hub (fun x => { x with phase := .obtain, offered := none, offerBox := none })) hub (sha3Digest b)
    (leAt b 4 2) stInvalidImage

section
variable {s : State} {hub : Hub} {b : List Byte} (hphase : (s.hub hub).phase = .verify)
include hphase

/-- An image offered in a mailbox is answered there. -/
theorem execImageVerified_ownPort {box : Nat} (hb : (s.hub hub).offered = some (b, .ownPort)) (hr : (s.hub hub).rejoin = none)
    (hbox : (s.hub hub).offerBox = some box) :
    execImageVerified hub s = .next (match imageFault s.record.minSvn b with
      | some d => respondTo (imageDiscarded s hub b) hub.port box stInvalidImage d []
      | none => (respondTo (startImage s hub b) hub.port box stOk 0 []).updHub hub (fun x => { x with offerBox := none })) := by
  simp only [execImageVerified, hb, hphase, hr, hbox, bne_self_eq_false, Bool.false_eq_true, if_false]
  rfl

theorem execImageVerified_unasked {src : OfferSource} (hb : (s.hub hub).offered = some (b, src)) (hsrc : src ≠ .ownPort)
    (hr : (s.hub hub).rejoin = none) :
    execImageVerified hub s = .next (match imageFault s.record.minSvn b with
      | some _ => imageDiscarded s hub b
      | none => (startImage s hub b).updHub hub (fun x => { x with offerBox := none })) := by
  cases src with
  | ownPort => exact absurd rfl hsrc
  | otherHub | parent =>
    simp only [execImageVerified, hb, hphase, hr, bne_self_eq_false, Bool.false_eq_true, if_false]
    rfl

theorem execImageVerified_rejoin {src : OfferSource} {r : Rejoin} (hb : (s.hub hub).offered = some (b, src))
    (hr : (s.hub hub).rejoin = some r) : execImageVerified hub s = .next (verifyRejoin s hub r b) := by
  simp only [execImageVerified, hb, hphase, hr, bne_self_eq_false, Bool.false_eq_true, if_false]

end

end Sys2Proof.Machine
end

section
/-! The family of the security commands (17_security.md): boot images. -/

namespace Sys2Proof

open Sys2Proof.Machine

/-- Settles O21: an image is taken in step 3 and leaves verification by its checks; the mailbox that offered it is answered then. -/
theorem bootImagesAreOfferedAndVerified : Obligations.BootImagesAreOfferedAndVerified := by
  refine ⟨fun rq s img ha hphase himg => execBootImage_offers (accepts_spec rfl ha) hphase himg,
    fun hub source image s hphase hnone hfits => execImageOffer_offers hphase hnone hfits,
    fun hub s b box hb hphase hr hbox => ?_, fun hub s b src hb hsrc hphase hr => ?_,
    fun hub s b src r hb hphase hr => execImageVerified_rejoin hphase hb hr⟩
  · rw [exec_imageVerified, execImageVerified_ownPort hphase hb hr hbox]
    rfl
  · rw [exec_imageVerified, execImageVerified_unasked hphase hb hsrc hr]
    rfl

end Sys2Proof
end

section
/-! SUPPORT. The join at power-up and the phases of the compute dies' power-up (R442, R486, R490, R491). -/

namespace Sys2Proof.Machine

open Sys2Proof

theorem execHubJoin_h0 {s : State} (hlead : s.dev.lead = none) (hlocked : s.h0.phase = .locked) (hintime : h0InTime s = true) :
    execHubJoin s = .next (firstLead s .h0) := by
  simp only [execHubJoin, hlead, hlocked, hintime, decide_true, Bool.and_self, if_true]

theorem execHubJoin_h1 {s : State} (hlead : s.dev.lead = none) (h0 : s.h0.phase = .locked) (h1 : s.h1.phase = .locked)
    (hlate : h0InTime s = false) : execHubJoin s = .next (firstLead s .h1) := by
  simp only [execHubJoin, hlead, h0, h1, hlate, decide_true, Bool.and_false, Bool.and_self, Bool.false_eq_true, if_false, if_true]

theorem execHubJoin_other {s : State} {l : Hub} (hlead : s.dev.lead = some l) (hlocked : (s.hub l.other).phase = .locked)
    (hpower : (s.hub l.other).powerUp = true) (hnone : (s.hub l.other).rejoin = none) :
    execHubJoin s = .next (joinOther s l.other) := by
  simp only [execHubJoin, hlead, hlocked, hpower, hnone, decide_true, Option.isNone_none, Bool.and_self, if_true]

theorem execJoinTimeout_h1 {s : State} {t : Nat} (hlead : s.dev.lead = none) (hat : s.h1.lockedAt = some t)
    (h1 : s.h1.phase = .locked) (h0 : s.h0.phase ≠ .locked) (hdue : t + 10000000 ≤ s.record.aonTicks) :
    execJoinTimeout s = .next (firstLead s .h1) := by
  have hwaited : decide (t + 100 * msTicks ≤ s.record.aonTicks) = true := decide_eq_true hdue
  have hunlocked : (s.h0.phase != .locked) = true := bne_iff_ne.mpr h0
  simp only [execJoinTimeout, hlead, hat, h1, hunlocked, hwaited, decide_true, Bool.and_self, if_true]

/-- Where a rail is out of tolerance the power-up stops with a POWER entry, whose rail and reading are free values (log 2). -/
def railFailed (s : State) : State :=
  let f := freeBytes { s with dev := { s.dev with cpu := .railFail } } 8
  postBoth (append f.2 4 (f.1.take 2 ++ zeros 2 ++ f.1.drop 4)) { code := 0x0002, arg0 := 1 }

/-- The stacks that fail three trainings are lost: 0 to 15 the far, 16 to 19 the near ones. -/
def stacksTrained (s : State) (failed : List Nat) : State :=
  (((failed.filter (fun k => decide (16 ≤ k) && decide (k < 20))).foldl (fun s k => loseNearStack s (k - 16))
    ((failed.filter (fun k => decide (k < 16))).foldl loseFarStack s)).updNear (fun n => { n with trained := true })).updDev
    (fun d => { d with cpu := .regions })

/-- One phase of the table Compute die power-up. -/
def powerUpPhase (s : State) (railsOk : Bool) (failed : List Nat) : State :=
  match s.dev.cpu with
  | .railCheck => if railsOk then { s with dev := { s.dev with cpu := .islands } } else railFailed s
  | .islands => { s with dev := { s.dev with cpu := .training } }
  | .training => stacksTrained s failed
  | .regions => (powerRegions s).updDev (fun d => { d with cpu := .selfTest })
  | .selfTest => (noteTests s failed (selfTestAll s failed)).updDev (fun d => { d with cpu := .mapping })
  | .mapping => enterReady (mapAll s)
  | .idle | .up | .railFail => s

theorem execComputePowerUpStep_led {s : State} {l : Hub} (hlead : s.dev.lead = some l) (railsOk : Bool) (failed : List Nat) :
    execComputePowerUpStep railsOk failed s = .next (powerUpPhase s railsOk failed) := by
  have hled : s.dev.lead.isNone = false := by rw [hlead, Option.isNone_some]
  simp only [execComputePowerUpStep, hled, Bool.false_eq_true, if_false, powerUpPhase]
  cases s.dev.cpu with
  | railCheck => cases railsOk <;> rfl
  | islands | training | regions | selfTest | mapping | idle | up | railFail => rfl

end Sys2Proof.Machine
end

section
/-! SUPPORT. Delivery of a board configuration (R493, R495 to R498): CONFIG_LOAD and the sideband registers of a hub. -/

namespace Sys2Proof.Machine

open Sys2Proof

@[simp] theorem takenBy_cfgValid (s : State) (c : Nat) (rq : MbxReq) : cfgValid (takenBy s c rq) = cfgValid s := by
  funext cfg
  rw [cfgValid, takenBy_record, cfgValid]

@[simp] theorem takenBy_cfgFault (s : State) (c : Nat) (rq : MbxReq) (cfg : List Byte) :
    cfgFault (takenBy s c rq) cfg = cfgFault s cfg := by
  simp only [cfgFault, takenBy_dev, takenBy_record]

@[simp] theorem takenBy_deliveryFault (s : State) (c : Nat) (rq : MbxReq) (cfg : List Byte) :
    deliveryFault (takenBy s c rq) cfg = deliveryFault s cfg := by
  unfold deliveryFault
  rw [takenBy_cfgFault, takenBy_cfgValid, takenBy_record]

theorem role_val_ne {s : State} (h : s.dev.role ≠ 3) : s.dev.role.val ≠ 3 := fun hval => h (Fin.ext hval)

/-- The row of CONFIG_LOAD. -/
def configLoadSpec : CmdSpec := { loadSpec 0x0002 with states := [0] }

theorem execConfigLoad_delivers {s : State} {rq : MbxReq} {c : List Byte} (h : accepted s configLoadSpec rq = true)
    (hrole : s.dev.role ≠ 3) (hlen : leAt (bodyOf rq) 8 6 = 256)
    (hc : hostRead s rq.port (leAt (bodyOf rq) 0 8) 256 = some c) :
    execConfigLoad rq s = .next (match deliveryFault s c with
      | some n => respondAs s 0x0002 rq stInvalidImage n []
      | none => respondAs (applyConfig (takenBy s 0x0002 rq) c) 0x0002 rq stOk 0 []) := by
  have himage : hostImage s rq.port (bodyOf rq) = some c := by rw [hostImage, hlen, hc]
  rw [execConfigLoad]
  refine (mailbox_accepted _ h).trans ?_
  simp only [takenBy_dev, if_neg (role_val_ne hrole), hlen, bne_self_eq_false, Bool.false_eq_true, if_false, takenBy_hostImage, himage,
    takenBy_deliveryFault]
  cases deliveryFault s c with
  | none => rfl
  | some n => exact congrArg Host.Outcome.next (respondAs_takenBy ..)

/-! The sideband (R498). -/

theorem bit_31 {value : W32} (h : 2 ^ 31 ≤ value.toNat) : bit value.toNat 31 = true := by
  have hlt := value.isLt
  rw [bit, beq_iff_eq]
  omega

theorem writeCfgPtr_sets {s : State} {hub : Hub} {value : W32} (hptr : value.toNat % 512 ≤ 256) :
    writeCfgPtr s hub value = s.updHub hub (fun h => { h with cfgPtr := value.toNat % 512 }) := by
  have hfield : field value.toNat 0 9 = value.toNat % 512 := congrArg (· % 512) (Nat.div_one value.toNat)
  simp only [writeCfgPtr, hfield, if_pos hptr]

section
variable {s : State} {hub : Hub} (hheld : (s.hub hub).phase ≠ .porHeld)
include hheld

theorem execCfgData_stores (value : W32) (hroom : (s.hub hub).cfgPtr < 256) :
    execCfgData hub value s = .next (s.updHub hub (fun h => { h with
      cfgBuf := splice h.cfgBuf h.cfgPtr [BitVec.ofNat 8 value.toNat], cfgPtr := h.cfgPtr + 1 })) := by
  simp only [execCfgData, if_neg hheld, writeCfgData, State.updHub, if_pos hroom, leBytes]

theorem execCfgPtr_sets {value : W32} (hptr : value.toNat % 512 ≤ 256) :
    execCfgPtr hub value s = .next (s.updHub hub (fun h => { h with cfgPtr := value.toNat % 512 })) := by
  rw [execCfgPtr, if_neg hheld, writeCfgPtr_sets hptr]

end

/-- The result of a delivery in the registers of the hub. -/
def deliveryDone (s : State) (hub : Hub) (status detail : Nat) : State :=
  s.updHub hub (fun h => { h with cfgDone := true, cfgStatus := status, cfgDetail := detail })

section
variable {s u : State} {hub : Hub} {value : W32} (hptr : value.toNat % 512 ≤ 256) (hgo : 2 ^ 31 ≤ value.toNat)
  (hu : u = s.updHub hub (fun h => { h with cfgPtr := value.toNat % 512 }))
include hptr hgo hu

theorem execGo_delivers (hwait : (s.hub hub).phase = .configWait) (hrole : s.dev.role ≠ 3) :
    execGo hub value s = .next (match deliveryFault u (padTo 256 (s.hub hub).cfgBuf) with
      | some n => deliveryDone u hub stInvalidImage n
      | none => deliveryDone (applyConfig u (padTo 256 (s.hub hub).cfgBuf)) hub stOk 0) := by
  have hheld : (s.hub hub).phase ≠ .porHeld := by rw [hwait]; decide
  have hphase : (u.hub hub).phase = .configWait := by rw [hu, State.updHub_hub, hwait]
  have hbuf : (u.hub hub).cfgBuf = (s.hub hub).cfgBuf := by rw [hu, State.updHub_hub]
  have hrole' : ¬ u.dev.role.val = 3 := by
    rw [hu, State.updHub_dev]
    exact role_val_ne hrole
  simp only [execGo, if_neg hheld, writeCfgCtrl, writeCfgPtr_sets hptr, ← hu, bit_31 hgo, hphase, hbuf, decide_eq_false hrole',
    bne_self_eq_false, Bool.not_true, Bool.or_self, Bool.false_eq_true, if_false]
  rfl

theorem execGo_refuses (hheld : (s.hub hub).phase ≠ .porHeld) (hwait : (s.hub hub).phase ≠ .configWait) :
    execGo hub value s = .next (deliveryDone u hub stBadState (portDstate s hub.port)) := by
  have hphase : ((u.hub hub).phase != .configWait) = true := by
    rw [hu, State.updHub_hub]
    exact bne_iff_ne.mpr hwait
  have hstate : portDstate u hub.port = portDstate s hub.port := by
    rw [hu]
    cases hub <;> rfl
  simp only [execGo, if_neg hheld, writeCfgCtrl, writeCfgPtr_sets hptr, ← hu, bit_31 hgo, hphase, hstate, Bool.not_true, Bool.true_or,
    Bool.false_eq_true, if_false, if_true]
  rfl

end

end Sys2Proof.Machine
end

section
/-! The family of the package (19_package.md): the join and the power-up, and configurations. -/

namespace Sys2Proof

open Sys2Proof.Machine

/-- Settles O30, row by row. -/
theorem joinAndPowerUpAct : Obligations.JoinAndPowerUpAct :=
  ⟨fun _ hlead hlocked hintime => execHubJoin_h0 hlead hlocked hintime,
    fun _ hlead h0 h1 hlate => execHubJoin_h1 hlead h0 h1 hlate,
    fun _ _ hlead hlocked hpower hnone => execHubJoin_other hlead hlocked hpower hnone,
    fun _ _ hlead hat h1 h0 hdue => execJoinTimeout_h1 hlead hat h1 h0 hdue,
    fun ok failed _ _ hlead => execComputePowerUpStep_led hlead ok failed⟩

/-- Settles O22, row by row: CONFIG_LOAD and GO deliver by the same checks, and GO outside CONFIG_WAIT notes the state of its port. -/
theorem configurationDeliveryCompletes : Obligations.ConfigurationDeliveryCompletes := by
  refine ⟨fun rq s c ha hrole hlen hc => ?load, fun hub value s hheld hroom => execCfgData_stores hheld value hroom,
    fun hub value s hheld hptr => execCfgPtr_sets hheld hptr, fun hub value s u hwait hrole hptr hgo hu => ?go,
    fun hub value s hheld hwait hptr hgo => ?refused⟩
  case load =>
    refine (exec_configLoad rq s).trans ((execConfigLoad_delivers (accepts_spec rfl ha) hrole hlen hc).trans ?_)
    cases deliveryFault s c <;> rfl
  case go =>
    refine (exec_go hub value s).trans ((execGo_delivers hptr hgo hu hwait hrole).trans ?_)
    cases deliveryFault u (padTo 256 (s.hub hub).cfgBuf) <;> rfl
  case refused =>
    rw [exec_go, execGo_refuses hptr hgo rfl hheld hwait, deliveryDone, updHub_updHub]

end Sys2Proof
end

section
/-! SUPPORT. Reset and supply inputs (R481, R485 to R489): POR, HRST and the rails of a hub, power failure, no lead for 10 ms. -/

namespace Sys2Proof.Machine

open Sys2Proof

/-! Release (R481, R485, R486). -/

/-- A hub out of POR starts step 1, or waits for its rails. -/
def hubReleased (railsOk sris : Bool) (h : HubState) : HubState :=
  { h with phase := if railsOk then .obtain else .railHold, sris := sris, railsOk := railsOk }

section
variable {s : State} {hub : Hub} (strap : Straps) (railsOk sris : Bool) (hheld : (s.hub hub).phase = .porHeld)
include hheld

theorem execPorRelease_first (hother : (s.hub hub.other).phase = .porHeld) :
    execPorRelease hub strap railsOk sris s = .next ((romRoles
      { s with dev := { s.dev with role := strap.role, sbAddr := strap.sbAddr } }).updHub hub (hubReleased railsOk sris)) := by
  have hstays : ((s.hub hub).phase != .porHeld) = false := by rw [hheld]; rfl
  simp only [execPorRelease, hstays, Bool.false_eq_true, if_false, if_pos hother]
  rfl

theorem execPorRelease_second (hother : (s.hub hub.other).phase ≠ .porHeld) :
    execPorRelease hub strap railsOk sris s = .next (s.updHub hub (hubReleased railsOk sris)) := by
  have hstays : ((s.hub hub).phase != .porHeld) = false := by rw [hheld]; rfl
  simp only [execPorRelease, hstays, Bool.false_eq_true, if_false, if_neg hother]
  rfl

end

theorem execRailSettle_starts {s : State} {hub : Hub} (h : (s.hub hub).phase = .railHold) :
    execRailSettle hub s = .next (s.updHub hub (fun x => { x with phase := .obtain, railsOk := true })) := by
  rw [execRailSettle, if_pos h]

/-! Reset (R488, R499). -/

theorem execHrst_resets {s : State} {hub : Hub} (hpor : (s.hub hub).phase ≠ .porHeld) (hrail : (s.hub hub).phase ≠ .railHold) :
    execHrst hub s = .next ((resetHub s hub .obtain true).updHub hub (fun h => { h with hrstCount := satInc h.hrstCount })) := by
  simp only [execHrst, decide_eq_false hpor, decide_eq_false hrail, Bool.or_self, Bool.false_eq_true, if_false]

theorem resetHub_hub (s : State) (hub : Hub) (phase : BootPhase) (fault : Bool) :
    ∃ x power svc, (resetHub s hub phase fault).hub hub = { HubState.clear x phase with powerUp := power, svc := svc } :=
  ⟨_, _, _, State.updHub_hub ..⟩

/-- A hub that POR resets: as HRST, and its AON domain and GCOUNT. -/
def hubHeld (s : State) (hub : Hub) : State :=
  (resetHub s hub .porHeld true).updHub hub (fun h => { h with
    gcount := 0, pwrfail := false, recordOk := false, thermLevel := 0, sris := false, hrstCount := 0, cfgBuf := [], cfgPtr := 0
    cfgDone := false, cfgStatus := 0, cfgDetail := 0, thermAlert := false })

/-- What both hubs held in POR do to the rest of the device. -/
def holdEnds (v : State) (hub : Hub) : State := if (v.hub hub.other).phase = .porHeld then losePower (bothHeld v) else v

theorem losePower_hub (s : State) (hub : Hub) : (losePower s).hub hub = s.hub hub := by
  rw [losePower]
  split <;> cases hub <;> rfl

theorem holdEnds_hub (v : State) (hub x : Hub) : (holdEnds v hub).hub x = v.hub x := by
  rw [holdEnds]
  split
  · rw [losePower_hub]
    rfl
  · rfl

theorem execPorAssert_holds {s : State} {hub : Hub} (h : (s.hub hub).phase ≠ .porHeld) :
    execPorAssert hub s = .next (holdEnds (hubHeld s hub) hub) := by
  rw [execPorAssert, if_neg h]
  rfl

/-! Power failure and no lead (R487, R489). -/

theorem execPwrfail_stops (s : State) : execPwrfail s = .next { s with
    h0 := { s.h0 with pwrfail := true }, h1 := { s.h1 with pwrfail := true }
    record := { s.record with stopped := true, marker := none } } := rfl

theorem execLeadAbsentTimeout_clears {s : State} {t : W64} (hlead : s.dev.lead = none) (hsince : s.dev.noLeadSince = some t)
    (hdue : 1000000 ≤ s.since t) : execLeadAbsentTimeout s = .next ((powerUpTables ((List.range 8).foldl powerOffDie s)).updDev
      (fun d => { d with cpu := .idle, dstate := 1 })) := by
  have hwaited : 10 * msTicks ≤ s.since t := hdue
  simp only [execLeadAbsentTimeout, hlead, hsince, if_pos hwaited]

end Sys2Proof.Machine
end

section
/-! The family of the package (19_package.md): reset and supply inputs. -/

namespace Sys2Proof

open Sys2Proof.Machine

/-- Settles O28, row by row. HRST is its assertion and release in one (log 41); while the ROM of a worker runs, its ports have the roles
that its own record die names (log 150). -/
theorem resetAndSupplyInputsAct : Obligations.ResetAndSupplyInputsAct := by
  refine ⟨fun hub strap railsOk sris s hheld hother => execPorRelease_first strap railsOk sris hheld hother,
    fun hub strap railsOk sris s hheld hother => execPorRelease_second strap railsOk sris hheld hother,
    fun hub s hrail => execRailSettle_starts hrail, fun hub s hpor hrail => execHrst_resets hpor hrail,
    fun hub s hpor => ⟨_, execPorAssert_holds hpor, rfl, ?_⟩, execPwrfail_stops,
    fun s t hlead hsince hdue => ⟨_, execLeadAbsentTimeout_clears hlead hsince hdue, rfl, rfl, rfl, rfl, rfl, rfl, rfl⟩⟩
  obtain ⟨x, power, svc, hreset⟩ := resetHub_hub s hub .porHeld true
  rw [holdEnds_hub, hubHeld, State.updHub_hub, hreset]
  exact ⟨rfl, rfl, rfl, rfl, rfl, rfl, rfl⟩

end Sys2Proof
end

section
/-! SUPPORT. The power controller and the thermal steps (R470 to R474): the range of k_cap, and what a step changes. -/

namespace Sys2Proof.Machine

open Sys2Proof

/-- Counting throttled seconds changes the time it counts from and the lifetime counter alone (R476). -/
theorem countThrottle_same (s : State) : ∃ since r, countThrottle s =
    { s with pwr := { s.pwr with throttleSince := since }, record := r } := by
  simp only [countThrottle]
  split
  · exact ⟨none, s.record, rfl⟩
  · split
    · exact ⟨_, s.record, rfl⟩
    · split
      · exact ⟨_, _, rfl⟩
      · exact ⟨s.pwr.throttleSince, s.record, rfl⟩

/-- The readings stand above the cap or the current limit (R470, R472). -/
def PowerState.over (w : PowerState) (watts amps : Nat) : Prop := w.capW < watts ∨ w.limitTenths < 10 * amps

theorem ite_ite_mem (p q : Prop) [Decidable p] [Decidable q] (a b c : Nat) :
    (if p then a else if q then b else c) = a ∨ (if p then a else if q then b else c) = b ∨
      (if p then a else if q then b else c) = c := by
  split
  · exact .inl rfl
  · split
    · exact .inr (.inl rfl)
    · exact .inr (.inr rfl)

section
variable (w : PowerState) (now : W64) (watts amps : Nat)

theorem PowerState.step_kCap_of_over (h : w.over watts amps) : (w.step now watts amps).kCap = max 2 (w.kCap - 1) := by
  have hover : (decide (w.capW < watts) || decide (w.limitTenths < 10 * amps)) = true := by
    rw [Bool.or_eq_true, decide_eq_true_eq, decide_eq_true_eq]
    exact h
  simp only [PowerState.step, hover, if_true]

/-- k_cap falls by one step, rises by one or stays, within 2 to 16 (R470, R472). -/
theorem PowerState.step_kCap : (w.step now watts amps).kCap = max 2 (w.kCap - 1) ∨
    (w.step now watts amps).kCap = min 16 (w.kCap + 1) ∨ (w.step now watts amps).kCap = w.kCap :=
  ite_ite_mem _ _ _ _ _

end

theorem execPowerStep_steps {s : State} (watts amps : Nat) (hlead : s.dev.lead ≠ none)
    (hdue : ∀ x ∈ s.pwr.samples, 1000 ≤ s.since x.1) :
    execPowerStep watts amps s = .next (countThrottle (s.updPwr (fun w => w.step s.now watts amps))) := by
  have hled : s.dev.lead.isNone = false := Option.isNone_eq_false_iff.mpr (Option.isSome_iff_ne_none.mpr hlead)
  have hnone : s.pwr.samples.any (fun x => decide (s.since x.1 < 10 * usTicks)) = false := by
    rw [List.any_eq_false]
    exact fun x hx hrecent => absurd (of_decide_eq_true hrecent) (Nat.not_lt.mpr (hdue x hx))
  simp only [execPowerStep, hled, hnone, Bool.or_self, Bool.false_eq_true, if_false]

/-- A die at another core clock step from now on (R474). -/
def withTherm (now : W64) (k : Nat) (d : DieState) : DieState := { d with kTherm := k, thermSince := now }

section
variable {s : State} {die : Fin 8}

theorem execThermalStep_hot (hhot : (s.die die.val).hot = true) (hdue : 10000 ≤ s.since (s.die die.val).thermSince) :
    execThermalStep die s = .next (countThrottle (s.updDie die.val (fun d => withTherm s.now (max 2 (d.kTherm - 1)) d))) := by
  have hgo : decide (100 * usTicks ≤ s.since (s.die die.val).thermSince) = true := decide_eq_true hdue
  simp only [execThermalStep, hhot, hgo, Bool.and_self, if_true]
  rfl

theorem execThermalStep_cool (hhot : (s.die die.val).hot = false) (hcool : (s.die die.val).cool = true)
    (hdue : 100000 ≤ s.since (s.die die.val).thermSince) :
    execThermalStep die s = .next (countThrottle (s.updDie die.val (fun d => withTherm s.now (min 16 (d.kTherm + 1)) d))) := by
  have hgo : decide (msTicks ≤ s.since (s.die die.val).thermSince) = true := decide_eq_true hdue
  simp only [execThermalStep, hhot, hcool, hgo, Bool.false_and, Bool.false_eq_true, Bool.and_self, if_false, if_true]
  rfl

/-- A thermal step changes the die's step and the time of it, and what the throttled seconds are counted with. -/
theorem countThrottle_updDie (f : DieState → DieState) (d : Nat) :
    (countThrottle (s.updDie d f)).die d = f (s.die d) ∧ (countThrottle (s.updDie d f)).far = s.far ∧
      (countThrottle (s.updDie d f)).tab = s.tab ∧ (countThrottle (s.updDie d f)).cores = s.cores ∧
      (countThrottle (s.updDie d f)).phys = s.phys := by
  obtain ⟨_, _, h⟩ := countThrottle_same (s.updDie d f)
  rw [h]
  exact ⟨(State.updDie_die ..).trans (if_pos rfl), rfl, rfl, rfl, rfl⟩

end

end Sys2Proof.Machine
end

section
/-! The family of power and thermal control (18_power.md): what its controllers keep. -/

namespace Sys2Proof

open Sys2Proof.Machine

/-- Settles O32: k_cap takes one of three values of which each lies within 2 to 16 where it lay there before; POWER_W is the mean of the
readings in the window (log 155). -/
theorem powerControllerStepsStayInRange : Obligations.PowerControllerStepsStayInRange := by
  refine ⟨fun watts amps s hlead hdue hlow hhigh => ?power, fun die s hhot hdue _ _ => ?falls, fun die s hhot hcool hdue _ _ => ?rises⟩
  case power =>
    obtain ⟨since, r, hsame⟩ := countThrottle_same (s.updPwr (fun w => w.step s.now watts amps))
    refine ⟨_, execPowerStep_steps watts amps hlead hdue, ?_⟩
    rw [hsame]
    have hk := s.pwr.step_kCap s.now watts amps
    refine ⟨?_, ?_, ?_, ?_, rfl, rfl, fun hover => s.pwr.step_kCap_of_over s.now watts amps hover, rfl, rfl, rfl, rfl, rfl, rfl⟩
    all_goals
      simp only [State.updPwr_pwr]
      omega
  case falls =>
    obtain ⟨hdie, hrest⟩ := countThrottle_updDie (s := s) (fun d => withTherm s.now (max 2 (d.kTherm - 1)) d) die.val
    exact ⟨_, execThermalStep_hot hhot hdue, congrArg DieState.kTherm hdie, congrArg DieState.thermSince hdie, hrest⟩
  case rises =>
    obtain ⟨hdie, hrest⟩ := countThrottle_updDie (s := s) (fun d => withTherm s.now (min 16 (d.kTherm + 1)) d) die.val
    exact ⟨_, execThermalStep_cool hhot hcool hdue, congrArg DieState.kTherm hdie, congrArg DieState.thermSince hdie, hrest⟩

end Sys2Proof
end

section
/-! SUPPORT. Core power states, the network clock and self-refresh (R463 to R468): each row where its condition holds. -/

namespace Sys2Proof.Machine

open Sys2Proof

section
variable {s : State} {p : Nat} (hp : p < 576)
include hp

/-- A core in no live job's group sleeps once it has been parked 1 ms (R464). -/
theorem execSleepTimeout_sleeps (hpark : (s.physCore p).power = .park) (hwake : (s.physCore p).waking = .no)
    (hnone : (s.physCore p).logical = none) (hdue : 100000 ≤ s.since (s.physCore p).since) :
    execSleepTimeout p s = .next (s.updPhys p (fun c => { c with power := .sleep, since := s.now })) := by
  have hwaited : decide (msTicks ≤ s.since (s.physCore p).since) = true := decide_eq_true hdue
  simp only [execSleepTimeout, if_neg (Nat.not_le.mpr hp), hpark, hwake, hnone, hwaited, decide_true, Bool.false_eq_true, if_false,
    Bool.and_self, if_true]

theorem execPllLock_readies (hpll : (s.physCore p).waking = .pll) :
    execPllLock p s = .next (s.updPhys p (fun c => { c with waking := .ready })) := by
  rw [execPllLock, if_neg (Nat.not_le.mpr hp), if_pos hpll]

end

section
variable {s : State} {d : Fin 8}

theorem execRunEntry_enters {p : Nat} (hp : nextEntry s d.val = some p)
    (hroom : (recentTurns s (s.die d.val).wakes).length < s.pwr.wakeRate) : execRunEntry d s = .next
      ((s.updPhys p (fun c => { c with power := .run, waking := .no, leaving := none, since := s.now, taking := false })).updDie d.val
        (fun x => { x with wakes := recentTurns s (s.die d.val).wakes ++ [s.now], netGated := false, netIdleSince := s.now })) := by
  simp only [execRunEntry, hp, if_pos hroom]

/-- At the limit no core enters Run (R466). -/
theorem execRunEntry_limited (hfull : s.pwr.wakeRate ≤ (recentTurns s (s.die d.val).wakes).length) :
    execRunEntry d s = .next s := by
  simp only [execRunEntry, if_neg (Nat.not_lt.mpr hfull)]
  split <;> rfl

theorem execRunExit_leaves {p : Nat}
    (hp : (physOf d.val).find? (fun p => (s.physCore p).power == .run && (s.physCore p).leaving.isSome) = some p)
    (hroom : (recentTurns s (s.die d.val).sleeps).length < s.pwr.wakeRate) : execRunExit d s = .next
      ((s.updPhys p (fun c => { c with power := c.leaving.getD .park, leaving := none, since := s.now })).updDie d.val
        (fun x => { x with sleeps := recentTurns s (s.die d.val).sleeps ++ [s.now], netIdleSince := s.now })) := by
  simp only [execRunExit, hp, if_pos hroom]

theorem execNetworkClockGate_gates (hidle : ∀ p ∈ physOf d.val, (s.physCore p).power ≠ .run ∧ (s.physCore p).power ≠ .park)
    (hdue : 1000 ≤ s.since (s.die d.val).netIdleSince) :
    execNetworkClockGate d s = .next (s.updDie d.val (fun x => { x with netGated := true })) := by
  have hnone : (physOf d.val).any (fun p => (s.physCore p).power == .run || (s.physCore p).power == .park) = false := by
    refine List.any_eq_false.mpr fun p hp => ?_
    rw [Bool.or_eq_true, beq_iff_eq, beq_iff_eq, not_or]
    exact hidle p hp
  have hwaited : decide (10 * usTicks ≤ s.since (s.die d.val).netIdleSince) = true := decide_eq_true hdue
  simp only [execNetworkClockGate, hnone, hwaited, Bool.not_false, Bool.and_self, if_true]

end

/-- Some die pins a piece whose near copy lies on a near stack. -/
def nearStackHeld (s : State) (n : Nat) : Bool :=
  (List.range 8).any (fun d => (s.die d).cache.any (fun e => !e.pins.isEmpty &&
    ((findCaddy s e.piece.caddy).bind (fun c => nearPieceOf s c e.piece)).any (fun x => x.stack == n)))

theorem nearStackHeld_of_unpinned {s : State} {n : Nat} (h : ∀ d < 8, ∀ e ∈ (s.die d).cache, e.pins ≠ [] →
    ∀ c x, findCaddy s e.piece.caddy = some c → nearPieceOf s c e.piece = some x → x.stack ≠ n) : nearStackHeld s n = false := by
  refine List.any_eq_false.mpr fun d hd => Bool.not_eq_true _ ▸ List.any_eq_false.mpr fun e he hheld => ?_
  rw [Bool.and_eq_true, Bool.not_eq_true', List.isEmpty_eq_false_iff, Option.any_eq_true] at hheld
  obtain ⟨hpins, x, hx, hstack⟩ := hheld
  obtain ⟨c, hc, hpiece⟩ := Option.bind_eq_some_iff.mp hx
  exact h d (List.mem_range.mp hd) e he hpins c x hc hpiece (beq_iff_eq.mp hstack)

section
variable {s : State} {k : Nat} (hdue : 100000 ≤ s.since (s.stack k).lastRequest)
include hdue

theorem execSelfRefreshEntry_far (hk : k < 16) (hfree : (s.far.group (k / 8)).rebuilding = false) :
    execSelfRefreshEntry k s = .next (s.updStack k (fun x => { x with selfRefresh := true })) := by
  have hwaited : decide (msTicks ≤ s.since (s.stack k).lastRequest) = true := decide_eq_true hdue
  simp only [execSelfRefreshEntry, if_neg (Nat.not_le.mpr (Nat.lt_trans hk (by decide : 16 < 20))), if_pos hk, hfree, hwaited,
    Bool.not_false, Bool.and_self, if_true]

theorem execSelfRefreshEntry_near (hnear : 16 ≤ k) (hk : k < 20) (hfree : nearStackHeld s (k - 16) = false) :
    execSelfRefreshEntry k s = .next (s.updStack k (fun x => { x with selfRefresh := true })) := by
  have hwaited : decide (msTicks ≤ s.since (s.stack k).lastRequest) = true := decide_eq_true hdue
  rw [nearStackHeld] at hfree
  simp only [execSelfRefreshEntry, if_neg (Nat.not_le.mpr hk), if_neg (Nat.not_lt.mpr hnear), hfree, hwaited, Bool.not_false,
    Bool.and_self, if_true]

end

end Sys2Proof.Machine
end

section
/-! SUPPORT. Sensors (R474, R475, R477): a die sensor that stays NORMAL, and a far stack that reaches 115 degrees. -/

namespace Sys2Proof.Machine

open Sys2Proof

/-- The level of a sensor stored, and the highest shown in both hubs; THERM_ALERT is set from WARN on (R475, R506). -/
def levelShown (s : State) (sensor level : Nat) : State :=
  let levels := tabPut 0 s.pwr.levels sensor level
  { s with
    pwr := { s.pwr with levels := levels }
    h0 := { s.h0 with thermLevel := topLevel levels, thermAlert := s.h0.thermAlert || decide (1 ≤ level) }
    h1 := { s.h1 with thermLevel := topLevel levels, thermAlert := s.h1.thermAlert || decide (1 ≤ level) } }

/-- The level a reading gives a sensor: a stack's thresholds, or a die's (R474). -/
def levelOf (s : State) (sensor : Nat) (t : Int) : Nat :=
  if (sensorStack sensor).isSome then stackLevel t else dieLevel s.pwr.tThrottle t

/-- A sample of a sensor of R477: its level is shown and acts, and THERMAL is posted where it has risen or fallen back to NORMAL. -/
theorem execSensorSample_of_wf {s : State} {n level : Nat} {r : W16} (hwf : sensorWf n = true)
    (hlevel : levelOf s n (signed 16 r.toNat) = level) :
    execSensorSample n r s = .next
      (if tabGet 0 s.pwr.levels n < level || (level = 0 && tabGet 0 s.pwr.levels n != 0)
        then postThermal (applyLevel (levelShown s n level) n level (signed 16 r.toNat)) n level r
        else applyLevel (levelShown s n level) n level (signed 16 r.toNat)) := by
  subst hlevel
  unfold execSensorSample
  rw [hwf]
  rfl

theorem stack_updStack (s : State) (k : Nat) (f : StackState → StackState) : (s.updStack k f).stack k = f (s.stack k) :=
  (tabGet_tabPut ..).trans (if_pos rfl)

theorem tabGet_levelShown (s : State) (n level : Nat) : tabGet 0 (levelShown s n level).pwr.levels n = level :=
  (tabGet_tabPut ..).trans (if_pos rfl)

/-- A sensor of a die, below the stacks' numbers, that is and stays NORMAL. -/
theorem execSensorSample_normal {s : State} {n : Nat} {r : W16} (hlow : 8 ≤ n) (hhigh : n < 0x13)
    (hold : tabGet 0 s.pwr.levels n = 0) (hlevel : dieLevel s.pwr.tThrottle (signed 16 r.toNat) = 0) :
    execSensorSample n r s = .next (levelShown s n 0) := by
  have hwf : sensorWf n = true := by
    rw [sensorWf, decide_eq_true hhigh]
    rfl
  have hstack : sensorStack n = none := by rw [sensorStack, if_neg (by omega), if_neg (by omega)]
  have hzero : levelOf s n (signed 16 r.toNat) = 0 := by
    simp only [levelOf, hstack, Option.isSome_none, Bool.false_eq_true, if_false, hlevel]
  have hact : applyLevel (levelShown s n 0) n 0 (signed 16 r.toNat) = levelShown s n 0 := by
    rw [applyLevel, hstack]
    exact if_neg (Nat.not_lt.mpr hlow)
  rw [execSensorSample_of_wf hwf hzero, hold, hact]
  rfl

/-- A far stack's sensor. -/
theorem sensorStack_far {n : Nat} (h : 0x30 ≤ n) : sensorStack n = some (n - 0x30) := if_pos h

theorem stackLevel_trip {t : Int} (h : 16 * 115 ≤ t) : stackLevel t = 4 := if_pos h

/-- A far stack at level TRIP: its controller admits half its rate, and THERMTRIP_N is latched (R474). -/
def stackTripped (s : State) (n : Nat) : State :=
  ((levelShown s n 4).updDev (fun d => { d with thermTrip := true })).updStack (n - 0x30) (fun x => { x with share := 50 })

theorem execSensorSample_trip {s : State} {n : Nat} {r : W16} (hlow : 0x30 ≤ n) (hhigh : n < 0x40)
    (ht : 16 * 115 ≤ signed 16 r.toNat) (hold : tabGet 0 s.pwr.levels n < 4) :
    execSensorSample n r s = .next (postThermal (stackTripped s n) n 4 r) := by
  have hwf : sensorWf n = true := by
    rw [sensorWf, decide_eq_true hlow, decide_eq_true hhigh, Bool.and_self, Bool.or_true]
  have htrip : levelOf s n (signed 16 r.toNat) = 4 := by
    simp only [levelOf, sensorStack_far hlow, Option.isSome_some, if_true, stackLevel_trip ht]
  have hact : applyLevel (levelShown s n 4) n 4 (signed 16 r.toNat) = stackTripped s n := by
    rw [applyLevel, sensorStack_far hlow]
    rfl
  rw [execSensorSample_of_wf hwf htrip, hact, decide_eq_true hold, Bool.true_or, if_pos rfl]

end Sys2Proof.Machine
end

section
/-! The family of power and thermal control (18_power.md): what its core and sensor rows do. -/

namespace Sys2Proof

open Sys2Proof.Machine

/-- Settles O37: each row where its condition holds; a near stack counts as held where some die pins a piece on it. -/
theorem corePowerStatesMove : Obligations.CorePowerStatesMove := by
  unfold Obligations.CorePowerStatesMove
  exact ⟨fun _ _ hp hpark hwake hnone hdue => execSleepTimeout_sleeps hp hpark hwake hnone hdue,
    fun _ _ hp hpll => execPllLock_readies hp hpll,
    fun _ _ _ hnext hroom => execRunEntry_enters hnext hroom,
    fun _ _ hfull => execRunEntry_limited hfull,
    fun _ _ _ hp hroom => execRunExit_leaves hp hroom,
    fun _ _ hidle hdue => execNetworkClockGate_gates hidle hdue,
    fun _ _ hk hdue hfree => execSelfRefreshEntry_far hdue hk hfree,
    fun _ _ hnear hk hdue hfree => execSelfRefreshEntry_near hdue hnear hk (nearStackHeld_of_unpinned hfree)⟩

/-- Settles O38: at level NORMAL nothing acts and THERM_ALERT stands; at TRIP `stackTripped` is the state the event goes out in. -/
theorem sensorSamplesSetLevels : Obligations.SensorSamplesSetLevels := by
  unfold Obligations.SensorSamplesSetLevels
  refine ⟨fun n r s hlow hhigh hold hlevel => ?_, fun n r s hlow hhigh ht hold => ⟨stackTripped s n,
    execSensorSample_trip hlow hhigh ht hold, ?_, rfl, tabGet_levelShown s n 4, rfl, rfl, rfl⟩⟩
  · refine (execSensorSample_normal hlow hhigh hold hlevel).trans ?_
    have hbelow : decide (1 ≤ 0) = false := rfl
    simp only [levelShown, hbelow, Bool.or_false]
  · rw [stackTripped, stack_updStack]

end Sys2Proof
end

section
/-! SUPPORT. The event ring, the rebuild share and the SPDM responder (R311, R314, R514), and the values of the reset. -/

namespace Sys2Proof.Machine

open Sys2Proof

theorem execEventRingSet_sets {s : State} {rq : MbxReq} (h : accepted s eventRingSpec rq = true) :
    execEventRingSet rq s = .next (respondAs
      (setRing (takenBy s 0x0050 rq) rq.port (leAt (bodyOf rq) 0 8) (field (leAt (bodyOf rq) 8 1) 0 5)) 0x0050 rq stOk 0 []) :=
  mailbox_accepted _ h

theorem execRebuildShare_sets {s : State} {rq : MbxReq} (h : accepted s rebuildShareSpec rq = true) :
    execRebuildShare rq s = .next (respondAs
      (s.updDev (fun d => { d with rebuildShare := field (leAt (bodyOf rq) 0 1) 0 2 })) 0x0051 rq stOk 0 []) := by
  refine mailbox_accepted_done h ?_
  rw [takenBy_updDev, Reply.ok]

/-- What the responder answers once an image runs (R314), a value of log 24. -/
def spdmReply (s : State) (p : Port) (msg : List Byte) : List Byte :=
  Config.spdmRespond s.dev.spdmCount (debugHalt (s.hub p.hub)) (s.hub p.hub).measurements msg

/-- What an answered message leaves: the messages counted, its step issued to the bignum engine, and the IDE stream it may establish. -/
def spdmAnswered (s : State) (p : Port) (msg : List Byte) : State :=
  ((s.updDev (fun d => { d with spdmCount := d.spdmCount + 1 })).updHub p.hub
    (fun h => { h with big := h.big.issueStep s.dev.spdmCount msg })).updPort p
    (fun ps => { ps with ide := ps.ide || Config.spdmSetsIde s.dev.spdmCount msg })

/-- While the boot ROM runs, the responder is busy (R441). -/
theorem spdmAnswer_inRom {s : State} {p : Port} (h : (s.hub p.hub).inRom = true) (msg : List Byte) :
    spdmAnswer s p msg = (spdmBusy, s) := if_pos h

theorem updPort_ide_false (s : State) (p : Port) : s.updPort p (fun ps => { ps with ide := ps.ide || false }) = s := by
  simp only [Bool.or_false]
  cases p <;> rfl

theorem spdmAnswer_running {s : State} {p : Port} (h : (s.hub p.hub).inRom = false) (msg : List Byte) :
    spdmAnswer s p msg = (spdmReply s p msg, spdmAnswered s p msg) := by
  rw [spdmReply, spdmAnswered]
  cases hide : Config.spdmSetsIde s.dev.spdmCount msg
  case false => simp only [spdmAnswer, h, hide, Bool.false_eq_true, if_false, updPort_ide_false, State.updDev]
  case true => simp only [spdmAnswer, h, hide, Bool.false_eq_true, if_false, if_true, Bool.or_true, State.updDev]

theorem spdmAnswered_hub (s : State) (p : Port) (msg : List Byte) (h : Hub) :
    (spdmAnswered s p msg).hub h =
      if h = p.hub then { s.hub h with big := (s.hub h).big.issueStep s.dev.spdmCount msg } else s.hub h := by
  cases p <;> cases h <;> rfl

theorem spdmAnswered_port (s : State) (p : Port) (msg : List Byte) : (spdmAnswered s p msg).port p =
    { s.port p with ide := (s.port p).ide || Config.spdmSetsIde s.dev.spdmCount msg } := by
  cases p <;> rfl

/-- Nothing but the device's count, the hubs and the ports changes. -/
theorem spdmAnswered_takenBy_rest (s : State) (c : Nat) (rq : MbxReq) (p : Port) (msg : List Byte) :
    { spdmAnswered (takenBy s c rq) p msg with pa := s.pa, pb := s.pb, dev := s.dev, h0 := s.h0, h1 := s.h1 } = s := by
  obtain ⟨port, _, _, _, _, _, _⟩ := rq
  cases port <;> cases p <;> rfl

theorem spdmAnswered_dev (s : State) (p : Port) (msg : List Byte) :
    (spdmAnswered s p msg).dev = { s.dev with spdmCount := s.dev.spdmCount + 1 } := by
  cases p <;> rfl

theorem takenBy_ide (s : State) (c : Nat) (rq : MbxReq) (q : Port) : ((takenBy s c rq).port q).ide = (s.port q).ide :=
  port_field (·.ide) s c rq q (fun _ _ => rfl)

section
variable {s : State} {rq : MbxReq} (h : accepted s spdmSpec rq = true)
include h

theorem execSpdm_inRom (hrom : (s.hub rq.port.hub).inRom = true) :
    execSpdm rq s = .next (respondAs s 0x0004 rq stOk 0 (leBytes 2 spdmBusy.length ++ leBytes 2 0 ++ spdmBusy)) := by
  refine mailbox_accepted_done h ?_
  rw [spdmAnswer_inRom ((congrArg HubState.inRom (takenBy_hub ..)).trans hrom)]
  rfl

theorem execSpdm_running {out msg : List Byte} (hrom : (s.hub rq.port.hub).inRom = false)
    (hmsg : ((bodyOf rq).drop 4).take (leAt (bodyOf rq) 0 2) = msg) (hout : out = spdmReply s rq.port msg) :
    execSpdm rq s = .next (respondAs (spdmAnswered (takenBy s 0x0004 rq) rq.port msg) 0x0004 rq stOk 0
      (leBytes 2 out.length ++ leBytes 2 0 ++ out)) := by
  subst hmsg hout
  rw [execSpdm, mailbox_accepted _ h]
  simp only [spdmSpec]
  rw [spdmAnswer_running ((congrArg HubState.inRom (takenBy_hub ..)).trans hrom), spdmReply, takenBy_dev, takenBy_hub]
  rfl

end

/-- A DOE message meets the same responder; its answer is left in the DOE mailbox (R314). -/
theorem execDoeMessage_leaves {s t : State} {port : Port} {msg out : List Byte} (hup : (s.port port).linkUp = true)
    (hanswer : spdmAnswer s port msg = (out, t)) :
    execDoeMessage port msg s = .next (t.updPort port (fun ps => { ps with doeOut := out })) := by
  simp only [execDoeMessage, hup, Bool.not_true, Bool.false_eq_true, if_false, hanswer]

theorem updPort_updPort (s : State) (p : Port) (f g : PortState → PortState) :
    (s.updPort p f).updPort p g = s.updPort p (fun ps => g (f ps)) := by
  cases p <;> rfl

end Sys2Proof.Machine
end

section
/-! The family of the registers and the step itself (20_registers.md, 00_scope.md). -/

namespace Sys2Proof

open Sys2Proof.Machine

/-- Settles O1. -/
theorem stepRunsFrontCommand : Obligations.StepRunsFrontCommand :=
  fun _ _ _ hfront => step_of_front hfront

/-- Settles O55, field by field of `State.reset`; the values of logs 4, 7 and 9 are those of the model. -/
theorem resetLeavesTheValuesTheSpecGives : Obligations.ResetLeavesTheValuesTheSpecGives := by
  unfold Obligations.ResetLeavesTheValuesTheSpecGives
  refine ⟨rfl, rfl, rfl, rfl, fun h => ?hubs, fun p => ?ports, ⟨rfl, rfl, rfl, rfl, rfl⟩, rfl, rfl, fun _ => rfl, fun _ => rfl,
    fun _ => rfl, ?memories⟩
  case hubs => cases h <;> exact ⟨rfl, rfl, rfl, rfl, rfl, rfl, rfl, rfl, rfl, rfl, rfl, rfl, rfl, rfl, rfl, rfl, rfl⟩
  case ports => cases p <;> exact ⟨fun _ => rfl, rfl, rfl, rfl, rfl⟩
  case memories => rfl

/-- Settles O9. The responder's answer, the IDE stream and the bignum step are values of logs 24 and 119. -/
theorem eventRingAndRebuildShareAndSpdmComplete : Obligations.EventRingAndRebuildShareAndSpdmComplete := by
  unfold Obligations.EventRingAndRebuildShareAndSpdmComplete
  refine ⟨fun rq s ha => execEventRingSet_sets (accepts_spec rfl ha), fun rq s ha => execRebuildShare_sets (accepts_spec rfl ha),
    fun rq s ha hrom => execSpdm_inRom (accepts_spec rfl ha) hrom, fun rq s out ha hrom hout => ?spdm,
    fun port msg s hup hrom => ?doe, fun port msg s hup hrom => execDoeMessage_leaves hup (spdmAnswer_inRom hrom msg)⟩
  case spdm =>
    refine ⟨_, execSpdm_running (accepts_spec rfl ha) hrom rfl hout, ?_, ?_, fun h => ?_, ?_⟩
    · rw [spdmAnswered_dev, takenBy_dev]
    · exact spdmAnswered_takenBy_rest ..
    · rw [spdmAnswered_hub, takenBy_hub, takenBy_dev]
    · rw [spdmAnswered_port, takenBy_ide, takenBy_dev]
  case doe =>
    refine (execDoeMessage_leaves hup (spdmAnswer_running hrom msg)).trans ?_
    rw [spdmAnswered, updPort_updPort]
    rfl

end Sys2Proof
end
